-- ==== Sys2Proof/Word.lean ====
section
/-! DEFINITION. The plain numbers of the Rembola 812: bytes, tags, the bounded indexes of its lanes, windows,
sources, slots, buffers and stock kinds, and tables of a fixed number of like things. -/

namespace Sys2Proof

/-- One byte of host memory, of an attachment or of a Lane Link frame. -/
abbrev Byte := BitVec 8

/-- An order's tag, compared modulo 65,536 (00_scope, Tags; R41). -/
abbrev Tag := BitVec 16

/-- A lane, 0..7 (00_scope, Lanes and stock kinds). -/
abbrev Lane := Fin 8

/-- A booking window, 0..11 (00_scope, Sources). -/
abbrev Window := Fin 12

/-- An order source: the windows 0..11 and the supervisor position 12 (00_scope, Sources). -/
abbrev Source := Fin 13

/-- A slot of the Slate, 0..63 (R37). -/
abbrev SlotNo := Fin 64

/-- An image buffer, 0..47, which is also a job's reference on the Lane Link (R54, R86). -/
abbrev Buffer := Fin 48

/-- A stock kind, 0..3 (R1). -/
abbrev StockKind := Fin 4

/-- Characters, one byte each. -/
abbrev Text := List Byte

/-- A fixed number of like things: the four stock kinds, the eight lanes, the sixty-four slots. -/
abbrev Table (n : Nat) (α : Type) := Vector α n

/-- The table with one row changed. -/
def Table.upd {n : Nat} {α : Type} (t : Table n α) (i : Fin n) (f : α → α) : Table n α :=
  t.set i.val (f t[i]) i.isLt

end Sys2Proof
end

