-- ==== Sys2Proof/Config.lean ====
section
/-! DEFINITION. What the manual fixes for every Rembola 812 (capacities and limits, each with its rule), and the one
value it leaves open, which stays without a body. -/

namespace Sys2Proof.Config

/-- The largest serial, eight decimal digits (R2). -/
def maxSerial : Nat := 99999999

/-- The runs the Office Runs list may hold (R2). -/
def maxRuns : Nat := 32

/-- The largest count of one STOCK RECEIVE or MAGAZINE LOAD (R9, R11). -/
def maxRange : Nat := 100000

/-- The largest value of a 32-bit counter (R6, R94, R147). -/
def max32 : Nat := 4294967295

/-- Issue Table entries plus reservations (R58, R70). -/
def tableRoom : Nat := 4096

/-- The largest charged total (R32). -/
def maxTotal : Nat := 9999999

/-- The largest per-person fare input (R29). -/
def maxBase : Nat := 999999

/-- The largest minimum of a discount, refund fee and cash tolerance (R23, R26, R170). -/
def maxFee : Nat := 99999

/-- The largest value of a drawer accumulator or of a declared amount (R147, R154). -/
def maxAccumulator : Nat := 99999999999

/-- The entries the holding queue may hold (R162). -/
def holdingRoom : Nat := 256

/-- The free count below which the journal gate closes (R168). -/
def gateRoom : Nat := 64

/-- The largest attachment, in bytes (R44). -/
def maxAttachment : Nat := 1024

/-- The size of a STATUS READ snapshot, in bytes (R49). -/
def snapshotBytes : Nat := 1024

/-- The largest payload of a Lane Link frame (the frame layout above R99). -/
def maxPayload : Nat := 1000

/-- FREE VALUE (log entry 11): the number of bytes of kind fields used by a journal entry whose kind has this code.
R163 makes it a field of the entry's header, 0..48, and the manual lays out no kind's fields, so nothing here says
what it is. -/
opaque kindFieldBytes : Nat → Fin 49

end Sys2Proof.Config
end

