-- ==== Sys2Proof/Syntax.lean ====
section
/-! DEFINITION. The commands of the Rembola 812: one constructor of `Instr` for each row of spec/opcode_table.json,
with what the outside world brings with it (an order's contents, a register value, the levels of a lane's input lines,
the outcome of a host-memory access). -/

namespace Sys2Proof

/-- The means of payment, with the codes of the ISSUE order body (03, ISSUE order body). -/
inductive Tender where
  | cash | card | warrant | voucher
  deriving DecidableEq, Repr

/-- One value for each tender. -/
structure ByTender (α : Type) where
  cash    : α
  card    : α
  warrant : α
  voucher : α
  deriving DecidableEq, Repr

/-- A declaration's outcome (R142). -/
inductive DeclOutcome where
  | issued | spoilt | lost
  deriving DecidableEq, Repr

/-- The four kinds of reset (R173). -/
inductive ResetKind where
  | powerOn | resetLine | soft | linkReset
  deriving DecidableEq, Repr

/-- The four link rates (R97). -/
inductive LinkRate where
  | r250k | r500k | r1M | r2M
  deriving DecidableEq, Repr

/-- A stock kind record: name, nominal pitch N and tolerance t (R1). -/
structure KindRec where
  name  : Text
  pitch : Nat
  tol   : Nat
  deriving DecidableEq, Repr

/-- What reading an attachment gave: a bus error, or its bytes (R44). -/
inductive AttRead where
  | error
  | data (bytes : List Byte)
  deriving DecidableEq, Repr

/-- The part of a slot's header that the Exchange Controller reads at the offer: the slot, the flags ATTACHED, RETRY and
MOVABLE, and the attachment with what reading it gives (R37, R44). The source and the tag are those of the header read
at step 1 of the sweep (R40). -/
structure OrderHdr where
  slot     : SlotNo
  attached : Bool
  retry    : Bool
  movable  : Bool
  attLen   : Nat
  attAddr  : BitVec 64
  att      : AttRead
  deriving DecidableEq, Repr

/-- A reset that falls inside a take (R43): after the TAKEN write, and before the owner's changes or (`changed`) after
them and before the answer. -/
structure Cut where
  changed : Bool
  kind    : ResetKind
  deriving DecidableEq, Repr

/-- The levels of a lane's two input lines at an event: LBY asserted, LDI low (R96, R103, R104). -/
structure Pins where
  lby    : Bool
  ldiLow : Bool
  deriving DecidableEq, Repr

/-- The levels that lines of lanes have at an event, of the lanes where they differ from those last given; an exchange that
the event begins on a lane examines them (R103, R104). -/
abbrev Lines := List (Lane × Pins)

/-- What happens around a take: `bus` is the number of host-memory accesses of this event that succeed before one ends
in an error, none when all succeed (R52); `cut` a reset that falls inside the take; `lines` the levels of the lanes' input
lines. -/
structure Env where
  bus   : Option Nat
  cut   : Option Cut
  lines : Lines
  deriving DecidableEq, Repr

/-- A take with no bus error and no reset inside, under the levels last given. -/
def Env.quiet : Env := ⟨none, none, []⟩

/-- What happens around the steps of a sweep: `bus` as in `Env`; `cut` a reset that comes during them, at the access that
`bus` names, which it interrupts, or after them (R169). -/
structure SweepEnv where
  bus : Option Nat
  cut : Option ResetKind
  deriving DecidableEq, Repr

/-- What an event on a lane's sensor lines brings: the levels of that lane's link lines, and `bus` as in `Env`. -/
structure LineEvent where
  pins : Pins
  bus  : Option Nat
  deriving DecidableEq, Repr

/-- The lane whose patience timer expires, and the levels of the lanes' link lines. -/
structure Expiry where
  lane  : Lane
  lines : Lines
  deriving DecidableEq, Repr

/-- The fields of a slot header that a sweep reads at step 1, with the kind byte that an answer copies (R37, R40). -/
structure Header where
  state  : Byte
  source : Byte
  kind   : Byte
  tag    : Tag
  deriving DecidableEq, Repr

/-- The body of OFFICE OPEN (R171); `rate` is none for a link rate code that is none of the four. -/
structure OpenBody where
  day       : Nat
  tolerance : Nat
  patience  : Nat
  rate      : Option LinkRate
  poll      : Nat
  response  : Nat
  stretch   : Nat
  kinds     : Table 4 KindRec
  deriving DecidableEq, Repr

/-- One declaration of FAULT CLEAR; `outcome` is none for a code that is none of the three (R142). -/
structure Declaration where
  serial  : Nat
  outcome : Option DeclOutcome
  deriving DecidableEq, Repr

/-- The body of FAULT CLEAR (R142): `realign` is none when the realign flag is clear. -/
structure ClearBody where
  lane    : Nat
  decls   : List Declaration
  realign : Option Nat
  resume  : Bool
  deriving DecidableEq, Repr

/-- The body of ISSUE in the layout of 03, ISSUE order body; `area` is bytes 16..159. -/
structure IssueBody where
  choice   : Nat
  kind     : Nat
  layout   : Nat
  discount : Nat
  adult    : Nat
  child    : Nat
  na       : Nat
  nc       : Nat
  tender   : Nat
  items    : Nat
  area     : List Byte
  deriving DecidableEq, Repr

/-- A command: an order offered for take from its slot, a register write, a sweep's event, a reset, a timer's expiry, or
an event on a lane's lines. A trailing `bus` is as in `Env`. -/
inductive Instr where
  /-- OFFICE OPEN (R171). -/
  | officeOpen (o : OrderHdr) (b : OpenBody) (e : Env)
  /-- DAY CLOSE (R172). -/
  | dayClose (o : OrderHdr) (e : Env)
  /-- SET DISCOUNTS; `count` is byte 0 of the body, the records stand in the attachment (R24). -/
  | setDiscounts (o : OrderHdr) (count : Nat) (e : Env)
  /-- SET REFUND FEES: pairs of a reason and a fee (R27). -/
  | setRefundFees (o : OrderHdr) (pairs : List (Nat × Nat)) (e : Env)
  /-- SET LAYOUT; `index` is byte 0 of the body, the fields stand in the attachment (R62). -/
  | setLayout (o : OrderHdr) (index : Nat) (e : Env)
  /-- STOCK RECEIVE (R9). -/
  | stockReceive (o : OrderHdr) (kind first count : Nat) (e : Env)
  /-- MAGAZINE LOAD (R11). -/
  | magazineLoad (o : OrderHdr) (lane kind first count : Nat) (e : Env)
  /-- MAGAZINE UNLOAD (R13). -/
  | magazineUnload (o : OrderHdr) (lane : Nat) (e : Env)
  /-- LANE START (R76). -/
  | laneStart (o : OrderHdr) (lane : Nat) (e : Env)
  /-- LANE PARK (R80). -/
  | lanePark (o : OrderHdr) (lane : Nat) (e : Env)
  /-- FAULT CLEAR (R142). -/
  | faultClear (o : OrderHdr) (b : ClearBody) (e : Env)
  /-- SHIFT OPEN; `alt` is none for NONE (R149). -/
  | shiftOpen (o : OrderHdr) (clerk float home : Nat) (alt : Option Nat) (e : Env)
  /-- ISSUE (R55). -/
  | issue (o : OrderHdr) (b : IssueBody) (e : Env)
  /-- VOID (R72). -/
  | void (o : OrderHdr) (kind serial : Nat) (e : Env)
  /-- REFUND (R73). -/
  | refund (o : OrderHdr) (kind serial reason : Nat) (e : Env)
  /-- CASH-UP (R154). -/
  | cashUp (o : OrderHdr) (declared : ByTender Nat) (e : Env)
  /-- CASH-UP WITHDRAW; `window` is the body's field, used for source 12 only (R45, R159). -/
  | cashUpWithdraw (o : OrderHdr) (window : Nat) (e : Env)
  /-- STATUS READ (R49). -/
  | statusRead (o : OrderHdr) (dest : BitVec 64) (len : Nat) (e : Env)
  /-- An offered order whose kind code is none of the 18 (R43). -/
  | unknownOrderKind (o : OrderHdr) (code : Byte) (e : Env)
  /-- The sweep timer expires (R39). -/
  | sweepTimerExpiry
  /-- A host write to Sweep Request (R39). -/
  | sweepRequest (v : BitVec 32)
  /-- The next `steps` of the six steps of the sweep in progress (R40). `release` and `headers` are what step 1 reads. -/
  | sweep (steps : Nat) (release : BitVec 32) (headers : Table 64 Header) (e : SweepEnv)
  /-- A host write to Area Base (R36). -/
  | areaBaseWrite (v : BitVec 64)
  /-- A Run Control write that sets EXCHANGE_ENABLE (R38). -/
  | exchangeEnableSet
  /-- A Run Control write that clears EXCHANGE_ENABLE (R38). -/
  | exchangeEnableClear
  /-- A Run Control write of 1 to SOFT_RESET (R173). -/
  | softReset
  /-- A Run Control write of the three notice enables (R51). -/
  | noticeEnableWrite (answer journal alert : Bool)
  /-- A host write to Notice Status (R50). -/
  | alertClear (v : BitVec 32)
  /-- A host write of `v` to the register at `off` (R53). -/
  | registerWrite (off : Nat) (v : BitVec 64)
  /-- The reads of STARTING: the Area Header's count and offset, and the Release Word (R36, R177). -/
  | exchangeStart (count offset release : BitVec 32) (bus : Option Nat)
  /-- Main power applied (R173). -/
  | powerOn
  /-- The reset pin asserted (R173). -/
  | resetLine
  /-- A reset of the PCIe link (R173). -/
  | linkReset
  /-- The backup-good input changes to this level (R173). -/
  | backupGoodChange (good : Bool)
  /-- The start-up period ends (R173). -/
  | startUpEnd
  /-- A tenth of a second passes (R170). -/
  | officeClockTick
  /-- Ten milliseconds pass (R94). -/
  | queueOccupancySample
  /-- The poll timer of the lane expires (R102, R108). -/
  | pollTimerExpiry (lane : Lane) (pins : Pins)
  /-- LBY of the lane is released; `ldiLow` is the level LDI then has (R103). -/
  | lbyRelease (lane : Lane) (ldiLow : Bool)
  /-- The stretch timer expires with LBY still asserted (R103). -/
  | stretchLimit (lane : Lane) (bus : Option Nat)
  /-- LDI was not idle before the tenth clear pulse (R104). -/
  | clearPulseLimit (lane : Lane) (bus : Option Nat)
  /-- The last check bit of the lane's frame has been sent (R105). -/
  | frameSent (lane : Lane)
  /-- The response timer expires (R105). -/
  | responseTimeout (lane : Lane) (pins : Pins) (bus : Option Nat)
  /-- A report was read bad: its flag, length or check (R99). -/
  | reportBad (lane : Lane) (pins : Pins) (bus : Option Nat)
  /-- A report was received that R101 calls malformed. -/
  | malformedReport (lane : Lane) (pins : Pins) (bus : Option Nat)
  /-- CAPACITY: sequence byte, K, stock width and identity text (R108, R116). -/
  | capacity (lane : Lane) (seq k width : Byte) (identity : Text) (pins : Pins) (bus : Option Nat)
  /-- NOTHING (R116). -/
  | nothing (lane : Lane) (pins : Pins) (bus : Option Nat)
  /-- ACCEPTED (R112). -/
  | accepted (lane : Lane) (seq ref : Byte) (pins : Pins) (bus : Option Nat)
  /-- PRINTED (R112). -/
  | printed (lane : Lane) (seq ref : Byte) (pins : Pins) (bus : Option Nat)
  /-- EJECTED (R113). -/
  | ejected (lane : Lane) (seq ref : Byte) (pins : Pins) (bus : Option Nat)
  /-- SPOILED (R114). -/
  | spoiled (lane : Lane) (seq ref cause : Byte) (pins : Pins) (bus : Option Nat)
  /-- FLUSHED (R116). -/
  | flushed (lane : Lane) (seq count : Byte) (pins : Pins) (bus : Option Nat)
  /-- JAMMED (R115). -/
  | jammed (lane : Lane) (seq : Byte) (pins : Pins) (bus : Option Nat)
  /-- OUT_OF_STOCK (R115). -/
  | outOfStock (lane : Lane) (seq : Byte) (pins : Pins) (bus : Option Nat)
  /-- A STEP pulse (R119, R126). -/
  | step (lane : Lane) (e : LineEvent)
  /-- A STEP pulse on which steps since mark exceed the missed-mark limit while a job awaits its mark (R126). -/
  | missedMarkLimit (lane : Lane) (e : LineEvent)
  /-- A rising MARK edge (R121). -/
  | mark (lane : Lane) (e : LineEvent)
  /-- The patience timer of a lane expires (R92). -/
  | patienceExpiry (x : Expiry)
  /-- The first low bit on LDI after the part's frame (R105). -/
  | reportStart (lane : Lane)
  /-- LDI sampled idle after clear pulse `pulse` (R104). -/
  | ldiIdleAfterPulse (lane : Lane) (pulse : Nat) (bus : Option Nat)
  deriving DecidableEq, Repr

end Sys2Proof
end

