-- ==== Sys2Proof/Decode.lean ====
section
/-! DEFINITION. The commands that words of bits spell. No row of spec/opcode_table.json gives bits, so no word spells one
(log entry 28). -/

namespace Sys2Proof

/-- The command that a word spells by the table's bits: none, for every word, since no row has bits. -/
def decodeTableWord (_nbits _w : Nat) : Option Instr := none

end Sys2Proof
end

