-- ==== Sys2Proof/Machine/State.lean ====
section
/-! DEFINITION. The state of the Rembola 812, block by block in the order of the manual's chapters, all of it plain data;
the reasons a step may stop; and the part after a reset without retention. -/

namespace Sys2Proof.Machine

/-! ### Names shared by several blocks -/

/-- The fault kinds (R134). -/
inductive FaultKind where
  | linkStuck | linkLost | stretchLimit | protocol | jam | markMissed | pitchWrong | stockMismatch | headFault
  | doubleFeed | unexpectedFeed
  deriving DecidableEq, Repr

/-- Why a blank is in doubt: a holding fault's kind, or RESTART (R7). -/
inductive DoubtCause where
  | fault (k : FaultKind)
  | restart
  deriving DecidableEq, Repr

/-- The cause of a SPOILT journal entry (R163). -/
inductive SpoilCause where
  | headFault | doubleFeed | unexpectedFeed
  deriving DecidableEq, Repr

/-- Why a lane is PARKED (R75). -/
inductive ParkReason where
  | supervisor | day
  deriving DecidableEq, Repr

/-- The lane states, with the parked reason where there is one (R75). -/
inductive LaneState where
  | off | starting | ready | printing | holding
  | parked (why : ParkReason)
  deriving DecidableEq, Repr

/-- The reason of a LANE entry (R83). -/
inductive LaneReason where
  | start | opened | cleared | capacity | fault | supervisor | day
  deriving DecidableEq, Repr

/-- The class of a tender's variance (R157). -/
inductive VarClass where
  | balanced | within | over | short | mismatch
  deriving DecidableEq, Repr

/-- The outcomes of an order (03, Outcome codes). -/
inductive OrderOutcome where
  | done | issued | spoilt | inDoubt | cashedUp | withdrawn | resetAborted
  | badForm | outOfRange | wrongSource | staleTag | officeClosed | notPermitted | noShift | shiftOpen
  | drawerClosing | busy | laneUnavailable | laneBusy | wrongStock | overlap | notInStock | runTableFull
  | magazineLoaded | countLimit | fareRange | tableFull | notFound | notIssuedState | notThisShift
  | attachmentFault
  deriving DecidableEq, Repr

/-! ### Stock Register (01) -/

/-- One run of the Office Runs (R2). -/
structure Run where
  kind  : StockKind
  first : Nat
  count : Nat
  deriving DecidableEq, Repr

/-- A LOADED magazine; an EMPTY one is the absence of this record (R5). -/
structure Loaded where
  kind  : StockKind
  first : Nat
  next  : Nat
  last  : Nat
  deriving DecidableEq, Repr

/-- The five outcome counters of a kind (R6). -/
structure Counters where
  received : Nat
  issued   : Nat
  voided   : Nat
  spoilt   : Nat
  lost     : Nat
  deriving DecidableEq, Repr

/-- An In-Doubt List entry (R7). -/
structure DoubtEntry where
  kind    : StockKind
  serial  : Nat
  lane    : Lane
  window  : Window
  shift   : Nat
  charged : Nat
  tender  : Tender
  tag     : Tag
  cause   : DoubtCause
  deriving DecidableEq, Repr

/-- The Stock Register (R1, R2, R5, R6, R7). -/
structure StockRegister where
  kinds    : Table 4 KindRec
  runs     : List Run
  mags     : Table 8 (Option Loaded)
  counters : Table 4 Counters
  doubts   : List DoubtEntry
  deriving DecidableEq, Repr

/-! ### Fare Unit (02) -/

/-- A Discount Table entry (R23). -/
structure Discount where
  name  : Text
  rate  : Nat
  step  : Nat
  min   : Nat
  adult : Bool
  child : Bool
  deriving DecidableEq, Repr

/-- The Fare Unit (R23, R26). -/
structure FareUnit where
  discounts : Table 16 Discount
  fees      : Table 4 Nat
  deriving DecidableEq, Repr

/-! ### Issue Controller and Image Store (04, 05) -/

/-- The source of a layout field (R61). -/
inductive FieldSource where
  | text (i : Fin 12)
  | fareTotal | adultFare | childFare | passengers | discountName | serial | kindName | window | issueDay | issueTime
  deriving DecidableEq, Repr

/-- A layout field (R61). -/
structure LayoutField where
  row    : Nat
  col    : Nat
  width  : Nat
  double : Bool
  source : FieldSource
  deriving DecidableEq, Repr

/-- A composed image field; `serial` marks a SERIAL field, which each send rewrites (R63, R64). -/
structure ImageField where
  row    : Nat
  col    : Nat
  double : Bool
  serial : Bool
  text   : Text
  deriving DecidableEq, Repr

/-- The state of an Issue Table entry, with what is present only in REFUNDED (R69). -/
inductive EntryState where
  | issued | voided
  | refunded (window : Window) (amount : Nat)
  deriving DecidableEq, Repr

/-- An Issue Table entry (R69). -/
structure IssueEntry where
  kind    : StockKind
  serial  : Nat
  window  : Window
  shift   : Nat
  tender  : Tender
  charged : Nat
  state   : EntryState
  deriving DecidableEq, Repr

/-- The Issue Controller's retained records: Issue Table, reservation count, layout store (R69, R70, R61). -/
structure IssueController where
  table    : List IssueEntry
  reserved : Nat
  layouts  : Table 16 (List LayoutField)
  deriving DecidableEq, Repr

/-- The states of a job while it exists (R84). -/
inductive JobState where
  | queued | sent | fed | printed
  deriving DecidableEq, Repr

/-- A job's delivery mark (R98); CARRYING says whether an exchange of its IMAGE has begun (R110). -/
inductive Delivery where
  | carrying (begun : Bool)
  | delivered
  | accepted
  deriving DecidableEq, Repr

/-- A job record (R54), with the discount name as it stood at the take (R32), its state in the lane (R84), its join number
(R85) and its delivery mark (R98). -/
structure Job where
  slot     : SlotNo
  window   : Window
  tag      : Tag
  shift    : Nat
  lane     : Lane
  kind     : StockKind
  tender   : Tender
  pAdult   : Nat
  pChild   : Nat
  total    : Nat
  discount : Text
  retry    : Bool
  movable  : Bool
  buffer   : Buffer
  serial   : Option Nat
  attempt  : Nat
  spoilt   : List Nat
  state    : JobState
  joinNo   : BitVec 32
  delivery : Delivery
  deriving DecidableEq, Repr

/-! ### Lanes: Link Engine, Feed Monitor, Lane Controller (05, 06, 07) -/

/-- The part's frames (the frame table above R99). -/
inductive Frame where
  | greet
  | poll (ack : Bool)
  | image (ref : Buffer) (part : Nat)
  | flush
  deriving DecidableEq, Repr

/-- A frame with the bytes LDO carries for it. -/
structure Carried where
  frame : Frame
  bytes : List Byte
  deriving DecidableEq, Repr

/-- The step an exchange stands at (the exchange table above R102). -/
inductive XStep where
  | busyWait | clearing | sending | awaiting | reporting
  deriving DecidableEq, Repr

/-- An exchange in progress; `timer` is the running stretch or response timer with the time it was started with, in
milliseconds (R103, R105). -/
structure Exchange where
  carried : Carried
  step    : XStep
  timer   : Option Nat
  deriving DecidableEq, Repr

/-- The link phases (R98). -/
inductive LinkPhase where
  | idle | greeting | running | down
  deriving DecidableEq, Repr

/-- A Link Engine's record (R98) with its exchange in progress (R102) and the link start that waits for that exchange
to end (R109). -/
structure LinkEngine where
  phase        : LinkPhase
  rate         : LinkRate
  ack          : Option Bool
  fails        : Nat
  poll         : Option Nat
  repeatFrame  : Option Carried
  waiting      : Option Frame
  awaited      : Option Nat
  flushCarried : Bool
  headFault    : Bool
  exchange     : Option Exchange
  restartDue   : Bool
  deriving DecidableEq, Repr

/-- A Feed Monitor's record (R118). -/
structure FeedMonitor where
  counter : BitVec 16
  last    : Option (BitVec 16)
  since   : Nat
  deriving DecidableEq, Repr

/-- A lane's activity counters (R94). -/
structure Activity where
  jobsQueued   : Nat
  occupancy    : Nat
  blanksFed    : Nat
  blanksSpoilt : Nat
  faults       : Nat
  deriving DecidableEq, Repr

/-- A lane: the lane record (R75), its Link Engine, its Feed Monitor and the levels of its input lines. -/
structure LaneRec where
  state      : LaneState
  queue      : List Job
  out        : List Job
  cap        : Option Nat
  credits    : Nat
  joinNo     : BitVec 32
  patience   : Option Nat
  repairRefs : List Buffer
  act        : Activity
  link       : LinkEngine
  feed       : FeedMonitor
  pins       : Pins
  deriving DecidableEq, Repr

/-! ### Fault Table (08) -/

/-- What a fault record holds while ACTIVE (R135). -/
structure ActiveFault where
  first   : FaultKind
  time    : BitVec 32
  further : List FaultKind
  repeats : Nat
  deriving DecidableEq, Repr

/-- A lane's fault record (R135): CLEAR is the absence of `active`; the journalled flag is set exactly when there is no
deferred entry (its kind and recovered flag). -/
structure FaultRec where
  active   : Option ActiveFault
  deferred : Option (FaultKind × Bool)
  deriving DecidableEq, Repr

/-- The Fault Table: the records, and the deferral list in order of deferral (R135, R140). -/
structure FaultTable where
  recs     : Table 8 FaultRec
  deferral : List Lane
  deriving DecidableEq, Repr

/-! ### Till Unit (09) -/

/-- The states of a drawer (R147). -/
inductive DrawerState where
  | none | opened | closing
  deriving DecidableEq, Repr

/-- The accumulators of one tender (R147). -/
structure Accumulators where
  sales   : Nat
  voids   : Nat
  refunds : Nat
  deriving DecidableEq, Repr

/-- The four counts of a drawer (R147). -/
structure TicketCounts where
  issued : Nat
  voided : Nat
  spoilt : Nat
  lost   : Nat
  deriving DecidableEq, Repr

/-- A cash-up that waits (R147, R154). -/
structure PendingCashUp where
  slot     : SlotNo
  tag      : Tag
  declared : ByTender Nat
  deriving DecidableEq, Repr

/-- A drawer (R147). -/
structure Drawer where
  state     : DrawerState
  clerk     : Nat
  shift     : Nat
  float     : Nat
  home      : Lane
  alt       : Option Lane
  openedAt  : BitVec 32
  acc       : ByTender Accumulators
  counts    : TicketCounts
  saturated : Bool
  suspense  : Nat
  live      : Nat
  cashUp    : Option PendingCashUp
  deriving DecidableEq, Repr

/-- One tender's line of a cash-up (R156, R157). -/
structure CashLine where
  expected : Int
  declared : Int
  variance : Int
  cls      : VarClass
  deriving DecidableEq, Repr

/-! ### Journal Writer (10) -/

/-- The action of a STOCK entry (R163). -/
inductive StockAction where
  | received | loaded | unloaded
  deriving DecidableEq, Repr

/-- The journal entry kinds with their fields (R163). -/
inductive EntryBody where
  | issued (kind : StockKind) (serial : Nat) (lane : Lane) (window : Window) (shift : Nat) (tender : Tender)
      (amount attempt : Nat)
  | spoilt (kind : StockKind) (first last count : Nat) (lane : Lane) (window : Option Window) (cause : SpoilCause)
  | voided (kind : StockKind) (serial : Nat) (window : Window) (amount : Nat)
  | refunded (kind : StockKind) (serial : Nat) (window : Window) (tender : Tender) (amount reason : Nat)
  | inDoubt (kind : StockKind) (serial : Nat) (lane : Lane) (window : Window) (amount : Nat) (cause : DoubtCause)
      (tag : Tag)
  | resolved (kind : StockKind) (serial : Nat) (outcome : DeclOutcome)
  | lost (kind : StockKind) (first count : Nat) (lane : Lane)
  | stock (action : StockAction) (kind : StockKind) (first count : Nat) (lane : Option Lane)
  | fault (lane : Lane) (kind : FaultKind) (recovered : Bool) (repeats : Nat)
  | faultCleared (lane : Lane)
  | lane (lane : Lane) (state : LaneState) (reason : LaneReason)
  | shiftOpen (window : Window) (clerk shift float : Nat)
  | cashUp (window : Window) (shift : Nat) (lines : ByTender (Int × VarClass))
  | dayClose (day : Nat)
  | officeOpen (day : Nat)
  | restart (cause : ResetKind) (kept : Bool) (blanks restarts : Nat)
  deriving DecidableEq, Repr

/-- A journal entry as it is given: stamped with the day and the office time of its event (R163). -/
structure Entry where
  day  : Nat
  time : BitVec 32
  body : EntryBody
  deriving DecidableEq, Repr

/-- An item of the overflow line: an entry, or the place of a lane on the deferral list (R162). -/
inductive OverflowItem where
  | entry (e : Entry)
  | place (l : Lane)
  deriving DecidableEq, Repr

/-- A journal entry as it stands in the ring, with what is filled in at the write (R163). -/
structure Written where
  entry : Entry
  seq   : BitVec 32
  pass  : BitVec 16
  deriving DecidableEq, Repr

/-- The Journal Writer's record (R162); `closed` says that the gate is CLOSED. -/
structure JournalWriter where
  n        : Nat
  head     : Nat
  pass     : BitVec 16
  seq      : BitVec 32
  release  : Option Nat
  holding  : List Entry
  overflow : List OverflowItem
  closed   : Bool
  deriving DecidableEq, Repr

/-! ### Office Control (11) -/

/-- The office settings (R170); times in the units the manual states with each. -/
structure Settings where
  tolerance : Nat
  patience  : Nat
  rate      : LinkRate
  poll      : Nat
  response  : Nat
  stretch   : Nat
  deriving DecidableEq, Repr

/-- A start-up period in progress (R173): whether its retention is decided as for POWER_ON, and whether backup-good has
been found deasserted in it. -/
structure StartUp where
  powerOn : Bool
  bad     : Bool
  deriving DecidableEq, Repr

/-- A Flight List entry (R174). -/
structure FlightEntry where
  kind   : StockKind
  serial : Nat
  lane   : Lane
  window : Window
  shift  : Nat
  tender : Tender
  total  : Nat
  tag    : Tag
  deriving DecidableEq, Repr

/-- Office Control's record (R170), the backup-good input and the start-up period (R173), the Flight List (R174). -/
structure OfficeControl where
  opened     : Bool
  day        : Nat
  settings   : Settings
  clock      : BitVec 32
  cause      : ResetKind
  kept       : Bool
  startUp    : Option StartUp
  backupGood : Bool
  flight     : List FlightEntry
  deriving DecidableEq, Repr

/-! ### Exchange Controller (03) -/

/-- The exchange states (R38). -/
inductive ExState where
  | stopped | starting | running | halted
  deriving DecidableEq, Repr

/-- The alert flags (R50). -/
structure Alerts where
  lane          : Bool
  pressure      : Bool
  busFault      : Bool
  retentionLost : Bool
  deriving DecidableEq, Repr

/-- A sweep in progress (R40): the step to be made next, 1..6, and 7 while step 6 serves the sources; the headers read
at step 1 and the answered marks as they stood then (R47); the sources still to be served, the one being served first;
the slot whose order is offered. -/
structure Sweep where
  step      : Nat
  headers   : Table 64 Header
  marksRead : Table 64 Bool
  remaining : List Source
  offered   : Option SlotNo
  deriving DecidableEq, Repr

/-- The body of an order, by its kind, as each owner's chapter lays it out (R37, R45); `other` is the body of an order whose
kind code is none of the 18. -/
inductive OrderBody where
  | officeOpen (b : OpenBody)
  | dayClose
  | setDiscounts (count : Nat)
  | setRefundFees (pairs : List (Nat × Nat))
  | setLayout (index : Nat)
  | stockReceive (kind first count : Nat)
  | magazineLoad (lane kind first count : Nat)
  | magazineUnload (lane : Nat)
  | laneStart (lane : Nat)
  | lanePark (lane : Nat)
  | faultClear (b : ClearBody)
  | shiftOpen (clerk float home : Nat) (alt : Option Nat)
  | issue (b : IssueBody)
  | void (kind serial : Nat)
  | refund (kind serial reason : Nat)
  | cashUp (declared : ByTender Nat)
  | cashUpWithdraw (window : Nat)
  | statusRead (dest : BitVec 64) (len : Nat)
  | other
  deriving DecidableEq, Repr

/-- The copy of an order that the part makes at its take (R37): the flags, the attachment length and address, the body, and
the attachment where one was read (R44). -/
structure OrderCopy where
  attached   : Bool
  retry      : Bool
  movable    : Bool
  attLen     : Nat
  attAddr    : BitVec 64
  body       : OrderBody
  attachment : Option (List Byte)
  deriving DecidableEq, Repr

/-- The order context of a slot: the kind, source and tag of its header, and the copy made at the take; a slot answered from
POSTED by the sweep itself has no copy (R37, R40, R41). -/
structure OrderCtx where
  kind   : Byte
  source : Byte
  tag    : Tag
  copy   : Option OrderCopy
  deriving DecidableEq, Repr

/-- The fields of an answer after its header, by kind and outcome, as each owner's chapter states them. -/
inductive AnswerFields where
  | none
  | officeOpen (day patience poll response stretch : Nat)
  | dayClose (day : Nat)
  | discounts (written clamped : Nat)
  | fees (fees : Table 4 Nat)
  | layout (index count : Nat)
  | stock (kind : StockKind) (first count : Nat)
  | unloaded (first count : Nat)
  | magazine (m : Loaded)
  | lane (lane : Lane) (state : LaneState)
  | faultClear (lane : Lane) (entries : Nat) (resumed active : Bool) (next : Option Nat)
  | shiftOpen (shift : Nat) (time : BitVec 32)
  | issue (serial : Option Nat) (kind : StockKind) (lane : Lane) (pAdult pChild total attempts : Nat)
      (spoilt : List Nat) (cause : Option DoubtCause)
  | void (kind : StockKind) (serial : Nat) (tender : Tender) (charged : Nat)
  | refund (kind : StockKind) (serial : Nat) (tender : Tender) (charged fee amount : Nat)
  | cashUp (shift tolerance : Nat) (lines : ByTender CashLine) (counts : TicketCounts) (saturated : Bool)
  | withdrawn (shift : Nat)
  | withdraw (window : Window) (shift : Nat)
  | status (size written : Nat)
  deriving DecidableEq, Repr

/-- An answer (R46): its header and its fields. -/
structure Answer where
  outcome : OrderOutcome
  kind    : Byte
  tag     : Tag
  time    : BitVec 32
  fields  : AnswerFields
  deriving DecidableEq, Repr

/-- The Exchange Controller: the registers it owns, the exchange state, the sweep, the expected tags, the order
contexts, the pending answers in order of production and the answered marks (R36 to R53). -/
structure ExchangeController where
  areaBase      : BitVec 64
  enable        : Bool
  answerNotice  : Bool
  journalNotice : Bool
  alertNotice   : Bool
  period        : Byte
  state         : ExState
  alerts        : Alerts
  latchedCount  : Nat
  latchedOffset : Nat
  timer         : Option Nat
  sweep         : Option Sweep
  again         : Bool
  stopAtEnd     : Bool
  nextStart     : Source
  abortDue      : Bool
  tags          : Table 13 Tag
  contexts      : Table 64 (Option OrderCtx)
  pendingAns    : List (SlotNo × Answer)
  marks         : Table 64 Bool
  deriving DecidableEq, Repr

/-! ### Host memory as the part writes it -/

/-- The fault record as STATUS READ reports it (R135). -/
structure FaultSnap where
  active  : Bool
  first   : Option FaultKind
  time    : Option (BitVec 32)
  further : List FaultKind
  repeats : Nat
  deriving DecidableEq, Repr

/-- A lane's part of a snapshot (R49). -/
structure LaneSnap where
  state     : LaneState
  queue     : Nat
  credits   : Nat
  cap       : Nat
  magazine  : Option Loaded
  remaining : Nat
  fault     : FaultSnap
  act       : Activity
  deriving DecidableEq, Repr

/-- A drawer's part of a snapshot (R49). -/
structure DrawerSnap where
  state     : DrawerState
  shift     : Nat
  clerk     : Nat
  live      : Nat
  suspense  : Nat
  saturated : Bool
  deriving DecidableEq, Repr

/-- A stock kind's part of a snapshot (R6, R49). -/
structure KindSnap where
  kind        : KindRec
  counters    : Counters
  inOffice    : Nat
  inMagazines : Nat
  inFlight    : Nat
  inDoubt     : Nat
  deriving DecidableEq, Repr

/-- A STATUS READ snapshot, section by section (R49). -/
structure Snapshot where
  opened       : Bool
  day          : Nat
  clock        : BitVec 32
  exchange     : ExState
  gateClosed   : Bool
  lanes        : Table 8 LaneSnap
  freeShared   : Nat
  freeReserved : Table 8 Nat
  entries      : Nat
  reserved     : Nat
  journalFree  : Option Nat
  holding      : Nat
  drawers      : Table 12 DrawerSnap
  kinds        : Table 4 KindSnap
  runs         : Nat
  deriving DecidableEq, Repr

/-- A snapshot write: its destination and how many of the 1,024 bytes were written. -/
structure SnapshotWrite where
  dest  : BitVec 64
  bytes : Nat
  data  : Snapshot
  deriving DecidableEq, Repr

/-- A slot of the Slate in host memory as the part last read or wrote it: its state byte, and the answer written. -/
structure HostSlot where
  state  : Byte
  answer : Option Answer
  deriving DecidableEq, Repr

/-- Host memory as far as the part writes it: the slots, the journal ring by host address, and the last snapshot.
`busIn` is the model's own (log entry 6): the accesses of the event in progress that still succeed before one ends in
an error; it is none between events. -/
structure HostMem where
  slots    : Table 64 HostSlot
  journal  : List (Nat × Written)
  snapshot : Option SnapshotWrite
  busIn    : Option Nat
  deriving DecidableEq, Repr

/-! ### The whole part -/

/-- The state of the part, with the queue of commands that wait, first in first out. -/
structure State where
  pending : List Instr
  stock   : StockRegister
  fare    : FareUnit
  issue   : IssueController
  images  : Table 48 (Option (List ImageField))
  lanes   : Table 8 LaneRec
  faults  : FaultTable
  till    : Table 12 Drawer
  journal : JournalWriter
  office  : OfficeControl
  exch    : ExchangeController
  host    : HostMem
  deriving DecidableEq, Repr

/-- Why a step stops with a fault. The manual names no event that stops the part, so no step of the model raises one. -/
inductive Fault where
  /-- Raised by nothing; the type is kept inhabited. Safe: no step answers it. -/
  | stopped
  deriving DecidableEq, Repr

/-- Why a step is refused. -/
inductive Refusal where
  /-- A command of the table that has no meaning yet, raised by `exec`'s arm alone. Safe: the machine stops. -/
  | notModelled (mnemonic : String)
  deriving DecidableEq, Repr

/-! ### After a reset without retention -/

/-- Twelve spaces (R1, R23), each 0x20 (DESIGN CHOICE, log entry 44). -/
def spaces12 : Text := List.replicate 12 0x20

/-- "FULL FARE" and three spaces (R23), by the character codes of log entry 44 (DESIGN CHOICE). -/
def fullFareName : Text :=
  [0x46, 0x55, 0x4C, 0x4C, 0x20, 0x46, 0x41, 0x52, 0x45, 0x20, 0x20, 0x20]

/-- Entry 0 of the Discount Table, which nothing changes (R23). -/
def fullFare : Discount := ⟨fullFareName, 0, 1, 0, false, false⟩

/-- Layout 0, which nothing changes (R61). -/
def layout0 : List LayoutField :=
  [⟨0, 0, 12, false, .kindName⟩, ⟨0, 48, 8, false, .serial⟩, ⟨2, 0, 7, true, .fareTotal⟩, ⟨5, 0, 2, false, .window⟩,
   ⟨5, 8, 5, false, .issueDay⟩]

/-- The Stock Register's empty state (R22). -/
def StockRegister.empty : StockRegister where
  kinds    := Vector.replicate 4 ⟨spaces12, 0, 0⟩
  runs     := []
  mags     := Vector.replicate 8 none
  counters := Vector.replicate 4 ⟨0, 0, 0, 0, 0⟩
  doubts   := []

/-- The Fare Unit after a reset without retention (R23, R26, R35). -/
def FareUnit.empty : FareUnit where
  discounts := (Vector.replicate 16 ⟨spaces12, 0, 1, 0, false, false⟩).set 0 fullFare
  fees      := Vector.replicate 4 0

/-- The Issue Controller after a reset without retention (R61, R69, R70). -/
def IssueController.empty : IssueController where
  table    := []
  reserved := 0
  layouts  := Vector.replicate 16 layout0

/-- A Link Engine after every kind of reset (R98); the link rate is DESIGN CHOICE, log entry 12. -/
def LinkEngine.reset : LinkEngine where
  phase        := .idle
  rate         := .r250k
  ack          := some false
  fails        := 0
  poll         := none
  repeatFrame  := none
  waiting      := none
  awaited      := none
  flushCarried := false
  headFault    := false
  exchange     := none
  restartDue   := false

/-- A Feed Monitor after every kind of reset (R118). -/
def FeedMonitor.reset : FeedMonitor := ⟨0, none, 0⟩

/-- Activity counters all 0 (R94). -/
def Activity.zero : Activity := ⟨0, 0, 0, 0, 0⟩

/-- An unconnected lane reads LBY asserted and LDI idle (11, Electrical summary). -/
def Pins.unconnected : Pins := ⟨true, false⟩

/-- A lane after a reset without retention (R75, R95); its input levels are DESIGN CHOICE, log entry 8. -/
def LaneRec.off : LaneRec where
  state      := .off
  queue      := []
  out        := []
  cap        := none
  credits    := 0
  joinNo     := 0
  patience   := none
  repairRefs := []
  act        := Activity.zero
  link       := LinkEngine.reset
  feed       := FeedMonitor.reset
  pins       := Pins.unconnected

/-- A CLEAR fault record with nothing deferred (R135). -/
def FaultRec.clear : FaultRec := ⟨none, none⟩

/-- The Fault Table after a reset without retention (R135, R141). -/
def FaultTable.empty : FaultTable := ⟨Vector.replicate 8 FaultRec.clear, []⟩

/-- The same value for each tender. -/
def ByTender.all {α : Type} (a : α) : ByTender α := ⟨a, a, a, a⟩

/-- A drawer after a reset without retention (R147). -/
def Drawer.empty : Drawer where
  state     := .none
  clerk     := 0
  shift     := 0
  float     := 0
  home      := 0
  alt       := none
  openedAt  := 0
  acc       := ByTender.all ⟨0, 0, 0⟩
  counts    := ⟨0, 0, 0, 0⟩
  saturated := false
  suspense  := 0
  live      := 0
  cashUp    := none

/-- The Journal Writer after a reset without retention (R162). -/
def JournalWriter.empty : JournalWriter where
  n        := 0
  head     := 0
  pass     := 0
  seq      := 0
  release  := none
  holding  := []
  overflow := []
  closed   := false

/-- The office settings after a reset without retention (R170). -/
def Settings.lost : Settings := ⟨0, 0, .r250k, 1, 5, 10⟩

/-- A header of zeros. -/
def Header.zero : Header := ⟨0, 0, 0, 0⟩

/-- The Exchange Controller after every kind of reset but for the expected tags, which are as after a reset without
retention (R38, R41, R47, R50, R51, R53); the latched values are DESIGN CHOICE, log entry 37. -/
def ExchangeController.reset : ExchangeController where
  areaBase      := 0
  enable        := false
  answerNotice  := false
  journalNotice := false
  alertNotice   := false
  period        := 0
  state         := .stopped
  alerts        := ⟨false, false, false, false⟩
  latchedCount  := 0
  latchedOffset := 0
  timer         := none
  sweep         := none
  again         := false
  stopAtEnd     := false
  nextStart     := 0
  abortDue      := true
  tags          := Vector.replicate 13 0
  contexts      := Vector.replicate 64 none
  pendingAns    := []
  marks         := Vector.replicate 64 false

/-- Host memory in which the part has written nothing. -/
def HostMem.blank : HostMem where
  slots    := Vector.replicate 64 ⟨0, none⟩
  journal  := []
  snapshot := none
  busIn    := none

/-- The machine right after a POWER_ON reset whose start-up period ended with retention LOST: every block in the empty
state of R176, the registers and the exchange as after every reset, RETENTION_LOST set and the RESTART entry of R176
given (log entries 1, 8, 12, 29). -/
def State.reset : State where
  pending := []
  stock   := StockRegister.empty
  fare    := FareUnit.empty
  issue   := IssueController.empty
  images  := Vector.replicate 48 none
  lanes   := Vector.replicate 8 LaneRec.off
  faults  := FaultTable.empty
  till    := Vector.replicate 12 Drawer.empty
  journal := { JournalWriter.empty with holding := [⟨0, 0, .restart .powerOn false 0 1⟩] }
  office  :=
    { opened := false, day := 0, settings := Settings.lost, clock := 0, cause := .powerOn, kept := false,
      startUp := none, backupGood := false, flight := [] }
  exch    := { ExchangeController.reset with alerts := ⟨false, false, false, true⟩ }
  host    := HostMem.blank

end Sys2Proof.Machine
end

