-- ==== Sys2Proof/Machine/Ops.lean ====
section
/-! DEFINITION. The named operations over the state that every chapter uses: reading and changing one block or one lane,
a host-memory access and its failure (R52), and the writing or holding of an answer (R46). -/

namespace Sys2Proof

/-! ### Values by tender -/

/-- The value for one tender. -/
def ByTender.get {α : Type} (v : ByTender α) : Tender → α
  | .cash => v.cash
  | .card => v.card
  | .warrant => v.warrant
  | .voucher => v.voucher

/-- The value of one tender changed. -/
def ByTender.upd {α : Type} (v : ByTender α) (t : Tender) (f : α → α) : ByTender α :=
  match t with
  | .cash => { v with cash := f v.cash }
  | .card => { v with card := f v.card }
  | .warrant => { v with warrant := f v.warrant }
  | .voucher => { v with voucher := f v.voucher }

/-- A function of each tender's value. -/
def ByTender.map {α β : Type} (f : α → β) (v : ByTender α) : ByTender β :=
  ⟨f v.cash, f v.card, f v.warrant, f v.voucher⟩

/-- The tender of a code of the ISSUE order body (03, ISSUE order body). -/
def Tender.ofCode : Nat → Option Tender
  | 0 => some .cash
  | 1 => some .card
  | 2 => some .warrant
  | 3 => some .voucher
  | _ => none

end Sys2Proof

namespace Sys2Proof.Machine

/-! ### Small arithmetic -/

/-- Addition that stops at `cap` (R94, R135, R150). -/
def satAdd (cap a b : Nat) : Nat := min cap (a + b)

/-- The number as an index below `n`, or none. -/
def toIdx (n k : Nat) : Option (Fin n) := if h : k < n then some ⟨k, h⟩ else none

/-- The bytes of a number, low byte first (03, Formats). -/
def leBytes : Nat → Nat → List Byte
  | 0, _ => []
  | n + 1, v => BitVec.ofNat 8 v :: leBytes n (v / 256)

/-- The number that bytes spell, low byte first (03, Formats). -/
def ofLe : List Byte → Nat
  | [] => 0
  | b :: bs => b.toNat + 256 * ofLe bs

/-! ### Blocks and lanes -/

def State.onStock (s : State) (f : StockRegister → StockRegister) : State := { s with stock := f s.stock }
def State.onIssue (s : State) (f : IssueController → IssueController) : State := { s with issue := f s.issue }
def State.onFaults (s : State) (f : FaultTable → FaultTable) : State := { s with faults := f s.faults }
def State.onJournal (s : State) (f : JournalWriter → JournalWriter) : State := { s with journal := f s.journal }
def State.onOffice (s : State) (f : OfficeControl → OfficeControl) : State := { s with office := f s.office }
def State.onExch (s : State) (f : ExchangeController → ExchangeController) : State := { s with exch := f s.exch }
def State.onHost (s : State) (f : HostMem → HostMem) : State := { s with host := f s.host }

/-- A lane's record. -/
def State.lane (s : State) (l : Lane) : LaneRec := s.lanes[l]

/-- One lane's record changed. -/
def State.onLane (s : State) (l : Lane) (f : LaneRec → LaneRec) : State := { s with lanes := s.lanes.upd l f }

/-- One lane's Link Engine changed. -/
def State.onLink (s : State) (l : Lane) (f : LinkEngine → LinkEngine) : State :=
  s.onLane l fun r => { r with link := f r.link }

/-- One lane's Feed Monitor changed. -/
def State.onFeed (s : State) (l : Lane) (f : FeedMonitor → FeedMonitor) : State :=
  s.onLane l fun r => { r with feed := f r.feed }

/-- One lane's activity counters changed; while a lane is PARKED they do not rise (R81, R94). -/
def State.onAct (s : State) (l : Lane) (f : Activity → Activity) : State :=
  s.onLane l fun r => match r.state with
    | .parked _ => r
    | _ => { r with act := f r.act }

/-- One drawer changed. -/
def State.onDrawer (s : State) (w : Window) (f : Drawer → Drawer) : State := { s with till := s.till.upd w f }

/-- One lane's magazine replaced. -/
def State.setMag (s : State) (l : Lane) (m : Option Loaded) : State :=
  s.onStock fun r => { r with mags := r.mags.upd l fun _ => m }

/-- One kind's outcome counters changed. -/
def State.onCounters (s : State) (k : StockKind) (f : Counters → Counters) : State :=
  s.onStock fun r => { r with counters := r.counters.upd k f }

/-- The alert flags changed. -/
def State.onAlerts (s : State) (f : Alerts → Alerts) : State := s.onExch fun x => { x with alerts := f x.alerts }

/-- A lane's magazine. -/
def State.mag (s : State) (l : Lane) : Option Loaded := s.stock.mags[l]

/-- A magazine that is EMPTY or exhausted (R5, R90). -/
def magSpent : Option Loaded → Bool
  | none => true
  | some m => decide (m.last < m.next)

/-- The remaining count of a magazine (R5). -/
def Loaded.remaining (m : Loaded) : Nat := m.last + 1 - m.next

/-- No start-up period is in progress (R173). -/
def State.up (s : State) : Bool := s.office.startUp.isNone

/-! ### The input lines of a lane (R96, R103, R104) -/

/-- The levels of a lane's input lines as they now stand. -/
def setPins (l : Lane) (p : Pins) (s : State) : State := s.onLane l fun r => { r with pins := p }

/-- The levels that an event brings for some lanes. -/
def setLines (ps : Lines) (s : State) : State := ps.foldl (fun s p => setPins p.1 p.2 s) s

/-! ### Host-memory accesses (R52) -/

/-- The accesses of the event that still succeed are set. -/
def State.setBus (s : State) (b : Option Nat) : State := s.onHost fun h => { h with busIn := b }

/-- One host-memory access, and whether it succeeded (log entry 6). -/
def State.access (s : State) : State × Bool :=
  match s.host.busIn with
  | none => (s, true)
  | some 0 => (s.setBus none, false)
  | some (n + 1) => (s.setBus (some n), true)

/-- A host-memory access error: BUS_FAULT is set, the exchange goes to HALTED, and a sweep in progress ends (R52). When
EXCHANGE_ENABLE was cleared during that sweep the exchange is STOPPED at this end of it, by R38 (log entry 20). -/
def busFault (s : State) : State :=
  s.onExch fun x =>
    { x with
      alerts := { x.alerts with busFault := true }
      state := if x.stopAtEnd then (if x.enable then .starting else .stopped) else .halted
      sweep := none
      timer := none
      again := false
      stopAtEnd := false }

/-- An event whose accesses meet the error that `bus` names, if any. -/
def withBus (bus : Option Nat) (f : State → State) (s : State) : State :=
  (f (s.setBus bus)).setBus none

/-! ### Answers (R37, R46, R47) -/

/-- The sweep in progress changed. -/
def State.onSweep (s : State) (f : Sweep → Sweep) : State := s.onExch fun x => { x with sweep := x.sweep.map f }

/-- The state byte that the sweep in progress holds for a slot, changed. -/
def Sweep.setByte (w : Sweep) (i : SlotNo) (b : Byte) : Sweep :=
  { w with headers := w.headers.upd i fun h => { h with state := b } }

/-- The order context of a slot opened from its header, with the copy of its order (R37). -/
def openContext (i : SlotNo) (h : Header) (c : Option OrderCopy) (s : State) : State :=
  s.onExch fun x => { x with contexts := x.contexts.upd i fun _ => some ⟨h.kind, h.source, h.tag, c⟩ }

/-- An answer kept pending in its slot's order context, behind those produced before it (R46). -/
def holdAnswer (i : SlotNo) (a : Answer) (s : State) : State :=
  s.onExch fun x => { x with pendingAns := x.pendingAns ++ [(i, a)] }

/-- The write of an answer and of ANSWERED, and whether it succeeded: the slot gets its answered mark and its context is
released (R37, R47). -/
def tryAnswer (i : SlotNo) (a : Answer) (s : State) : State × Bool :=
  let r := s.access
  if r.2 then
    (((r.1.onHost fun h => { h with slots := h.slots.upd i fun _ => ⟨3, some a⟩ }).onExch fun x =>
        { x with contexts := x.contexts.upd i fun _ => none, marks := x.marks.upd i fun _ => true }).onSweep
      fun w => w.setByte i 3, true)
  else (busFault r.1, false)

/-- An owner produces an answer: written at once while RUNNING, held pending otherwise or when the write fails
(R46, R52). The office time is that of this event. -/
def answer (i : SlotNo) (kind : Byte) (tag : Tag) (oc : OrderOutcome) (f : AnswerFields) (s : State) : State :=
  let a : Answer := ⟨oc, kind, tag, s.office.clock, f⟩
  if s.exch.state = .running then
    let r := tryAnswer i a s
    if r.2 then r.1 else holdAnswer i a r.1
  else holdAnswer i a s

/-- A function of the state for each slot in turn, 0..63. -/
def forSlots (f : SlotNo → State → State) (s : State) : State :=
  (List.finRange 64).foldl (fun s i => f i s) s

/-- A function of the state for each lane in turn, 0..7. -/
def forLanes (f : Lane → State → State) (s : State) : State :=
  (List.finRange 8).foldl (fun s l => f l s) s

/-- A function of the state for each window in turn, 0..11. -/
def forWindows (f : Window → State → State) (s : State) : State :=
  (List.finRange 12).foldl (fun s w => f w s) s

end Sys2Proof.Machine
end

