-- ==== Sys2Proof/Machine/Fare.lean ====
section
/-! DEFINITION. The Fare Unit (02): the per-person figures, the total and the refund amount. -/

namespace Sys2Proof.Machine

/-- The four steps of R30 on a base, for a class the entry applies to. -/
def discounted (d : Discount) (base : Nat) : Nat :=
  let p := (base - base * d.rate / 1000) / d.step * d.step
  if p < d.min then min d.min base else p

/-- The per-person figure of a class: 0 for a count of 0, the base where the entry does not apply (R30, R31). -/
def perPerson (d : Discount) (applies : Bool) (base count : Nat) : Nat :=
  if count = 0 then 0 else if applies then discounted d base else base

/-- The figures the Fare Unit returns for an ISSUE (R32). -/
structure Figures where
  pAdult : Nat
  pChild : Nat
  total  : Nat
  name   : Text
  deriving DecidableEq, Repr

/-- The fare computation; none is the refusal FARE_RANGE (R29 to R32). -/
def fare (d : Discount) (adult child na nc : Nat) : Option Figures :=
  let pa := perPerson d d.adult adult na
  let pc := perPerson d d.child child nc
  if pa * na + pc * nc ≤ Config.maxTotal then some ⟨pa, pc, pa * na + pc * nc, d.name⟩ else none

/-- The refund amount: the charged amount less the fee, or 0 (R34). -/
def refundAmount (charged fee : Nat) : Nat := charged - fee

end Sys2Proof.Machine
end

