-- ==== Sys2Proof/Machine/Images.lean ====
section
/-! DEFINITION. Ticket images: their composition from a layout, the filling of SERIAL fields, and the image buffers
(R61, R63, R64, R86). -/

namespace Sys2Proof.Machine

/-! ### Characters

The manual names no character code. The digits have those that the check value of R99 fixes; the space, the asterisk and the
letters take the codes of the same set (DESIGN CHOICE, log entry 44). -/

/-- A digit as a character, 0x30 to 0x39 (DEDUCED from the check value of R99; log entry 44). -/
def digitChar (n : Nat) : Byte := BitVec.ofNat 8 (0x30 + n % 10)

/-- The decimal digits of a number in front of `acc`, at most `fuel` of them. -/
def digitsOnto : Nat → Nat → Text → Text
  | 0, _, acc => acc
  | fuel + 1, n, acc => if n < 10 then digitChar n :: acc else digitsOnto fuel (n / 10) (digitChar n :: acc)

/-- A number in decimal without leading zeros; every figure of an image has fewer than 20 digits (R63). -/
def decimal (n : Nat) : Text := digitsOnto 20 n []

/-- The last `width` decimal digits of a number, with leading zeros. -/
def fixedDigits : Nat → Nat → Text
  | 0, _ => []
  | w + 1, n => fixedDigits w (n / 10) ++ [digitChar n]

/-- `n` asterisks (R63), each 0x2A (DESIGN CHOICE, log entry 44). -/
def asterisks (n : Nat) : Text := List.replicate n 0x2A

/-- A left-aligned text: cut at the printable length or padded on the right (R63) with spaces, each 0x20 (DESIGN CHOICE, log
entry 44). -/
def alignLeft (len : Nat) (t : Text) : Text := (t ++ List.replicate len 0x20).take len

/-- A right-aligned figure: padded on the left with spaces, each 0x20, or asterisks when it is longer than the printable length
(R63; DESIGN CHOICE for the codes, log entry 44). -/
def alignRight (len : Nat) (t : Text) : Text :=
  if t.length ≤ len then List.replicate (len - t.length) 0x20 ++ t else asterisks len

/-! ### Composition (R63) -/

/-- The printable length of a field: its width, cut where the field would pass column 63 (R63). -/
def LayoutField.printable (f : LayoutField) : Nat :=
  min f.width (if f.double then (64 - f.col) / 2 else 64 - f.col)

/-- What an image is composed from at the acceptance of an ISSUE (R63). -/
structure ImageData where
  items    : List Text
  figures  : Figures
  na       : Nat
  nc       : Nat
  kindName : Text
  window   : Window
  day      : Nat
  time     : BitVec 32
  deriving DecidableEq, Repr

/-- PASSENGERS: the adult count, A, a space, the child count, C (R63); the letters are 0x41 and 0x43 (DESIGN CHOICE, log entry
44). -/
def passengers (na nc : Nat) : Text := decimal na ++ [0x41, 0x20] ++ decimal nc ++ [0x43]

/-- The text of a field over its printable length (R63), its characters by the codes of log entry 44 (DESIGN CHOICE). -/
def fieldText (d : ImageData) (len : Nat) : FieldSource → Text
  | .text i => alignLeft len (d.items.getD i.val [])
  | .fareTotal => alignRight len (decimal d.figures.total)
  | .adultFare => alignRight len (decimal d.figures.pAdult)
  | .childFare => alignRight len (decimal d.figures.pChild)
  | .passengers => alignLeft len (passengers d.na d.nc)
  | .discountName => alignLeft len d.figures.name
  | .serial => asterisks len
  | .kindName => alignLeft len d.kindName
  | .window => alignRight len (fixedDigits 2 d.window.val)
  | .issueDay => alignRight len (decimal d.day)
  | .issueTime => alignRight len (decimal d.time.toNat)

/-- One image field composed from one layout field (R63). -/
def composeField (d : ImageData) (f : LayoutField) : ImageField :=
  ⟨f.row, f.col, f.double, decide (f.source = .serial), fieldText d f.printable f.source⟩

/-- The image of an order: one field for each field of the layout, in layout order (R63). -/
def compose (d : ImageData) (layout : List LayoutField) : List ImageField := layout.map (composeField d)

/-- A serial written into a SERIAL field: eight digits, or asterisks where the field is too narrow (R64). -/
def fillField (n : Nat) (f : ImageField) : ImageField :=
  if f.serial then { f with text := alignRight f.text.length (fixedDigits 8 n) } else f

/-- A serial written into every SERIAL field of an image (R64). -/
def fillSerial (n : Nat) (im : List ImageField) : List ImageField := im.map (fillField n)

/-! ### Buffers (R86) -/

/-- A buffer is one of the 32 shared ones. -/
def Buffer.shared (b : Buffer) : Bool := decide (b.val < 32)

/-- The reserved pair of a lane, lower number first. -/
def reservedPair (l : Lane) : List Buffer :=
  [⟨32 + 2 * l.val, by omega⟩, ⟨33 + 2 * l.val, by omega⟩]

/-- The shared buffers in rising order. -/
def sharedBuffers : List Buffer := (List.finRange 48).filter fun b => decide (b.val < 32)

/-- A buffer is free. -/
def State.bufferFree (s : State) (b : Buffer) : Bool := s.images[b].isNone

/-- The buffer that can be given for a lane: the lowest free shared one, else the lower free one of the lane's pair
(R86). -/
def pickBuffer (s : State) (l : Lane) : Option Buffer := (sharedBuffers ++ reservedPair l).find? s.bufferFree

/-- A buffer given an image, or freed. -/
def State.setImage (s : State) (b : Buffer) (im : Option (List ImageField)) : State :=
  { s with images := s.images.set b.val im b.isLt }

end Sys2Proof.Machine
end

