-- ==== Sys2Proof/Machine/Frames.lean ====
section
/-! DEFINITION. The frames of the Lane Link as bytes: the check, the part's four frames, the printer's nine reports, and
the reading of a report (R99 to R101). -/

namespace Sys2Proof.Machine

/-! ### Bits on the line (R96) -/

/-- The bits of a byte in the order of the line, least significant bit first (R96). -/
def byteBits (b : Byte) : List Bool := (List.range 8).map b.getLsbD

/-- The bits of bytes in the order of the line (R96). -/
def lineBits (bs : List Byte) : List Bool := bs.flatMap byteBits

/-- The number that bits spell, least significant bit first. -/
def ofBits : List Bool → Nat
  | [] => 0
  | b :: bs => b.toNat + 2 * ofBits bs

/-- The bytes that the bits of a line spell, eight bits to a byte, least significant bit first; a part of a byte at the end
is no byte (R96). -/
def bytesOfBits : List Bool → List Byte
  | a :: b :: c :: d :: e :: f :: g :: h :: rest => BitVec.ofNat 8 (ofBits [a, b, c, d, e, f, g, h]) :: bytesOfBits rest
  | _ => []

/-! ### The check (R99) -/

/-- One bit of the CRC with polynomial x^16 + x^12 + x^5 + 1. -/
def crcBit (c : BitVec 16) : BitVec 16 := if c.getLsbD 15 then (c <<< 1) ^^^ 0x1021 else c <<< 1

/-- One byte enters the CRC, most significant bit first. -/
def crcByte (c : BitVec 16) (b : Byte) : BitVec 16 :=
  crcBit (crcBit (crcBit (crcBit (crcBit (crcBit (crcBit (crcBit (c ^^^ (b.setWidth 16 <<< 8)))))))))

/-- The check over bytes, from all ones (R99). -/
def crc (bs : List Byte) : BitVec 16 := bs.foldl crcByte 0xFFFF

/-- The check's two bytes, high byte first. -/
def crcBytes (bs : List Byte) : List Byte := [(crc bs >>> 8).setWidth 8, (crc bs).setWidth 8]

/-- A frame: start flag, type, length, payload, check (the frame layout above R99). -/
def frameOf (type : Byte) (payload : List Byte) : List Byte :=
  let body := type :: leBytes 2 payload.length ++ payload
  0x96 :: body ++ crcBytes body

/-! ### The part's frames (R100) -/

/-- The entry of an image field in an IMAGE payload. -/
def ImageField.bytes (f : ImageField) : List Byte :=
  BitVec.ofNat 8 (f.row % 16 + (if f.double then 16 else 0)) :: BitVec.ofNat 8 f.col :: BitVec.ofNat 8 f.text.length :: f.text

/-- The leading fields whose entries fit in `room` bytes, and the rest (R100). -/
def splitFields : Nat → List ImageField → List ImageField × List ImageField
  | _, [] => ([], [])
  | room, f :: fs =>
    if f.bytes.length ≤ room then
      let r := splitFields (room - f.bytes.length) fs
      (f :: r.1, r.2)
    else ([], f :: fs)

/-- An image whose payload would not fit within 1,000 bytes goes in two frames (R100). -/
def needsTwo (im : List ImageField) : Bool :=
  decide (Config.maxPayload < 8 + (im.map fun f => f.bytes.length).sum)

/-- The fields that a part of an IMAGE carries: 0 the whole, 1 the first of two, 2 the second. -/
def partFields (im : List ImageField) : Nat → List ImageField
  | 1 => (splitFields (Config.maxPayload - 8) im).1
  | 2 => (splitFields (Config.maxPayload - 8) im).2
  | _ => im

/-- The payload of an IMAGE frame (R100). -/
def imagePayload (ref : Buffer) (part serial : Nat) (kind : StockKind) (fs : List ImageField) : List Byte :=
  [BitVec.ofNat 8 ref.val, BitVec.ofNat 8 part] ++ leBytes 4 serial ++
    [BitVec.ofNat 8 kind.val, BitVec.ofNat 8 fs.length] ++ fs.flatMap ImageField.bytes

/-- GREET, FLUSH and POLL (R100). -/
def greetBytes : List Byte := frameOf 0x01 []
def flushBytes : List Byte := frameOf 0x03 []
def pollBytes (ack : Bool) : List Byte := frameOf 0x04 [if ack then 1 else 0]

/-- An IMAGE frame (R100). -/
def imageBytes (ref : Buffer) (part serial : Nat) (kind : StockKind) (im : List ImageField) : List Byte :=
  frameOf 0x02 (imagePayload ref part serial kind (partFields im part))

/-! ### The printer's reports (R101) -/

/-- The nine reports, with their payload bytes as fields. -/
inductive Report where
  | capacity (seq k width : Byte) (identity : Text)
  | nothing
  | accepted (seq ref : Byte)
  | printed (seq ref : Byte)
  | ejected (seq ref : Byte)
  | spoiled (seq ref cause : Byte)
  | flushed (seq count : Byte)
  | jammed (seq : Byte)
  | outOfStock (seq : Byte)
  deriving DecidableEq, Repr

/-- The sequence byte; NOTHING has none. -/
def Report.seq : Report → Option Byte
  | .capacity q _ _ _ => some q
  | .nothing => none
  | .accepted q _ => some q
  | .printed q _ => some q
  | .ejected q _ => some q
  | .spoiled q _ _ => some q
  | .flushed q _ => some q
  | .jammed q => some q
  | .outOfStock q => some q

/-- The fields lie in range (R101). -/
def Report.inRange : Report → Bool
  | .capacity _ k _ i => decide (1 ≤ k.toNat ∧ k.toNat ≤ 4 ∧ i.length ≤ 32)
  | .nothing => true
  | .accepted _ r => decide (r.toNat < 48)
  | .printed _ r => decide (r.toNat < 48)
  | .ejected _ r => decide (r.toNat < 48)
  | .spoiled _ r c => decide (r.toNat < 48 ∧ c = 1)
  | .flushed _ c => decide (c.toNat ≤ 4)
  | .jammed _ => true
  | .outOfStock _ => true

/-- The sequence byte is 0 or 1, and every field lies in range (R101). -/
def Report.wellFormed (r : Report) : Bool :=
  r.inRange && (match r.seq with | none => true | some q => decide (q.toNat ≤ 1))

/-- The type byte of a report. -/
def Report.type : Report → Byte
  | .capacity .. => 0x81
  | .nothing => 0x82
  | .accepted .. => 0x83
  | .printed .. => 0x84
  | .ejected .. => 0x85
  | .spoiled .. => 0x86
  | .flushed .. => 0x87
  | .jammed .. => 0x88
  | .outOfStock .. => 0x89

/-- The payload of a report. -/
def Report.payload : Report → List Byte
  | .capacity q k w i => q :: k :: w :: BitVec.ofNat 8 i.length :: i
  | .nothing => []
  | .accepted q r => [q, r]
  | .printed q r => [q, r]
  | .ejected q r => [q, r]
  | .spoiled q r c => [q, r, c]
  | .flushed q c => [q, c]
  | .jammed q => [q]
  | .outOfStock q => [q]

/-- A report as the printer sends it. -/
def Report.bytes (r : Report) : List Byte := frameOf r.type r.payload

/-- The report of a type and payload of the right length; none for a frame of another kind (R101). -/
def Report.ofPayload (type : Byte) (p : List Byte) : Option Report :=
  match type.toNat, p with
  | 0x81, q :: k :: w :: n :: i => if n.toNat = i.length then some (.capacity q k w i) else none
  | 0x82, [] => some .nothing
  | 0x83, [q, r] => some (.accepted q r)
  | 0x84, [q, r] => some (.printed q r)
  | 0x85, [q, r] => some (.ejected q r)
  | 0x86, [q, r, c] => some (.spoiled q r c)
  | 0x87, [q, c] => some (.flushed q c)
  | 0x88, [q] => some (.jammed q)
  | 0x89, [q] => some (.outOfStock q)
  | _, _ => none

/-- What reading a report gives (R99, R101). -/
inductive ReportRead where
  | bad
  | malformed
  | report (r : Report)
  deriving DecidableEq, Repr

/-- The type and payload of a frame with a good flag, length and check (R99). -/
def readFrame : List Byte → Option (Byte × List Byte)
  | flag :: type :: lo :: hi :: rest =>
    let n := ofLe [lo, hi]
    let payload := rest.take n
    if flag = 0x96 ∧ n ≤ Config.maxPayload ∧ rest.length = n + 2 ∧
        rest.drop n = crcBytes (type :: lo :: hi :: payload) then some (type, payload)
    else none
  | _ => none

/-- The reading of the bytes that LDI carries from the start of a report (R99, R101). -/
def readReport (bs : List Byte) : ReportRead :=
  match readFrame bs with
  | none => .bad
  | some (t, p) => match Report.ofPayload t p with
    | none => .malformed
    | some r => if r.wellFormed then .report r else .malformed

/-- The reading of the bits that LDI carries from the start of a report (R96, R99, R101). -/
def readLine (bits : List Bool) : ReportRead := readReport (bytesOfBits bits)

end Sys2Proof.Machine
end

