-- ==== Sys2Proof/Machine/Journal.lean ====
section
/-! DEFINITION. The Journal Writer (10): the ring and its room, the placing of an entry with folding and deferral, the
drain, and the journal gate. -/

namespace Sys2Proof.Machine

/-! ### The ring in host memory -/

/-- The written entries, by host address, with one more written or replaced. -/
def Memory.put (a : Nat) (w : Written) : List (Nat × Written) → List (Nat × Written)
  | [] => [(a, w)]
  | (b, v) :: r => if a < b then (a, w) :: (b, v) :: r else if a = b then (a, w) :: r else (b, v) :: Memory.put a w r

/-- What stands at a host address of the ring: none where the part has written no entry (log entry 10). -/
def Memory.read (a : Nat) : List (Nat × Written) → Option Written
  | [] => none
  | (b, v) :: r => if a = b then some v else Memory.read a r

/-- The canonical form of the ring: addresses strictly rising. -/
def Memory.wf : List (Nat × Written) → Bool
  | [] => true
  | (a, _) :: r => r.all (fun c => decide (a < c.1)) && Memory.wf r

/-- Area Base as the part uses it, its low twelve bits taken as zero (R36). -/
def areaAddress (x : ExchangeController) : Nat := (x.areaBase &&& 0xFFFFFFFFFFFFF000).toNat

/-- The host address of a journal entry by its index (R164); host addresses have 64 bits. -/
def journalAddress (s : State) (index : Nat) : Nat :=
  (areaAddress s.exch + s.exch.latchedOffset + 64 * index) % 2 ^ 64

/-! ### Room and gate -/

/-- The used count against the last Release Word (R164). -/
def JournalWriter.used (j : JournalWriter) (release : Nat) : Nat := (j.head + (j.n - release)) % j.n

/-- The free count, absent while the last Release Word is absent (R164). -/
def JournalWriter.free (j : JournalWriter) : Option Nat := j.release.map fun r => j.n - 1 - j.used r

/-- The free count is present and at least 1. -/
def JournalWriter.hasRoom (j : JournalWriter) : Bool := j.free.any (1 ≤ ·)

/-- The condition under which the gate is CLOSED (R168, R162). -/
def JournalWriter.mustClose (j : JournalWriter) : Bool :=
  j.free.any fun f => decide (f < Config.gateRoom) || !j.holding.isEmpty || !j.overflow.isEmpty

/-- The gate re-evaluated at a write or a placement: it may close, setting JOURNAL_PRESSURE (R168, R50). -/
def closeGate (s : State) : State :=
  if s.journal.mustClose && !s.journal.closed then
    (s.onJournal fun j => { j with closed := true }).onAlerts fun a => { a with pressure := true }
  else s

/-- The gate re-evaluated after a drain: it opens or closes, and a sweep that finds it CLOSED sets JOURNAL_PRESSURE
(R168, R50). -/
def settleGate (s : State) : State :=
  if s.journal.mustClose then
    (s.onJournal fun j => { j with closed := true }).onAlerts fun a => { a with pressure := true }
  else s.onJournal fun j => { j with closed := false }

/-! ### Writing -/

/-- An entry with the day and office time of the event that gives it (R163). -/
def stamp (s : State) (b : EntryBody) : Entry := ⟨s.office.day, s.office.clock, b⟩

/-- The head, the sequence number and, at a wrap, the pass count after a write without error (R164). -/
def JournalWriter.advance (j : JournalWriter) : JournalWriter :=
  { j with
    seq := j.seq + 1
    head := if j.head + 1 = j.n then 0 else j.head + 1
    pass := if j.head + 1 = j.n then j.pass + 1 else j.pass }

/-- The write of an entry at the head, and whether it succeeded (R164, R52). -/
def writeEntry (e : Entry) (s : State) : State × Bool :=
  let r := s.access
  if r.2 then
    ((r.1.onHost fun h =>
        { h with journal := Memory.put (journalAddress s s.journal.head) ⟨e, s.journal.seq, s.journal.pass⟩ h.journal }).onJournal
      JournalWriter.advance, true)
  else (busFault r.1, false)

/-- The first case of R165: the entry can be written at once. -/
def canWriteNow (s : State) : Bool :=
  decide (s.exch.state = .running) && s.journal.holding.isEmpty && s.journal.overflow.isEmpty && s.journal.hasRoom

/-- The second case of R165: the entry can join the holding queue. -/
def canQueue (s : State) : Bool :=
  s.journal.overflow.isEmpty && decide (s.journal.holding.length < Config.holdingRoom)

/-! ### Folding (R166) -/

/-- A SPOILT entry of cause UNEXPECTED_FEED folded into a like entry of the line, if one can take it. -/
def foldSpoilt (kind : StockKind) (lane : Lane) (serial : Nat) : List OverflowItem → Option (List OverflowItem)
  | [] => none
  | .entry ⟨d, t, .spoilt k f l c n w .unexpectedFeed⟩ :: r =>
    if k = kind ∧ n = lane ∧ c < 65535 then
      some (.entry ⟨d, t, .spoilt k f serial (c + 1) n w .unexpectedFeed⟩ :: r)
    else (foldSpoilt kind lane serial r).map (.entry ⟨d, t, .spoilt k f l c n w .unexpectedFeed⟩ :: ·)
  | x :: r => (foldSpoilt kind lane serial r).map (x :: ·)

/-- A RESTART entry folded into a RESTART entry of the line, if there is one. -/
def foldRestart (cause : ResetKind) (kept : Bool) (blanks : Nat) : List OverflowItem → Option (List OverflowItem)
  | [] => none
  | .entry ⟨d, t, .restart _ _ b n⟩ :: r => some (.entry ⟨d, t, .restart cause kept (b + blanks) (satAdd 255 n 1)⟩ :: r)
  | x :: r => (foldRestart cause kept blanks r).map (x :: ·)

/-- The overflow line with an entry that has come to it: folded, or at the back (R165, R166). -/
def joinOverflow (e : Entry) (o : List OverflowItem) : List OverflowItem :=
  match e.body with
  | .spoilt k _ l _ n _ .unexpectedFeed => (foldSpoilt k n l o).getD (o ++ [.entry e])
  | .restart c k b _ => (foldRestart c k b o).getD (o ++ [.entry e])
  | _ => o ++ [.entry e]

/-! ### Placing (R165) -/

/-- An entry placed by the cases of R165 that are open to entries other than FAULT entries. -/
def place (e : Entry) (s : State) : State :=
  if canWriteNow s then
    let r := writeEntry e s
    closeGate (if r.2 then r.1 else r.1.onJournal fun j => { j with holding := e :: j.holding })
  else if canQueue s then closeGate (s.onJournal fun j => { j with holding := j.holding ++ [e] })
  else closeGate (s.onJournal fun j => { j with overflow := joinOverflow e j.overflow })

/-- An entry given at this event. -/
def give (b : EntryBody) (s : State) : State := place (stamp s b) s

/-- A list of entries given at this event, in order. -/
def giveAll (bs : List EntryBody) (s : State) : State := bs.foldl (fun s b => give b s) s

/-- A FAULT entry given, or deferred in its lane's record; while one is deferred the lane gives no other (R140). -/
def giveFault (l : Lane) (k : FaultKind) (recovered : Bool) (repeats : Nat) (s : State) : State :=
  if s.faults.recs[l].deferred.isSome then s
  else if canWriteNow s || canQueue s then give (.fault l k recovered repeats) s
  else
    closeGate ((s.onFaults fun t =>
      { t with recs := t.recs.upd l fun r => { r with deferred := some (k, recovered) }, deferral := t.deferral ++ [l] }).onJournal
        fun j => { j with overflow := j.overflow ++ [.place l] })

/-! ### Draining (R167) -/

/-- Entries written from the front of the holding queue while there is room; what cannot be written stays. -/
def drainQueue : List Entry → State → State
  | [], s => s.onJournal fun j => { j with holding := [] }
  | e :: es, s =>
    if s.journal.hasRoom then
      let r := writeEntry e s
      if r.2 then drainQueue es r.1 else r.1.onJournal fun j => { j with holding := e :: es }
    else s.onJournal fun j => { j with holding := e :: es }

/-- The repeat count of a record, 0 while CLEAR (R135). -/
def FaultRec.repeats (r : FaultRec) : Nat := (r.active.map ActiveFault.repeats).getD 0

/-- One item of the overflow line joins the holding queue; a lane's place becomes its deferred FAULT entry (R141),
stamped now (log entry 18). -/
def moveItem : OverflowItem → State → State
  | .entry e, s => s.onJournal fun j => { j with holding := j.holding ++ [e] }
  | .place l, s =>
    match s.faults.recs[l].deferred with
    | none => s
    | some (k, rc) =>
      (s.onJournal fun j => { j with holding := j.holding ++ [stamp s (.fault l k rc s.faults.recs[l].repeats)] }).onFaults
        fun t => { recs := t.recs.upd l fun r => { r with deferred := none }, deferral := t.deferral.filter (· ≠ l) }

/-- Items moved from the front of the overflow line while the holding queue has room. -/
def refill : List OverflowItem → State → State
  | [], s => s.onJournal fun j => { j with overflow := [] }
  | x :: xs, s =>
    if s.journal.holding.length < Config.holdingRoom then refill xs (moveItem x s)
    else s.onJournal fun j => { j with overflow := x :: xs }

/-- The drain of a sweep, cut short by a host-memory access error, and the gate after it (R167, R168; log entry
16). -/
def drain (s : State) : State :=
  let a := drainQueue s.journal.holding s
  if a.exch.state = .running then
    let b := refill a.journal.overflow a
    settleGate (drainQueue b.journal.holding b)
  else settleGate a

/-- The journal size at enable (R177; log entry 17). -/
def JournalWriter.resize (j : JournalWriter) (count release : Nat) : JournalWriter :=
  if j.n = count then j
  else { j with n := count, head := release % count, release := j.release.map fun _ => release % count }

end Sys2Proof.Machine
end

