-- ==== Sys2Proof/Machine/Flags.lean ====
section
/-! DEFINITION. What the host sees as flags and registers: the unreturned-answer count (R47), the alert flags (R50), the
attention line (R51), the six registers as read (R53), and the output lines of a lane (R96). -/

namespace Sys2Proof.Machine

/-- The unreturned-answer count: the slots that carry the answered mark (R47). -/
def unreturned (s : State) : Nat := s.exch.marks.toList.countP id

/-- Any alert flag is set (R51). -/
def Alerts.any (a : Alerts) : Bool := a.lane || a.pressure || a.busFault || a.retentionLost

/-- The journal notice condition: the head differs from the Release Word as last read; it does not hold while that is
absent (R51, R162). -/
def journalAwaits (j : JournalWriter) : Bool := j.release.any fun r => decide (r ≠ j.head)

/-- The attention line is asserted (R51). -/
def attention (s : State) : Bool :=
  (s.exch.answerNotice && decide (0 < unreturned s)) || (s.exch.journalNotice && journalAwaits s.journal) ||
    (s.exch.alertNotice && s.exch.alerts.any)

/-- The code of an exchange state in Notice Status (03, Registers). -/
def ExState.code : ExState → Nat
  | .stopped => 0
  | .starting => 1
  | .running => 2
  | .halted => 3

/-- The code of a reset cause in Notice Status (03, Registers). -/
def resetCode : ResetKind → Nat
  | .powerOn => 0
  | .resetLine => 1
  | .soft => 2
  | .linkReset => 3

/-- A flag at a bit position. -/
def bitAt (b : Bool) (n : Nat) : Nat := if b then 2 ^ n else 0

/-- The Run Control reading: SOFT_RESET reads 0 (R53). -/
def runControl (x : ExchangeController) : Nat :=
  bitAt x.enable 0 + bitAt x.answerNotice 4 + bitAt x.journalNotice 5 + bitAt x.alertNotice 6

/-- The Notice Status reading (R53; 03, Registers). -/
def noticeStatus (s : State) : Nat :=
  unreturned s + 256 * s.exch.state.code + 4096 * resetCode s.office.cause + bitAt s.exch.alerts.lane 16 +
    bitAt s.exch.alerts.pressure 17 + bitAt s.exch.alerts.busFault 18 + bitAt s.exch.alerts.retentionLost 19

/-- The Journal Head reading: the head and the pass count of the Journal Writer, which a reset with retention keeps (R53,
R162; 03, Registers). R53 also says that every register field reads zero after a reset (DESIGN CHOICE, log entry 38). -/
def journalHead (j : JournalWriter) : Nat := j.head + 65536 * j.pass.toNat

/-- A read of the register at an offset; bits not named, and offsets of no register, read 0 (R53; 03, Registers). -/
def readRegister (s : State) (off : Nat) : Nat :=
  if off = 0x00 then s.exch.areaBase.toNat
  else if off = 0x08 then runControl s.exch
  else if off = 0x0C then s.exch.period.toNat
  else if off = 0x14 then noticeStatus s
  else if off = 0x18 then journalHead s.journal
  else 0

/-- The alert flags after a host write to Notice Status: a 1 clears its flag, a 0 leaves it (R50). -/
def Alerts.clearBits (a : Alerts) (v : BitVec 32) : Alerts where
  lane          := a.lane && !v.getLsbD 16
  pressure      := a.pressure && !v.getLsbD 17
  busFault      := a.busFault && !v.getLsbD 18
  retentionLost := a.retentionLost && !v.getLsbD 19

/-- LCK of a lane is running: clear pulses, the frame, the wait for the response, the report (R96, R104, R105). -/
def lckRuns (r : LinkEngine) : Bool :=
  match r.exchange with
  | none => false
  | some x => match x.step with
    | .busyWait => false
    | .clearing => true
    | .sending => true
    | .awaiting => true
    | .reporting => true

/-- The bytes LDO of a lane carries; at every other time it is held high (R96, R105). -/
def ldoBytes (r : LinkEngine) : List Byte :=
  match r.exchange with
  | none => []
  | some x => match x.step with
    | .sending => x.carried.bytes
    | _ => []

/-- The bits LDO of a lane carries, one to an LCK period, each byte least significant bit first (R96). -/
def ldoBits (r : LinkEngine) : List Bool := lineBits (ldoBytes r)

/-- The level of LDO in an LCK period counted from the first bit of the frame: the bit of that period, and high outside the
frame, at rest, in the clear pulses and while a response is awaited or read (R96, R104, R105). -/
def ldoHigh (r : LinkEngine) (period : Nat) : Bool := (ldoBits r).getD period true

/-- LCK is held low: at every time at which it does not run (R96). -/
def lckLow (r : LinkEngine) : Bool := !lckRuns r

end Sys2Proof.Machine
end

