-- ==== Sys2Proof/Machine/Stock.lean ====
section
/-! DEFINITION. The Stock Register (01): merging and splitting of the Office Runs, the derived counts, and the stock side
of sends, spoils, recalls, declarations and realigns, with the Flight List beside them (R174). -/

namespace Sys2Proof.Machine

/-! ### The Office Runs (R2 to R4) -/

/-- The first serial after a run. -/
def Run.stop (r : Run) : Nat := r.first + r.count

/-- The order of the list: by kind and, within a kind, by first serial (R2). -/
def Run.before (a b : Run) : Bool := decide (a.kind < b.kind) || (decide (a.kind = b.kind) && decide (a.first < b.first))

/-- A run placed in sorted position. -/
def insertSorted (r : Run) : List Run → List Run
  | [] => [r]
  | a :: as => if r.before a then r :: a :: as else a :: insertSorted r as

/-- The run of the kind that ends at the serial before `f`. -/
def runBefore (k : StockKind) (f : Nat) (rs : List Run) : Option Run := rs.find? fun r => decide (r.kind = k ∧ r.stop = f)

/-- The run of the kind that begins at `f`. -/
def runAfter (k : StockKind) (f : Nat) (rs : List Run) : Option Run := rs.find? fun r => decide (r.kind = k ∧ r.first = f)

/-- A range returned to the Office Runs by merging; none when a new run is needed and the list holds 32 (R3). -/
def mergeRun (k : StockKind) (f c : Nat) (rs : List Run) : Option (List Run) :=
  match runBefore k f rs, runAfter k (f + c) rs with
  | none, none => if rs.length < Config.maxRuns then some (insertSorted ⟨k, f, c⟩ rs) else none
  | some b, none => some (rs.map fun r => if r = b then { r with count := r.count + c } else r)
  | none, some a => some (rs.map fun r => if r = a then { r with first := f, count := r.count + c } else r)
  | some b, some a =>
    some ((rs.filter fun r => decide (r ≠ a)).map fun r => if r = b then { r with count := r.count + c + a.count } else r)

/-- The range lies wholly inside the run, which is of its kind (R4). -/
def Run.holds (r : Run) (k : StockKind) (f c : Nat) : Bool := decide (r.kind = k ∧ r.first ≤ f ∧ f + c ≤ r.stop)

/-- What is left of a run when the range is taken out of it: none, one or two runs (R4). -/
def Run.without (r : Run) (f c : Nat) : List Run :=
  (if r.first < f then [⟨r.kind, r.first, f - r.first⟩] else []) ++
    (if f + c < r.stop then [⟨r.kind, f + c, r.stop - (f + c)⟩] else [])

/-- The list with the range taken out of the run that holds it (R4). -/
def takeRange (k : StockKind) (f c : Nat) (rs : List Run) : List Run :=
  rs.flatMap fun r => if r.holds k f c then r.without f c else [r]

/-- The split needs a new run (R4). -/
def Run.splits (r : Run) (f c : Nat) : Bool := decide (r.first < f ∧ f + c < r.stop)

/-! ### Derived counts (R6) -/

/-- In office: the counts of the kind's runs. -/
def inOffice (s : State) (k : StockKind) : Nat :=
  ((s.stock.runs.filter fun r => decide (r.kind = k)).map Run.count).sum

/-- In magazines: the remaining counts of the LOADED magazines of the kind. -/
def inMagazines (s : State) (k : StockKind) : Nat :=
  ((List.finRange 8).map fun l => match s.mag l with
    | none => 0
    | some m => if m.kind = k then m.remaining else 0).sum

/-- In flight: the jobs of the kind in state SENT, FED or PRINTED, which are those of the out-lists. -/
def inFlight (s : State) (k : StockKind) : Nat :=
  ((List.finRange 8).map fun l => (s.lane l).out.countP fun j => decide (j.kind = k)).sum

/-- In doubt: the In-Doubt List entries of the kind. -/
def inDoubt (s : State) (k : StockKind) : Nat := s.stock.doubts.countP fun d => decide (d.kind = k)

/-- The In-Doubt List holds an entry of the lane. -/
def doubtful (s : State) (l : Lane) : Bool := s.stock.doubts.any fun d => decide (d.lane = l)

/-! ### Overlap of a received run (R9) -/

/-- The ranges of `c` serials from `f` and of `d` serials from `g` share a serial. -/
def meets (f c g d : Nat) : Bool := decide (0 < c ∧ 0 < d ∧ f < g + d ∧ g < f + c)

/-- The part already holds a serial of the run, in one of the five places of R9. -/
def overlaps (s : State) (k : StockKind) (f c : Nat) : Bool :=
  (s.stock.runs.any fun r => decide (r.kind = k) && meets f c r.first r.count) ||
  ((List.finRange 8).any fun l => (s.mag l).any fun m => decide (m.kind = k) && meets f c m.next m.remaining) ||
  ((List.finRange 8).any fun l => (s.lane l).out.any fun j =>
    decide (j.kind = k) && j.serial.any fun n => meets f c n 1) ||
  (s.stock.doubts.any fun d => decide (d.kind = k) && meets f c d.serial 1) ||
  (s.issue.table.any fun e => decide (e.kind = k) && meets f c e.serial 1)

/-! ### Serials in flight (R15 to R19, R174) -/

/-- A counter raised, without the bound that R6 shows is never met. -/
def Counters.addSpoilt (c : Counters) (n : Nat) : Counters := { c with spoilt := c.spoilt + n }
def Counters.addLost (c : Counters) (n : Nat) : Counters := { c with lost := c.lost + n }
def Counters.addIssued (c : Counters) (n : Nat) : Counters := { c with issued := c.issued + n }
def Counters.addReceived (c : Counters) (n : Nat) : Counters := { c with received := c.received + n }

/-- VOID: issued falls by 1 and voided rises by 1 (R19). -/
def Counters.void (c : Counters) : Counters := { c with issued := c.issued - 1, voided := c.voided + 1 }

/-- The Flight List without the entry of a serial (R174). -/
def dropFlight (k : StockKind) (n : Nat) (s : State) : State :=
  s.onOffice fun o => { o with flight := o.flight.filter fun e => !(decide (e.kind = k) && decide (e.serial = n)) }

/-- The Flight List entry of a job that holds the serial (R174). -/
def Job.flight (j : Job) (n : Nat) : FlightEntry := ⟨j.kind, n, j.lane, j.window, j.shift, j.tender, j.total, j.tag⟩

/-- A serial of the lane counted spoilt, in its kind and in the lane's activity counter (R16, R94). -/
def countSpoilt (l : Lane) (k : StockKind) (s : State) : State :=
  (s.onCounters k fun c => c.addSpoilt 1).onAct l fun a => { a with blanksSpoilt := satAdd Config.max32 a.blanksSpoilt 1 }

/-- Spoiling a held serial: the serial leaves the Flight List and is counted (R16). -/
def spoilHeld (l : Lane) (k : StockKind) (n : Nat) (s : State) : State := countSpoilt l k (dropFlight k n s)

/-- The serial that spoiling at next would take: none when the magazine is EMPTY or exhausted (R16). -/
def nextSerial (m : Option Loaded) : Option (StockKind × Nat) :=
  match m with
  | none => none
  | some g => if g.next ≤ g.last then some (g.kind, g.next) else none

/-- A magazine with its next serial raised by 1. -/
def Loaded.consume (m : Loaded) : Loaded := { m with next := m.next + 1 }

/-- Spoiling at next (R16). -/
def spoilNext (l : Lane) (s : State) : State :=
  match s.mag l with
  | none => s
  | some m => if m.next ≤ m.last then countSpoilt l m.kind (s.setMag l (some m.consume)) else s

/-- The withdrawal of a recall: next becomes the lowest serial of the set, which leaves the Flight List; an empty set
moves nothing (R17). -/
def withdraw (l : Lane) (set : List (StockKind × Nat)) (s : State) : State :=
  let s := set.foldl (fun s p => dropFlight p.1 p.2 s) s
  match set, s.mag l with
  | [], _ => s
  | _, none => s
  | p :: ps, some m => s.setMag l (some { m with next := ps.foldl (fun a q => min a q.2) p.2 })

/-- A realign to `r`: the serials passed over are lost and journalled (R18). -/
def realign (l : Lane) (r : Nat) (s : State) : State :=
  match s.mag l with
  | none => s
  | some m =>
    if m.next < r then
      give (.lost m.kind m.next (r - m.next) l)
        ((s.onCounters m.kind fun c => c.addLost (r - m.next)).setMag l (some { m with next := r }))
    else s

end Sys2Proof.Machine
end

