-- ==== Sys2Proof/Machine/Till.lean ====
section
/-! DEFINITION. The Till Unit (09): posting, the cash-up condition, reconciliation and completion. -/

namespace Sys2Proof.Machine

/-! ### Posting (R150 to R153) -/

/-- The flag SATURATED after an amount is posted to an accumulator that stands at `a`; an accumulator already at the
limit sets it again when the amount is above 0 (R150). -/
def saturates (a amount : Nat) : Bool := decide (Config.maxAccumulator < a + amount)

/-- An amount posted to the sales of a tender. -/
def Drawer.sale (d : Drawer) (t : Tender) (n : Nat) : Drawer :=
  { d with
    acc := d.acc.upd t fun a => { a with sales := satAdd Config.maxAccumulator a.sales n }
    saturated := d.saturated || saturates (d.acc.get t).sales n }

/-- An amount posted to the voids of a tender. -/
def Drawer.addVoid (d : Drawer) (t : Tender) (n : Nat) : Drawer :=
  { d with
    acc := d.acc.upd t fun a => { a with voids := satAdd Config.maxAccumulator a.voids n }
    saturated := d.saturated || saturates (d.acc.get t).voids n }

/-- An amount posted to the refunds of a tender. -/
def Drawer.addRefund (d : Drawer) (t : Tender) (n : Nat) : Drawer :=
  { d with
    acc := d.acc.upd t fun a => { a with refunds := satAdd Config.maxAccumulator a.refunds n }
    saturated := d.saturated || saturates (d.acc.get t).refunds n }

/-- The four counts of tickets, each stopping at its limit (R150). -/
def Drawer.countIssued (d : Drawer) : Drawer := { d with counts := { d.counts with issued := satAdd Config.max32 d.counts.issued 1 } }
def Drawer.countVoided (d : Drawer) : Drawer := { d with counts := { d.counts with voided := satAdd Config.max32 d.counts.voided 1 } }
def Drawer.countSpoilt (d : Drawer) : Drawer := { d with counts := { d.counts with spoilt := satAdd Config.max32 d.counts.spoilt 1 } }
def Drawer.countLost (d : Drawer) : Drawer := { d with counts := { d.counts with lost := satAdd Config.max32 d.counts.lost 1 } }

/-- The live job count raised and lowered (R152). -/
def Drawer.liveUp (d : Drawer) : Drawer := { d with live := d.live + 1 }
def Drawer.liveDown (d : Drawer) : Drawer := { d with live := d.live - 1 }

/-- Suspense raised and lowered (R153). -/
def Drawer.suspend (d : Drawer) (n : Nat) : Drawer := { d with suspense := d.suspense + n }
def Drawer.release (d : Drawer) (n : Nat) : Drawer := { d with suspense := d.suspense - n }

/-! ### Reconciliation (R156, R157) -/

/-- Sales less voids less refunds, in signed arithmetic (R156). -/
def Accumulators.net (a : Accumulators) : Int := (a.sales : Int) - a.voids - a.refunds

/-- The class of the CASH variance under a tolerance (R157). -/
def cashClass (tolerance : Nat) (v : Int) : VarClass :=
  if v = 0 then .balanced
  else if v.natAbs ≤ tolerance then .within
  else if 0 < v then .over
  else .short

/-- The class of another tender's variance (R157). -/
def paperClass (v : Int) : VarClass := if v = 0 then .balanced else .mismatch

/-- The line of CASH (R156, R157). -/
def cashLine (float tolerance : Nat) (a : Accumulators) (declared : Nat) : CashLine :=
  let e : Int := float + a.net
  ⟨e, declared, declared - e, cashClass tolerance (declared - e)⟩

/-- The line of CARD, WARRANT or VOUCHER (R156, R157). -/
def paperLine (a : Accumulators) (declared : Nat) : CashLine :=
  ⟨a.net, declared, declared - a.net, paperClass (declared - a.net)⟩

/-- The four lines of a cash-up. -/
def cashLines (d : Drawer) (tolerance : Nat) (declared : ByTender Nat) : ByTender CashLine where
  cash    := cashLine d.float tolerance d.acc.cash declared.cash
  card    := paperLine d.acc.card declared.card
  warrant := paperLine d.acc.warrant declared.warrant
  voucher := paperLine d.acc.voucher declared.voucher

/-! ### Completion (R155, R158) -/

/-- The cash-up condition (R155). -/
def Drawer.settled (d : Drawer) : Bool := decide (d.state = .closing ∧ d.live = 0 ∧ d.suspense = 0)

/-- The kind codes of the orders that are answered later than their take (03, Order kind codes). -/
def kindIssue : Byte := 13
def kindCashUp : Byte := 16

/-- A drawer that a completed cash-up leaves (R147, R158). -/
def Drawer.close (d : Drawer) : Drawer := { d with state := .none, cashUp := none }

/-- The CASHUP entry of a drawer's reconciliation (R158, R163). -/
def cashUpEntry (w : Window) (d : Drawer) (tolerance : Nat) (declared : ByTender Nat) : EntryBody :=
  .cashUp w d.shift ((cashLines d tolerance declared).map fun x => (x.variance, x.cls))

/-- The fields of a CASHED_UP answer (R158). -/
def cashUpFields (d : Drawer) (tolerance : Nat) (declared : ByTender Nat) : AnswerFields :=
  .cashUp d.shift tolerance (cashLines d tolerance declared) d.counts d.saturated

/-- The test of the cash-up condition, and the completion it makes (R155, R158). -/
def testCashUp (w : Window) (s : State) : State :=
  let d := s.till[w]
  match d.cashUp with
  | none => s
  | some p =>
    if d.settled then
      let tol := s.office.settings.tolerance
      let s := give (cashUpEntry w d tol p.declared) s
      let s := answer p.slot kindCashUp p.tag .cashedUp (cashUpFields d tol p.declared) s
      s.onDrawer w Drawer.close
    else s

end Sys2Proof.Machine
end

