-- ==== Sys2Proof/Machine/Reset.lean ====
section
/-! DEFINITION. The four resets, the start-up period, and the two restarts (R95, R141, R161, R173 to R176). -/

namespace Sys2Proof.Machine

/-! ### The reset (R173) -/

/-- A lane at a reset: all but its state, with the parked reason, is lost (R75, R95, R98, R118). The input levels are not
the part's own. -/
def LaneRec.afterReset (r : LaneRec) : LaneRec := { LaneRec.off with state := r.state, pins := r.pins }

/-- A drawer at a reset: the live count and the pending cash-up go with the jobs and order contexts (log entry 32). -/
def Drawer.afterReset (d : Drawer) : Drawer := { d with live := 0, cashUp := none }

/-- The Exchange Controller at a reset: all but the expected tags (R38, R41, R47, R50, R53). -/
def ExchangeController.afterReset (x : ExchangeController) : ExchangeController :=
  { ExchangeController.reset with tags := x.tags }

/-- The Journal Writer at a reset: the last Release Word is absent and the gate OPEN (R162). -/
def JournalWriter.afterReset (j : JournalWriter) : JournalWriter := { j with release := none, closed := false }

/-- Office Control at a reset: the cause is recorded and the start-up period begins. It is decided as for POWER_ON when
the reset is one, or came during a start-up period that is so decided (R173). -/
def OfficeControl.afterReset (o : OfficeControl) (k : ResetKind) : OfficeControl :=
  { o with
    cause := k
    startUp := some ⟨decide (k = .powerOn) || o.startUp.any StartUp.powerOn, !o.backupGood⟩ }

/-- A reset of any kind: every state that is not retained is lost, and the start-up period begins (R173). -/
def doReset (k : ResetKind) (s : State) : State :=
  { s with
    images := Vector.replicate 48 none
    lanes := s.lanes.map LaneRec.afterReset
    till := s.till.map Drawer.afterReset
    journal := s.journal.afterReset
    office := s.office.afterReset k
    exch := s.exch.afterReset
    host := { s.host with busIn := none } }

/-! ### The start-up period (R173) -/

/-- The backup-good input at a level; found deasserted in a start-up period, it counts as a sample of it. -/
def OfficeControl.backup (o : OfficeControl) (good : Bool) : OfficeControl :=
  { o with backupGood := good, startUp := o.startUp.map fun u => { u with bad := u.bad || !good } }

/-- The retention is decided LOST: the reset was a POWER_ON and backup-good was found deasserted. -/
def StartUp.lost (u : StartUp) : Bool := u.powerOn && u.bad

/-! ### The restart with retention (R175) -/

/-- The In-Doubt List entry of a Flight List entry (R7, R175). -/
def FlightEntry.doubt (e : FlightEntry) : DoubtEntry :=
  ⟨e.kind, e.serial, e.lane, e.window, e.shift, e.total, e.tender, e.tag, .restart⟩

/-- The IN_DOUBT entry of a Flight List entry (R163, R175). -/
def FlightEntry.entry (e : FlightEntry) : EntryBody :=
  .inDoubt e.kind e.serial e.lane e.window e.total .restart e.tag

/-- Step 1: a blank in flight is in doubt, and its window's suspense rises. -/
def doubtFlight (s : State) (e : FlightEntry) : State :=
  (s.onStock fun r => { r with doubts := r.doubts ++ [e.doubt] }).onDrawer e.window fun d => d.suspend e.total

/-- Step 3: a CLOSING drawer becomes OPEN (R148, R161). -/
def Drawer.reopen (d : Drawer) : Drawer :=
  { d with live := 0, cashUp := none, state := if d.state = .closing then .opened else d.state }

/-- Step 4: a lane not PARKED becomes OFF (R95). -/
def LaneRec.afterRestart (r : LaneRec) : LaneRec :=
  match r.state with
  | .parked _ => r
  | _ => { r with state := .off }

/-- The restart with retention, in the order of R175. -/
def restartKept (s : State) : State :=
  let fs := s.office.flight
  let s := (fs.foldl doubtFlight s).onOffice fun o => { o with flight := [], kept := true, startUp := none }
  let s := s.onIssue fun i => { i with reserved := s.stock.doubts.length }
  let s := { s with till := s.till.map Drawer.reopen, lanes := s.lanes.map LaneRec.afterRestart }
  giveAll (fs.map FlightEntry.entry) (give (.restart s.office.cause true fs.length 1) s)

/-! ### The restart without retention (R176) -/

/-- Office Control without retention (R170). -/
def OfficeControl.lost (o : OfficeControl) : OfficeControl :=
  { o with
    opened := false, day := 0, settings := Settings.lost, clock := 0, kept := false, startUp := none, flight := [] }

/-- The restart without retention: the part's empty state (R22, R35, R61, R141, R147, R162, R170, R176). -/
def restartLost (s : State) : State :=
  let s : State :=
    { s with
      stock := StockRegister.empty
      fare := FareUnit.empty
      issue := IssueController.empty
      lanes := s.lanes.map fun r => { r with state := .off }
      faults := FaultTable.empty
      till := Vector.replicate 12 Drawer.empty
      journal := JournalWriter.empty
      office := s.office.lost
      exch := { s.exch with tags := Vector.replicate 13 0, alerts := { s.exch.alerts with retentionLost := true } } }
  give (.restart s.office.cause false 0 1) s

/-- The end of a start-up period; without one in progress there is none to end (R173; log entry 3). -/
def endStartUp (s : State) : State :=
  match s.office.startUp with
  | none => s
  | some u => if u.lost then restartLost s else restartKept s

end Sys2Proof.Machine
end

