-- ==== Sys2Proof/Machine/Exchange.lean ====
section
/-! DEFINITION. The Exchange Controller (03): the six registers as written, the exchange states, the sweep, and the
service of the sources. -/

namespace Sys2Proof.Machine

/-! ### Enabling and starting (R36, R38, R177) -/

/-- EXCHANGE_ENABLE is set by a write (R38; log entry 20 for a sweep that still has to end). -/
def ExchangeController.setEnable (x : ExchangeController) : ExchangeController :=
  { x with enable := true, state := if x.state = .stopped then .starting else x.state }

/-- EXCHANGE_ENABLE is cleared by a write: STOPPED at once, or at the end of the sweep in progress (R38). -/
def ExchangeController.clearEnable (x : ExchangeController) : ExchangeController :=
  if x.sweep.isSome then { x with enable := false, stopAtEnd := true }
  else { x with enable := false, state := .stopped, timer := none, again := false }

/-- The first sweep follows, or the next: step 1 is to be made. -/
def Sweep.fresh : Sweep := ⟨1, Vector.replicate 64 Header.zero, Vector.replicate 64 false, [], none⟩

/-- A sweep begins; the timer does not run during it (R39). -/
def ExchangeController.beginSweep (x : ExchangeController) : ExchangeController :=
  { x with sweep := some Sweep.fresh, timer := none, again := false }

/-- The entry counts that a usable header may hold: the powers of two in 256..8,192 (R36). -/
def usableCount (n : Nat) : Bool := [256, 512, 1024, 2048, 4096, 8192].contains n

/-- The journal offsets that a usable header may hold (R36). -/
def usableOffset (n : Nat) : Bool := decide (20480 ≤ n ∧ n % 4096 = 0)

/-- The Area Header and the Release Word read and latched (R36, R38, R177); it waits for the end of the start-up period
(R38). In every other exchange state nothing is read (log entry 3). -/
def startExchangeArea (count offset release : Nat) (s : State) : State :=
  if s.exch.state = .starting ∧ s.up then
    let a := s.access
    if !a.2 then busFault a.1
    else if !(usableCount count && usableOffset offset) then busFault a.1
    else
      let b := a.1.access
      if !b.2 then busFault b.1
      else
        (b.1.onJournal fun j => j.resize count release).onExch fun x =>
          ({ x with latchedCount := count, latchedOffset := offset, state := .running } : ExchangeController).beginSweep
  else s

/-! ### The sweep's beginnings and its end (R39, R40) -/

/-- An expiry of the sweep timer (R39; log entry 3). -/
def timerSweep (x : ExchangeController) : ExchangeController :=
  if x.state = .running ∧ x.sweep = none ∧ x.timer.isSome then x.beginSweep else x

/-- A write to Sweep Request (R39). -/
def requestSweep (x : ExchangeController) : ExchangeController :=
  if x.state = .running then (if x.sweep.isSome then { x with again := true } else x.beginSweep) else x

/-- The end of a sweep: STOPPED when EXCHANGE_ENABLE was cleared during it (R38, log entry 20), a further sweep when one
was requested, else the sweep timer with the period as it stands (R39). -/
def ExchangeController.endSweep (x : ExchangeController) : ExchangeController :=
  if x.stopAtEnd then
    { x with
      sweep := none, timer := none, again := false, stopAtEnd := false
      state := if x.enable then .starting else .stopped }
  else if x.again then x.beginSweep
  else { x with sweep := none, timer := some (max 1 x.period.toNat) }

/-! ### Slots as the sweep sees them (R37, R40, R41) -/

/-- The header that the sweep holds for a slot, when the slot is POSTED and no order of it is in progress (R37). -/
def postedHeader (s : State) (i : SlotNo) : Option Header :=
  match s.exch.sweep with
  | none => none
  | some w => if w.headers[i].state = 1 ∧ s.exch.contexts[i] = none then some w.headers[i] else none

/-- The source number of a header as a source 0..12. -/
def headerSource (h : Header) : Option Source := toIdx 13 h.source.toNat

/-- D of R41. -/
def tagDistance (t e : Tag) : Nat := (t - e).toNat

/-- The tag is behind the expected tag (R41). -/
def behind (t e : Tag) : Bool := decide (32768 ≤ tagDistance t e)

/-- The slot is POSTED by the source and its tag is behind (R41). -/
def slotBehind (s : State) (src : Source) (i : SlotNo) : Bool :=
  (postedHeader s i).any fun h => decide (headerSource h = some src) && behind h.tag s.exch.tags[src]

/-- The slot is POSTED by the source at its expected tag (R41). -/
def slotAtTag (s : State) (src : Source) (i : SlotNo) : Bool :=
  (postedHeader s i).any fun h => decide (headerSource h = some src ∧ h.tag = s.exch.tags[src])

/-- The slot offered next for a source: the lowest at the expected tag (R41). -/
def offerOf (s : State) (src : Source) : Option SlotNo := (List.finRange 64).find? (slotAtTag s src)

/-- A slot answered from POSTED (R43, R46, R52): its order context, with the copy of an order refused at its take, holds the
answer if the write fails. -/
def answerDirect (i : SlotNo) (h : Header) (c : Option OrderCopy) (oc : OrderOutcome) (s : State) : State :=
  answer i h.kind h.tag oc .none (openContext i h c s)

/-- A slot answered while the sweep goes on; once the sweep has ended by R52 nothing more of it is answered. -/
def answerPosted (i : SlotNo) (oc : OrderOutcome) (s : State) : State :=
  match postedHeader s i with
  | none => s
  | some h => answerDirect i h none oc s

/-- Every slot of a source that is behind is answered STALE_TAG (R41), the slots in rising order (log entry 39). -/
def answerStale (src : Source) (s : State) : State :=
  forSlots (fun i s => if slotBehind s src i then answerPosted i .staleTag s else s) s

/-! ### The service of the sources (R40 step 6, R41) -/

/-- A source with its slots behind answered: the slot at its expected tag is offered, or the sources after it are served
by `next`; a sweep that has ended by R52 goes no further (R41, R42). -/
def offerNext (src : Source) (rest : List Source) (next : State → State) (s : State) : State :=
  if s.exch.sweep.isNone then s
  else match offerOf s src with
    | some i => s.onSweep fun w => { w with remaining := src :: rest, offered := some i }
    | none => next s

/-- The sources are served in turn until one has a slot to offer; after the last the sweep ends (R40, R41). -/
def serve : List Source → State → State
  | [], s => s.onExch ExchangeController.endSweep
  | src :: rest, s => offerNext src rest (serve rest) (answerStale src s)

/-- The service goes on with the source served now: a slot at its new expected tag is looked for (R41). -/
def serveOn (s : State) : State :=
  match s.exch.sweep with
  | none => s
  | some w => serve w.remaining (s.onSweep fun w => { w with offered := none })

/-- The service goes on with the next source: the order offered was not takeable now (R42). -/
def servePast (s : State) : State :=
  match s.exch.sweep with
  | none => s
  | some w => serve w.remaining.tail (s.onSweep fun w => { w with offered := none })

/-! ### The six steps of a sweep (R40) -/

/-- Host memory as the sweep has read its slot states. -/
def HostMem.readSlots (h : HostMem) (hs : Table 64 Header) : HostMem :=
  { h with slots := h.slots.zipWith (fun c d => { c with state := d.state }) hs }

/-- The Release Word handed to the Journal Writer, modulo N (R164). -/
def JournalWriter.handRelease (j : JournalWriter) (v : Nat) : JournalWriter := { j with release := some (v % j.n) }

/-- Step 1: the Release Word, the drain, and the 64 headers (R40, R167). -/
def sweepRead (release : Nat) (headers : Table 64 Header) (s : State) : State :=
  let a := s.access
  if !a.2 then busFault a.1
  else
    let s := drain (a.1.onJournal fun j => j.handRelease release)
    if s.exch.sweep.isNone then s
    else
      let b := s.access
      if !b.2 then busFault b.1
      else
        (b.1.onHost fun h => h.readSlots headers).onExch fun x =>
          { x with sweep := x.sweep.map fun w => { w with headers := headers, marksRead := x.marks } }

/-- Step 2: the marked slots that have been returned lose their mark (R47). -/
def ExchangeController.settleReturned (x : ExchangeController) : ExchangeController :=
  match x.sweep with
  | none => x
  | some w =>
    { x with
      marks := Vector.ofFn fun i =>
        x.marks[i] && !(w.marksRead[i] && (decide (w.headers[i].state = 0) || decide (w.headers[i].state = 1))) }

/-- Step 3: the pending answers written in the order in which they were produced; what cannot be written stays (R46,
R52). -/
def writePending : List (SlotNo × Answer) → State → State
  | [], s => s.onExch fun x => { x with pendingAns := [] }
  | p :: ps, s =>
    let r := tryAnswer p.1 p.2 s
    if r.2 then writePending ps r.1 else r.1.onExch fun x => { x with pendingAns := p :: ps }

/-- The slot reads TAKEN and the part holds no order of it (R48). -/
def takenHeader (s : State) (i : SlotNo) : Option Header :=
  match s.exch.sweep with
  | none => none
  | some w => if w.headers[i].state = 2 ∧ s.exch.contexts[i] = none then some w.headers[i] else none

/-- A TAKEN slot answered RESET_ABORTED. An answer whose write fails is not held pending, as R52 has it of answers: the slot is
left to step 4 of the next first sweep by R48, which answers it anew with the office time of that event (DESIGN CHOICE, log
entry 45). -/
def answerAborted (i : SlotNo) (s : State) : State :=
  match takenHeader s i with
  | none => s
  | some h => (tryAnswer i ⟨.resetAborted, h.kind, h.tag, s.office.clock, .none⟩ s).1

/-- Step 4: on the first sweep since a reset, the TAKEN slots (R40, R48), in rising order (log entry 39). -/
def sweepAborted (s : State) : State :=
  if s.exch.abortDue then
    let s := forSlots answerAborted s
    if s.exch.sweep.isSome then s.onExch fun x => { x with abortDue := false } else s
  else s

/-- A POSTED slot whose source lies above 12, answered BAD_FORM (R40). -/
def answerBadSource (i : SlotNo) (s : State) : State :=
  match postedHeader s i with
  | none => s
  | some h => if headerSource h = none then answerDirect i h none .badForm s else s

/-- Step 5: STALE_TAG for every source, source by source, then BAD_FORM, each over the slots in rising order (R40; DESIGN
CHOICE for the order, log entry 39). -/
def sweepStale (s : State) : State :=
  forSlots answerBadSource ((List.finRange 13).foldl (fun s src => answerStale src s) s)

/-- The 13 sources from one on, in the order 0..12 and around (R40). -/
def rotation (start : Source) : List Source := (List.finRange 13).map fun k => start + k

/-- Step 6 begins: the rotation moves on by one source, and the first source is served (R40; log entry 26). -/
def sweepServe (s : State) : State :=
  let start := s.exch.nextStart
  serve (rotation start) (s.onExch fun x => { x with nextStart := x.nextStart + 1 })

/-- One step of the sweep in progress, by its number; none while step 6 waits for the order it has offered. -/
def sweepStep (release : Nat) (headers : Table 64 Header) (s : State) : State :=
  match s.exch.sweep with
  | none => s
  | some w =>
    let s := s.onSweep fun w => { w with step := w.step + 1 }
    match w.step with
    | 1 => sweepRead release headers s
    | 2 => s.onExch ExchangeController.settleReturned
    | 3 => writePending s.exch.pendingAns s
    | 4 => sweepAborted s
    | 5 => sweepStale s
    | 6 => sweepServe s
    | _ => s.onSweep fun v => { v with step := w.step }

/-- The next `n` steps of the sweep in progress (log entry 5). -/
def sweepSteps : Nat → Nat → Table 64 Header → State → State
  | 0, _, _, s => s
  | n + 1, r, hs, s => sweepSteps n r hs (sweepStep r hs s)

/-! ### Registers as written (R53) -/

/-- A write to Area Base (R36). -/
def ExchangeController.writeBase (x : ExchangeController) (v : BitVec 64) : ExchangeController :=
  if x.state = .stopped then { x with areaBase := v } else x

/-- A write of the three notice enables (R51). -/
def ExchangeController.writeNotices (x : ExchangeController) (a j n : Bool) : ExchangeController :=
  { x with answerNotice := a, journalNotice := j, alertNotice := n }

/-- A Run Control write that holds the enable bit: setting and clearing act, the value already held changes nothing
(R38). -/
def ExchangeController.writeEnable (x : ExchangeController) (on : Bool) : ExchangeController :=
  if on = x.enable then x else if on then x.setEnable else x.clearEnable

/-- A write to Run Control (R38, R51, R53, R173). -/
def writeRunControl (v : BitVec 64) (s : State) : State :=
  if v.getLsbD 1 then doReset .soft s
  else s.onExch fun x => (x.writeEnable (v.getLsbD 0)).writeNotices (v.getLsbD 4) (v.getLsbD 5) (v.getLsbD 6)

/-- A write to Sweep Period (R39). -/
def ExchangeController.writePeriod (x : ExchangeController) (v : BitVec 64) : ExchangeController :=
  { x with period := v.setWidth 8 }

/-- A write to the register at an offset; an offset of no register, and Journal Head, ignore it (R53). -/
def writeRegister (off : Nat) (v : BitVec 64) (s : State) : State :=
  if off = 0x00 then s.onExch fun x => x.writeBase v
  else if off = 0x08 then writeRunControl v s
  else if off = 0x0C then s.onExch fun x => x.writePeriod v
  else if off = 0x10 then s.onExch requestSweep
  else if off = 0x14 then s.onAlerts fun a => a.clearBits (v.setWidth 32)
  else s

end Sys2Proof.Machine
end

