-- ==== Sys2Proof/Machine/Operands.lean ====
section
/-! DEFINITION. The byte layouts of the interface (03, Formats): the slot header, the ISSUE order body and its text
items, the records of SET DISCOUNTS and SET LAYOUT, the codes of orders, outcomes and entries, the headers of an answer
and of a journal entry, and the addresses of slots. -/

namespace Sys2Proof

/-- FREE VALUE (log entry 11): the byte at an offset of the kind fields of a journal entry. R163 names the fields of each
kind and lays none of them out, so nothing here says which byte stands where. -/
opaque Config.kindFieldByte : Machine.EntryBody → Nat → Byte

end Sys2Proof

namespace Sys2Proof.Machine

/-- The byte at an offset, 0 past the end. -/
def byteAt (bs : List Byte) (n : Nat) : Byte := bs.getD n 0

/-- The number of `len` bytes from an offset, low byte first (03, Formats). -/
def numAt (bs : List Byte) (n len : Nat) : Nat := ofLe ((bs.drop n).take len)

/-! ### Addresses and the slot header (R36, R37) -/

/-- The host address of slot `i` (R37); host addresses have 64 bits. -/
def slotAddress (x : ExchangeController) (i : SlotNo) : Nat := (areaAddress x + 256 + 256 * i.val) % 2 ^ 64

/-- The header fields that step 1 of a sweep reads, from the 16 bytes of a slot header (03, Slot header). -/
def headerOfBytes (bs : List Byte) : Header :=
  ⟨byteAt bs 0, byteAt bs 1, byteAt bs 2, BitVec.ofNat 16 (numAt bs 4 2)⟩

/-- The header fields read at the take, from the 16 bytes of a slot header and what reading the attachment gives
(03, Slot header; R44). -/
def orderHdrOfBytes (i : SlotNo) (bs : List Byte) (att : AttRead) : OrderHdr :=
  ⟨i, (byteAt bs 3).getLsbD 0, (byteAt bs 3).getLsbD 1, (byteAt bs 3).getLsbD 2, numAt bs 6 2,
    BitVec.ofNat 64 (numAt bs 8 8), att⟩

/-! ### The ISSUE order body (03, ISSUE order body) -/

/-- An ISSUE body from its 160 bytes. -/
def issueBodyOfBytes (bs : List Byte) : IssueBody :=
  ⟨(byteAt bs 0).toNat, (byteAt bs 1).toNat, (byteAt bs 2).toNat, (byteAt bs 3).toNat, numAt bs 4 4, numAt bs 8 4,
    (byteAt bs 12).toNat, (byteAt bs 13).toNat, (byteAt bs 14).toNat, (byteAt bs 15).toNat, (bs.drop 16).take 144⟩

/-- The 160 bytes of an ISSUE body whose fields fit their places. -/
def issueBodyBytes (b : IssueBody) : List Byte :=
  [BitVec.ofNat 8 b.choice, BitVec.ofNat 8 b.kind, BitVec.ofNat 8 b.layout, BitVec.ofNat 8 b.discount] ++
    leBytes 4 b.adult ++ leBytes 4 b.child ++
    [BitVec.ofNat 8 b.na, BitVec.ofNat 8 b.nc, BitVec.ofNat 8 b.tender, BitVec.ofNat 8 b.items] ++ b.area

/-- The first `n` text items of an area, each a length byte of at most 40 and that many characters; none when an item is
too long or runs past the end (R56; 03, ISSUE order body). -/
def textItems : Nat → List Byte → Option (List Text)
  | 0, _ => some []
  | _ + 1, [] => none
  | n + 1, len :: rest =>
    if len.toNat ≤ 40 ∧ len.toNat ≤ rest.length then
      (textItems n (rest.drop len.toNat)).map (rest.take len.toNat :: ·)
    else none

/-! ### SET DISCOUNTS and SET LAYOUT records -/

/-- A record of SET DISCOUNTS as written. -/
structure DiscountRec where
  index : Nat
  name  : Text
  adult : Bool
  child : Bool
  rate  : Nat
  min   : Nat
  step  : Nat
  deriving DecidableEq, Repr

/-- A discount record from its 24 bytes. -/
def discountRec (bs : List Byte) : DiscountRec :=
  ⟨(byteAt bs 0).toNat, (bs.drop 1).take 12, (byteAt bs 13).getLsbD 0, (byteAt bs 13).getLsbD 1, numAt bs 14 2,
    numAt bs 16 4, (byteAt bs 20).toNat⟩

/-- The first `n` records of an attachment. -/
def discountRecs (n : Nat) (bs : List Byte) : List DiscountRec :=
  (List.range n).map fun k => discountRec ((bs.drop (24 * k)).take 24)

/-- A record of SET LAYOUT as written. -/
structure LayoutRec where
  row    : Nat
  col    : Nat
  width  : Nat
  size   : Nat
  source : Nat
  deriving DecidableEq, Repr

/-- A layout field record from its 5 bytes. -/
def layoutRec (bs : List Byte) : LayoutRec :=
  ⟨(byteAt bs 0).toNat, (byteAt bs 1).toNat, (byteAt bs 2).toNat, (byteAt bs 3).toNat, (byteAt bs 4).toNat⟩

/-- The first `n` field records, which stand after the count byte. -/
def layoutRecs (n : Nat) (bs : List Byte) : List LayoutRec :=
  (List.range n).map fun k => layoutRec ((bs.drop (1 + 5 * k)).take 5)

/-- The source of a layout field by its code; none above 21. -/
def fieldSource (c : Nat) : Option FieldSource :=
  if h : c < 12 then some (.text ⟨c, h⟩)
  else match c with
    | 12 => some .fareTotal
    | 13 => some .adultFare
    | 14 => some .childFare
    | 15 => some .passengers
    | 16 => some .discountName
    | 17 => some .serial
    | 18 => some .kindName
    | 19 => some .window
    | 20 => some .issueDay
    | 21 => some .issueTime
    | _ => none

/-! ### Codes -/

/-- The outcome codes (03, Outcome codes). -/
def OrderOutcome.code : OrderOutcome → Byte
  | .done => 1
  | .issued => 2
  | .spoilt => 3
  | .inDoubt => 4
  | .cashedUp => 5
  | .withdrawn => 6
  | .resetAborted => 7
  | .badForm => 32
  | .outOfRange => 33
  | .wrongSource => 34
  | .staleTag => 35
  | .officeClosed => 36
  | .notPermitted => 37
  | .noShift => 38
  | .shiftOpen => 39
  | .drawerClosing => 40
  | .busy => 41
  | .laneUnavailable => 42
  | .laneBusy => 43
  | .wrongStock => 44
  | .overlap => 45
  | .notInStock => 49
  | .runTableFull => 50
  | .magazineLoaded => 51
  | .countLimit => 52
  | .fareRange => 53
  | .tableFull => 54
  | .notFound => 55
  | .notIssuedState => 56
  | .notThisShift => 57
  | .attachmentFault => 58

/-- The entry kind codes (03, Journal entry header). -/
def EntryBody.code : EntryBody → Nat
  | .issued .. => 1
  | .spoilt .. => 2
  | .voided .. => 3
  | .refunded .. => 4
  | .inDoubt .. => 5
  | .resolved .. => 6
  | .lost .. => 7
  | .stock .. => 8
  | .fault .. => 9
  | .faultCleared .. => 10
  | .lane .. => 11
  | .shiftOpen .. => 12
  | .cashUp .. => 13
  | .dayClose .. => 14
  | .officeOpen .. => 15
  | .restart .. => 16

/-! ### Headers and entries as bytes -/

/-- The 8-byte header of an answer (03, Slot header and answer header). -/
def answerHeader (a : Answer) : List Byte :=
  [a.outcome.code, a.kind] ++ leBytes 2 a.tag.toNat ++ leBytes 4 a.time.toNat

/-- The 16-byte header of a written journal entry (03, Journal entry header); the number of kind field bytes is the free
value of log entry 11. -/
def entryHeader (w : Written) : List Byte :=
  [BitVec.ofNat 8 w.entry.body.code, BitVec.ofNat 8 (Config.kindFieldBytes w.entry.body.code).val] ++
    leBytes 2 w.entry.day ++ leBytes 4 w.seq.toNat ++ leBytes 4 w.entry.time.toNat ++ leBytes 2 w.pass.toNat ++ [0, 0]

/-- The 48 bytes of kind fields of an entry: the bytes used, which spell the fields of its kind, and zeros (R163). Where the
fields of a kind lie is not laid out, so the bytes used are free values (log entry 11). -/
def entryArea (b : EntryBody) : List Byte :=
  let used := (Config.kindFieldBytes b.code).val
  (List.range used).map (Config.kindFieldByte b) ++ List.replicate (48 - used) 0

/-- The 64 bytes of a written entry (R163, R164). -/
def entryBytes (w : Written) : List Byte := entryHeader w ++ entryArea w.entry.body

end Sys2Proof.Machine
end

