-- ==== Sys2Proof/Machine/Take.lean ====
section
/-! DEFINITION. The take of an order (R42 to R46, R52): what the Exchange Controller decides before the owner, the
owner's verdict, and what follows it in the sweep. -/

namespace Sys2Proof.Machine

/-- What the Exchange Controller knows of an order kind (R42, R43, R44, R45). -/
structure OrderRule where
  code      : Byte
  attaches  : Bool
  anyGate   : Bool
  anyOffice : Bool
  permitted : Source → Bool

/-- The owner's decision: a refusal; not takeable now; or an acceptance, with the changes of the take and the answer
given within it, none when the order is answered later (R43). -/
inductive Verdict where
  | refuse (oc : OrderOutcome)
  | wait
  | accept (change : State → State) (reply : Option (State → OrderOutcome × AnswerFields))

/-- Source 12 (R45). -/
def supervisor (s : Source) : Bool := decide (s.val = 12)

/-- Windows 0..11 (R45). -/
def windowSource (s : Source) : Bool := decide (s.val < 12)

/-- An order kind that only the supervisor may post, taken in the OPEN office (R45). -/
def supervisorRule (code : Byte) (attaches : Bool) : OrderRule := ⟨code, attaches, false, false, supervisor⟩

/-- An order kind that only a window may post (R45). -/
def windowRule (code : Byte) (attaches : Bool) : OrderRule := ⟨code, attaches, false, false, windowSource⟩

/-- Step 2 of the take: the attachment, or the outcome that its reading gives (R43, R44). -/
def readAttachment (attaches : Bool) (o : OrderHdr) : Except OrderOutcome (Option (List Byte)) :=
  if attaches && o.attached then
    if o.attLen = 0 ∨ Config.maxAttachment < o.attLen then .error .badForm
    else match o.att with
      | .error => .error .attachmentFault
      | .data bs => .ok (some bs)
  else .ok none

/-- The six steps of the take (R43). -/
def verdictOf (r : OrderRule) (o : OrderHdr) (src : Source) (owner : Option (List Byte) → State → Verdict) (s : State) : Verdict :=
  if s.journal.closed && !r.anyGate then .wait
  else match readAttachment r.attaches o with
    | .error oc => .refuse oc
    | .ok att =>
      if !r.permitted src then .refuse .wrongSource
      else if !s.office.opened && !r.anyOffice then .refuse .officeClosed
      else owner att s

/-- The expected tag of a source after a take (R41). -/
def advanceTag (src : Source) (s : State) : State :=
  s.onExch fun x => { x with tags := x.tags.upd src fun t => t + 1 }

/-- The copy of an order, with the attachment that its kind reads, if any (R37, R44). -/
def orderCopy (attaches : Bool) (o : OrderHdr) (b : OrderBody) : OrderCopy where
  attached   := o.attached
  retry      := o.retry
  movable    := o.movable
  attLen     := o.attLen
  attAddr    := o.attAddr
  body       := b
  attachment := match readAttachment attaches o with
    | .error _ => none
    | .ok att => att

/-- TAKEN written, and the order context opened with the copy of the order (R37, R43). -/
def markTaken (i : SlotNo) (h : Header) (c : OrderCopy) (s : State) : State :=
  openContext i h (some c) (((s.onHost fun m => { m with slots := m.slots.upd i fun c => { c with state := 2 } }).onSweep fun w =>
    w.setByte i 2))

/-- The answer given within the take, if any, and the service of the sources going on (R43, R41). -/
def finishTake (i : SlotNo) (h : Header) (reply : Option (State → OrderOutcome × AnswerFields)) (s : State) : State :=
  match reply with
  | none => serveOn s
  | some f => serveOn (answer i h.kind h.tag (f s).1 (f s).2 s)

/-- An accepted order: TAKEN, the changes as one step, the answer (R43); a failed TAKEN write changes nothing (R52);
`cut` is a reset inside the take (log entry 7). -/
def acceptOrder (i : SlotNo) (h : Header) (c : OrderCopy) (src : Source) (cut : Option Cut) (change : State → State)
    (reply : Option (State → OrderOutcome × AnswerFields)) (s : State) : State :=
  let a := s.access
  if !a.2 then busFault a.1
  else
    let s := markTaken i h c a.1
    match cut with
    | none => finishTake i h reply (change (advanceTag src s))
    | some k => doReset k.kind (if k.changed then change (advanceTag src s) else s)

/-- What a verdict does to the offered order's slot and to the sweep (R41 to R43). -/
def settleVerdict (i : SlotNo) (h : Header) (c : OrderCopy) (src : Source) (cut : Option Cut) (v : Verdict) (s : State) : State :=
  match v with
  | .wait => servePast s
  | .refuse oc => serveOn (answerDirect i h (some c) oc (advanceTag src s))
  | .accept change reply => acceptOrder i h c src cut change reply s

/-- The header of the offered order, with its kind as read at the take (log entry 4), and its source; none when the order
is not the one offered (log entry 3). -/
def offeredHeader (s : State) (i : SlotNo) (code : Byte) : Option (Header × Source) :=
  match s.exch.sweep with
  | none => none
  | some w =>
    if w.offered = some i then (headerSource w.headers[i]).map fun src => ({ w.headers[i] with kind := code }, src) else none

/-- The take of an order of a kind of R45, under the levels of the lanes' input lines as they then stand: the owner is given
the order's source, tag and attachment. -/
def takeOrder (r : OrderRule) (o : OrderHdr) (b : OrderBody) (e : Env)
    (owner : Source → Tag → Option (List Byte) → State → Verdict) (s : State) : State :=
  match offeredHeader s o.slot r.code with
  | none => s
  | some (h, src) =>
    withBus e.bus (fun s =>
      settleVerdict o.slot h (orderCopy r.attaches o b) src e.cut (verdictOf r o src (owner src h.tag) s) s) (setLines e.lines s)

/-- The take of an order whose kind code is none of the 18 (R43); a code of the 18 is not such an order (log entry 3). -/
def takeUnknown (o : OrderHdr) (code : Byte) (e : Env) (s : State) : State :=
  if 1 ≤ code.toNat ∧ code.toNat ≤ 18 then s
  else match offeredHeader s o.slot code with
    | none => s
    | some (h, src) =>
      withBus e.bus (fun s =>
        settleVerdict o.slot h (orderCopy false o .other) src none (if s.journal.closed then .wait else .refuse .badForm) s)
        (setLines e.lines s)

/-- The owner's verdict for an order of a window; any other source has been answered at step 4 (R43, R45). -/
def forWindow (src : Source) (f : Window → Verdict) : Verdict :=
  match toIdx 12 src.val with
  | none => .refuse .wrongSource
  | some w => f w

/-- An acceptance whose answer is DONE with fields fixed at the take. -/
def acceptDone (change : State → State) (f : AnswerFields) : Verdict := .accept change (some fun _ => (.done, f))

end Sys2Proof.Machine
end

