-- ==== Sys2Proof/Machine/ExchangeCommands.lean ====
section
/-! DEFINITION. The commands of the Exchange Controller: STATUS READ (R49), an order of no kind (R43), the sweep's events
(R39, R40), the enabling and starting of the exchange (R36, R38, R177), and the register writes (R36, R50, R51, R53). -/

namespace Sys2Proof.Machine

/-! ### STATUS READ (R49) -/

/-- The order kind code of STATUS READ, taken in any gate and office state from any source (R42, R43, R45). -/
def statusReadRule : OrderRule := ⟨18, false, true, true, fun _ => true⟩

/-- A fault record as reported (R49, R135). -/
def faultSnap (r : FaultRec) : FaultSnap :=
  match r.active with
  | none => ⟨false, none, none, [], 0⟩
  | some a => ⟨true, some a.first, some a.time, a.further, a.repeats⟩

/-- A lane as reported; K is zero when absent (R49, R75). The remaining count of an EMPTY magazine, which R5 does not define, is
reported as 0 (DESIGN CHOICE, log entry 46). -/
def laneSnap (s : State) (l : Lane) : LaneSnap :=
  let r := s.lane l
  ⟨r.state, r.queue.length, r.credits, r.cap.getD 0, s.mag l, ((s.mag l).map Loaded.remaining).getD 0,
    faultSnap s.faults.recs[l], r.act⟩

/-- A drawer as reported (R49, R147). -/
def drawerSnap (d : Drawer) : DrawerSnap := ⟨d.state, d.shift, d.clerk, d.live, d.suspense, d.saturated⟩

/-- A stock kind as reported (R6, R49). -/
def kindSnap (s : State) (k : StockKind) : KindSnap :=
  ⟨s.stock.kinds[k], s.stock.counters[k], inOffice s k, inMagazines s k, inFlight s k, inDoubt s k⟩

/-- The free buffers among some (R86). -/
def freeAmong (s : State) (bs : List Buffer) : Nat := bs.countP s.bufferFree

/-- The snapshot of the attached blocks as each stands at this event (R49). -/
def snapshot (s : State) : Snapshot :=
  ⟨s.office.opened, s.office.day, s.office.clock, s.exch.state, s.journal.closed, Vector.ofFn (laneSnap s),
    freeAmong s sharedBuffers, Vector.ofFn fun l => freeAmong s (reservedPair l), s.issue.table.length, s.issue.reserved,
    s.journal.free, s.journal.holding.length, s.till.map drawerSnap, Vector.ofFn (kindSnap s), s.stock.runs.length⟩

/-- The bytes of the snapshot that are written (R49). -/
def snapshotLen (len : Nat) : Nat := min len Config.snapshotBytes

/-- The snapshot written to its destination; a length of 0 writes nothing, and a failed write halts the exchange (R49,
R52). -/
def writeSnapshot (dest : BitVec 64) (len : Nat) (s : State) : State :=
  if snapshotLen len = 0 then s
  else
    let a := s.access
    if a.2 then a.1.onHost fun h => { h with snapshot := some ⟨dest, snapshotLen len, snapshot s⟩ } else busFault a.1

/-- The answer of STATUS READ: ATTACHMENT_FAULT when the write has halted the exchange (R49, R52). -/
def statusReply (len : Nat) (s : State) : OrderOutcome × AnswerFields :=
  if s.exch.state = .running then (.done, .status Config.snapshotBytes (snapshotLen len)) else (.attachmentFault, .none)

/-- STATUS READ (R49). -/
def execStatusRead (o : OrderHdr) (dest : BitVec 64) (len : Nat) (e : Env) (s : State) : Host.Outcome State Fault Refusal :=
  .next (takeOrder statusReadRule o (.statusRead dest len) e
    (fun _ _ _ _ => .accept (writeSnapshot dest len) (some (statusReply len))) s)

/-- An offered order of no kind of R45 (R43). -/
def execUnknownOrderKind (o : OrderHdr) (code : Byte) (e : Env) (s : State) : Host.Outcome State Fault Refusal :=
  .next (takeUnknown o code e s)

/-! ### Sweeps (R39, R40) -/

/-- The sweep timer expires (R39). -/
def execSweepTimerExpiry (s : State) : Host.Outcome State Fault Refusal := .next (s.onExch timerSweep)

/-- A host write to Sweep Request; its value does not matter (R39). -/
def execSweepRequest (_v : BitVec 32) (s : State) : Host.Outcome State Fault Refusal := .next (s.onExch requestSweep)

/-- A reset that comes during an event: at the host-memory access that the event leaves failed, or after the event. -/
def cutBy (cut : Option ResetKind) (s : State) : State :=
  match cut with
  | none => s
  | some k => doReset k s

/-- The next steps of the sweep in progress (R40). A reset during them leaves an interrupted journal write at the front of
the holding queue, with the head where it was (R164, R169; log entry 7). -/
def execSweep (steps : Nat) (release : BitVec 32) (headers : Table 64 Header) (e : SweepEnv) (s : State) :
    Host.Outcome State Fault Refusal :=
  .next (cutBy e.cut (withBus e.bus (sweepSteps steps release.toNat headers) s))

/-! ### Registers (R53) -/

/-- A host write to Area Base (R36). -/
def execAreaBaseWrite (v : BitVec 64) (s : State) : Host.Outcome State Fault Refusal := .next (s.onExch fun x => x.writeBase v)

/-- A Run Control write that sets EXCHANGE_ENABLE (R38). -/
def execExchangeEnableSet (s : State) : Host.Outcome State Fault Refusal := .next (s.onExch fun x => x.writeEnable true)

/-- A Run Control write that clears EXCHANGE_ENABLE (R38). -/
def execExchangeEnableClear (s : State) : Host.Outcome State Fault Refusal := .next (s.onExch fun x => x.writeEnable false)

/-- A Run Control write of the notice enables (R51). -/
def execNoticeEnableWrite (a j n : Bool) (s : State) : Host.Outcome State Fault Refusal :=
  .next (s.onExch fun x => x.writeNotices a j n)

/-- A host write to Notice Status (R50). -/
def execAlertClear (v : BitVec 32) (s : State) : Host.Outcome State Fault Refusal := .next (s.onAlerts fun a => a.clearBits v)

/-- A host write to the register at an offset (R53; log entry 30). -/
def execRegisterWrite (off : Nat) (v : BitVec 64) (s : State) : Host.Outcome State Fault Refusal := .next (writeRegister off v s)

/-- The reads of STARTING (R36, R38, R177). -/
def execExchangeStart (count offset release : BitVec 32) (bus : Option Nat) (s : State) : Host.Outcome State Fault Refusal :=
  .next (withBus bus (startExchangeArea count.toNat offset.toNat release.toNat) s)

end Sys2Proof.Machine
end

