-- ==== Sys2Proof/Machine/FareOrders.lean ====
section
/-! DEFINITION. The orders of the Fare Unit: SET DISCOUNTS (R24, R25) and SET REFUND FEES (R27). -/

namespace Sys2Proof.Machine

/-- The order kind codes of this family (03, Order kind codes). -/
def setDiscountsRule : OrderRule := supervisorRule 3 true
def setRefundFeesRule : OrderRule := supervisorRule 4 false

/-! ### SET DISCOUNTS -/

/-- The steps that a Discount Table entry may hold (R23). -/
def stepOk (n : Nat) : Bool := [1, 5, 10, 50].contains n

/-- The entry that a record writes: a rate above 1,000 is stored as 1,000 (R25). -/
def storedEntry (r : DiscountRec) : Discount := ⟨r.name, min r.rate 1000, r.step, r.min, r.adult, r.child⟩

/-- One record written into the entry of its index (R25). -/
def writeDiscount (f : FareUnit) (r : DiscountRec) : FareUnit :=
  match toIdx 16 r.index with
  | none => f
  | some i => { f with discounts := f.discounts.upd i fun _ => storedEntry r }

/-- Every record written, as one event (R25). -/
def applyDiscounts (rs : List DiscountRec) (s : State) : State := { s with fare := rs.foldl writeDiscount s.fare }

/-- The checks of SET DISCOUNTS over its records, in the order of R24. -/
def discountRefusal (rs : List DiscountRec) : Option OrderOutcome :=
  if rs.any fun r => decide (16 ≤ r.index) then some .outOfRange
  else if rs.any fun r => decide (r.index = 0) then some .notPermitted
  else if ¬ (rs.map DiscountRec.index).Nodup then some .badForm
  else if rs.any fun r => !stepOk r.step then some .badForm
  else if rs.any fun r => decide (Config.maxFee < r.min) then some .outOfRange
  else none

/-- The Fare Unit's decision on SET DISCOUNTS (R24, R25). -/
def setDiscountsVerdict (count : Nat) (att : Option (List Byte)) : Verdict :=
  match att with
  | none => .refuse .badForm
  | some bs =>
    if 1 ≤ count ∧ count ≤ 15 ∧ 24 * count ≤ bs.length then
      let rs := discountRecs count bs
      match discountRefusal rs with
      | some oc => .refuse oc
      | none => acceptDone (applyDiscounts rs) (.discounts count (rs.countP fun r => decide (1000 < r.rate)))
    else .refuse .badForm

/-- SET DISCOUNTS (R24). -/
def execSetDiscounts (o : OrderHdr) (count : Nat) (e : Env) (s : State) : Host.Outcome State Fault Refusal :=
  .next (takeOrder setDiscountsRule o (.setDiscounts count) e (fun _ _ att _ => setDiscountsVerdict count att) s)

/-! ### SET REFUND FEES -/

/-- The checks of SET REFUND FEES, in the order of R27. -/
def feeRefusal (ps : List (Nat × Nat)) : Option OrderOutcome :=
  if ¬ (1 ≤ ps.length ∧ ps.length ≤ 4) then some .badForm
  else if ps.any fun p => decide (3 < p.1 ∨ Config.maxFee < p.2) then some .outOfRange
  else if ¬ (ps.map Prod.fst).Nodup then some .badForm
  else if ps.any fun p => decide (p.1 = 3 ∧ p.2 ≠ 0) then some .notPermitted
  else none

/-- One pair's fee written to its reason; the fee of reason 3 stays as it is (R26, R27). -/
def writeFee (f : FareUnit) (p : Nat × Nat) : FareUnit :=
  match toIdx 4 p.1 with
  | none => f
  | some i => if i.val = 3 then f else { f with fees := f.fees.upd i fun _ => p.2 }

/-- Every pair written, as one event (R27). -/
def feesAfter (ps : List (Nat × Nat)) (f : FareUnit) : FareUnit := ps.foldl writeFee f

/-- The Fare Unit's decision on SET REFUND FEES (R27). -/
def setRefundFeesVerdict (ps : List (Nat × Nat)) (s : State) : Verdict :=
  match feeRefusal ps with
  | some oc => .refuse oc
  | none => acceptDone (fun s => { s with fare := feesAfter ps s.fare }) (.fees (feesAfter ps s.fare).fees)

/-- SET REFUND FEES (R27). -/
def execSetRefundFees (o : OrderHdr) (ps : List (Nat × Nat)) (e : Env) (s : State) : Host.Outcome State Fault Refusal :=
  .next (takeOrder setRefundFeesRule o (.setRefundFees ps) e (fun _ _ _ => setRefundFeesVerdict ps) s)

end Sys2Proof.Machine
end

