-- ==== Sys2Proof/Machine/Link.lean ====
section
/-! DEFINITION. The Link Engine and the sending of jobs (05, 06): the beginning of an exchange, the waiting frame, link
start, DOWN and IDLE, the FLUSH request, stalls and hold patience, the queue, the send, and the end of a good exchange. -/

namespace Sys2Proof.Machine

/-! ### Exchanges (R102 to R105) -/

/-- The engine is between exchanges (R98). -/
def LinkEngine.between (k : LinkEngine) : Bool :=
  decide (k.phase = .running) && k.exchange.isNone && k.repeatFrame.isNone

/-- The lane's job out that holds the buffer. -/
def findOut (s : State) (l : Lane) (b : Buffer) : Option Job := (s.lane l).out.find? fun j => decide (j.buffer = b)

/-- The lane's job out that holds the buffer, changed. -/
def onOut (l : Lane) (b : Buffer) (f : Job → Job) (s : State) : State :=
  s.onLane l fun r => { r with out := r.out.map fun j => if j.buffer = b then f j else j }

/-- A frame with its bytes; an IMAGE is made from its job's image, serial and kind (R100). -/
def carry (s : State) (l : Lane) (f : Frame) : Carried :=
  ⟨f, match f with
    | .greet => greetBytes
    | .flush => flushBytes
    | .poll a => pollBytes a
    | .image b p => match findOut s l b with
      | none => []
      | some j => imageBytes b p (j.serial.getD 0) j.kind (s.images[b].getD [])⟩

/-- The exchange that begins under the levels of the input lines: the busy wait when LBY is asserted, else the
stuck-line check when LDI is low, else the frame (R103, R104). -/
def startExchange (pins : Pins) (stretch : Nat) (c : Carried) : Exchange :=
  if pins.lby then ⟨c, .busyWait, some stretch⟩
  else if pins.ldiLow then ⟨c, .clearing, none⟩
  else ⟨c, .sending, none⟩

/-- A job whose IMAGE is CARRYING has its exchange begun (R110). -/
def Job.begin (j : Job) : Job :=
  { j with delivery := match j.delivery with
    | .carrying _ => .carrying true
    | d => d }

/-- An exchange begun with a frame as it is; a running poll timer stops (R102). -/
def beginCarried (l : Lane) (c : Carried) (s : State) : State :=
  let s := s.onLink l fun k =>
    { k with exchange := some (startExchange (s.lane l).pins s.office.settings.stretch c), poll := none }
  match c.frame with
  | .image b _ => onOut l b Job.begin s
  | _ => s

/-- An exchange begun with a frame made now. -/
def beginExchange (l : Lane) (f : Frame) (s : State) : State := beginCarried l (carry s l f) s

/-- A POLL exchange begun, carrying the acknowledgement bit as it stands (R102). -/
def beginPoll (l : Lane) (s : State) : State := beginExchange l (.poll ((s.lane l).link.ack.getD false)) s

/-- The exchange of a waiting frame begins when the engine is between exchanges (R102). -/
def pump (l : Lane) (s : State) : State :=
  if (s.lane l).link.between then
    match (s.lane l).link.waiting with
    | none => s
    | some f => beginExchange l f (s.onLink l fun k => { k with waiting := none })
  else s

/-- A waiting IMAGE whose job has left the out-list is dropped (R106). -/
def dropWaiting (l : Lane) (s : State) : State :=
  match (s.lane l).link.waiting with
  | some (.image b _) => if (findOut s l b).isNone then s.onLink l fun k => { k with waiting := none } else s
  | _ => s

/-! ### Phases (R98, R106, R108, R109) -/

/-- The awaited flush cleared, with the repair references that stand while it does (R110, R128). -/
def clearFlush (l : Lane) (s : State) : State :=
  s.onLane l fun r => { r with repairRefs := [], link := { r.link with awaited := none, flushCarried := false } }

/-- The engine enters DOWN (R98, R103, R104, R106, R110). -/
def linkDown (l : Lane) (s : State) : State :=
  clearFlush l (s.onLink l fun k =>
    { k with phase := .down, exchange := none, repeatFrame := none, waiting := none, poll := none, restartDue := false })

/-- The engine enters IDLE when its lane is parked (R109). -/
def linkIdle (l : Lane) (s : State) : State :=
  clearFlush l (s.onLink l fun k =>
    { k with
      phase := .idle, exchange := none, repeatFrame := none, waiting := none, poll := none, restartDue := false, fails := 0,
      headFault := false })

/-- A link start: GREETING is entered and a GREET exchange begins (R108). -/
def linkStart (l : Lane) (s : State) : State :=
  beginExchange l .greet (clearFlush l (s.onLink l fun k =>
    { k with
      phase := .greeting, rate := s.office.settings.rate, ack := none, fails := 0, repeatFrame := none, waiting := none,
      headFault := false, exchange := none, restartDue := false }))

/-- The link start of a lane that has moved to STARTING: at once, or when the exchange in progress has ended (R109). -/
def beginLinkStart (l : Lane) (s : State) : State :=
  if (s.lane l).link.exchange.isSome then s.onLink l fun k => { k with restartDue := true } else linkStart l s

/-- The move of a lane to STARTING, with its LANE entry, K removed and the credits 0 (R76, R82, R108, R145). -/
def toStarting (l : Lane) (why : LaneReason) (s : State) : State :=
  beginLinkStart l
    (give (.lane l .starting why) (s.onLane l fun r => { r with state := .starting, cap := none, credits := 0 }))

/-- The park of a lane (R80, R82). -/
def park (l : Lane) (why : ParkReason) (reason : LaneReason) (s : State) : State :=
  give (.lane l (.parked why) reason)
    (linkIdle l (s.onLane l fun r => { r with state := .parked why, cap := none, credits := 0, patience := none }))

/-! ### The FLUSH request (R110) -/

/-- A FLUSH requested with its limit. -/
def requestFlush (l : Lane) (limit : Nat) (s : State) : State :=
  let k := (s.lane l).link
  if k.phase = .running ∧ k.awaited = none then
    pump l (s.onLink l fun k => { k with waiting := some .flush, awaited := some limit, flushCarried := false })
  else s

/-! ### Stalls and hold patience (R90, R91) -/

/-- The lane is stalled (R90). -/
def stalled (s : State) (l : Lane) : Bool :=
  decide ((s.lane l).state = .holding) || (!(s.lane l).queue.isEmpty && magSpent (s.mag l))

/-- The patience timer with the hold patience as it stands; none under a patience of 0 (R91). -/
def patienceTimer (s : State) : Option Nat :=
  if s.office.settings.patience = 0 then none else some s.office.settings.patience

/-- The patience timer started at the beginning of a stall and stopped at its end (R91). -/
def stallEdge (was : Bool) (l : Lane) (s : State) : State :=
  if !was && stalled s l then s.onLane l fun r => { r with patience := patienceTimer s }
  else if was && !stalled s l then s.onLane l fun r => { r with patience := none }
  else s

/-- An event of a lane, with the beginning or end of a stall it makes. -/
def withStall (l : Lane) (f : State → State) (s : State) : State := stallEdge (stalled s l) l (f s)

/-! ### The queue (R85) -/

/-- The job joined before the other, in the order of issue of the 32-bit join numbers (R85; log entry 27). -/
def Job.joined (a b : Job) : Bool := decide ((b.joinNo - a.joinNo).toNat < 2 ^ 31)

/-- A job placed in a queue by its join number. -/
def insertJob (j : Job) : List Job → List Job
  | [] => [j]
  | q :: qs => if j.joined q then j :: q :: qs else q :: insertJob j qs

/-- A job as it returns to the queue: no serial, no delivery mark (R84, R98). -/
def Job.requeue (j : Job) : Job := { j with serial := none, state := .queued, delivery := .carrying false }

/-! ### The send (R89, R15, R64) -/

/-- The sending condition (R89). -/
def canSend (s : State) (l : Lane) : Bool :=
  let r := s.lane l
  match r.queue, s.mag l with
  | j :: _, some m =>
    decide (r.state = .ready ∨ r.state = .printing) && decide (0 < r.credits) && decide (m.kind = j.kind) &&
      decide (m.next ≤ m.last) && r.link.awaited.isNone && r.link.between
  | _, _ => false

/-- A job as it is sent with a serial. -/
def Job.send (j : Job) (n : Nat) : Job := { j with serial := some n, state := .sent, delivery := .carrying false }

/-- The IMAGE frame that a send makes the waiting frame: whole, or the first of two parts (R100). -/
def imageFrame (b : Buffer) (im : List ImageField) : Frame := .image b (if needsTwo im then 1 else 0)

/-- The send of the front job (R89): it takes the serial next (R15), its SERIAL fields are filled (R64), the Flight List
gains its entry (R174), and its IMAGE becomes the waiting frame. -/
def sendFront (l : Lane) (s : State) : State :=
  match (s.lane l).queue, s.mag l with
  | j :: q, some m =>
    let im := fillSerial m.next (s.images[j.buffer].getD [])
    let s := (s.setMag l (some m.consume)).setImage j.buffer (some im)
    let s := s.onOffice fun o => { o with flight := o.flight ++ [(j.send m.next).flight m.next] }
    s.onLane l fun r =>
      { r with
        queue := q, out := r.out ++ [j.send m.next], credits := r.credits - 1, state := .printing,
        link := { r.link with waiting := some (imageFrame j.buffer im) } }
  | _, _ => s

/-- The sending condition tested: one send at most, whose IMAGE exchange then begins (R89, R102). -/
def trySend (l : Lane) (s : State) : State :=
  if canSend s l then pump l (withStall l (sendFront l) s) else s

/-- A job joins a lane at the back of its queue with the lane's join number, and the sending condition is tested
(R85, R94, R89). -/
def joinLane (l : Lane) (j : Job) (s : State) : State :=
  let s := withStall l (fun s => s.onLane l fun r =>
    { r with queue := r.queue ++ [{ j with lane := l, joinNo := r.joinNo }], joinNo := r.joinNo + 1 }) s
  trySend l (s.onAct l fun a => { a with jobsQueued := satAdd Config.max32 a.jobsQueued 1 })

/-! ### The end of a good exchange (R102, R105) -/

/-- The frame has reached the printer: an IMAGE's job is DELIVERED at its last part, a FLUSH is marked as carried
(R105). -/
def delivered (l : Lane) (f : Frame) (s : State) : State :=
  match f with
  | .image b p =>
    if p = 1 then s
    else onOut l b (fun j => { j with delivery := match j.delivery with
      | .carrying _ => .delivered
      | d => d }) s
  | .flush => s.onLink l fun k => { k with flushCarried := k.awaited.isSome }
  | _ => s

/-- What follows an exchange that ended good: the second part of an IMAGE, else the waiting frame, else a send, else a
POLL when a report other than NOTHING was accepted, else the poll timer (R100, R102). -/
def afterExchange (l : Lane) (acceptedOther : Bool) (f : Frame) (s : State) : State :=
  let s := s.onLink l fun k => { k with exchange := none }
  let next (s : State) : State :=
    let s := trySend l (pump l (dropWaiting l s))
    if (s.lane l).link.between then
      if acceptedOther then beginPoll l s else s.onLink l fun k => { k with poll := some s.office.settings.poll }
    else s
  match f with
  | .image b 1 => if (findOut s l b).isSome then beginExchange l (.image b 2) s else next s
  | _ => next s

end Sys2Proof.Machine
end

