-- ==== Sys2Proof/Machine/Ends.lean ====
section
/-! DEFINITION. The ends of a job and their settlement (R65 to R68), and the retry rule (R129). -/

namespace Sys2Proof.Machine

/-- A lane in PRINTING whose out-list is empty becomes READY (R79). -/
def LaneRec.rest (r : LaneRec) : LaneRec := if r.state = .printing ∧ r.out = [] then { r with state := .ready } else r

/-- A job leaves the out-list: its credit returns, and the lane may become READY (R79, R88). -/
def leaveOut (l : Lane) (b : Buffer) (s : State) : State :=
  s.onLane l fun r =>
    ({ r with out := r.out.filter fun j => decide (j.buffer ≠ b), credits := r.credits + 1 } : LaneRec).rest

/-- The answer to an ISSUE at its job's end (R68). -/
def answerIssue (l : Lane) (j : Job) (oc : OrderOutcome) (serial : Option Nat) (cause : Option DoubtCause) (s : State) : State :=
  answer j.slot kindIssue j.tag oc
    (.issue serial j.kind l j.pAdult j.pChild j.total j.attempt j.spoilt cause) s

/-- The reservation count lowered by 1 (R70). -/
def IssueController.unreserve (i : IssueController) : IssueController := { i with reserved := i.reserved - 1 }

/-- An Issue Table entry inserted at the back, taking a reservation's place (R65, R67). -/
def IssueController.insert (i : IssueController) (e : IssueEntry) : IssueController :=
  { i with table := i.table ++ [e], reserved := i.reserved - 1 }

/-- A job ends ISSUED with serial `n` (R65). -/
def endIssued (l : Lane) (j : Job) (n : Nat) (s : State) : State :=
  let s := s.onIssue fun i => i.insert ⟨j.kind, n, j.window, j.shift, j.tender, j.total, .issued⟩
  let s := dropFlight j.kind n (s.onCounters j.kind fun c => c.addIssued 1)
  let s := s.onDrawer j.window fun d => ((d.sale j.tender j.total).countIssued).liveDown
  let s := give (.issued j.kind n l j.window j.shift j.tender j.total j.attempt) s
  let s := answerIssue l j .issued (some n) none (s.setImage j.buffer none)
  testCashUp j.window (leaveOut l j.buffer s)

/-- A job that has left the out-list ends SPOILT (R66). -/
def endSpoilt (l : Lane) (j : Job) (s : State) : State :=
  let s := s.onIssue IssueController.unreserve
  let s := (s.onDrawer j.window Drawer.liveDown).setImage j.buffer none
  testCashUp j.window (answerIssue l j .spoilt none none s)

/-- A job that is FED or PRINTED ends IN_DOUBT at a holding fault (R67, R7); a job without a serial is not such a job. -/
def endInDoubt (l : Lane) (k : FaultKind) (j : Job) (s : State) : State :=
  match j.serial with
  | none => s
  | some n =>
    let s := dropFlight j.kind n (s.onStock fun r =>
      { r with doubts := r.doubts ++ [⟨j.kind, n, l, j.window, j.shift, j.total, j.tender, j.tag, .fault k⟩] })
    let s := s.onDrawer j.window fun d => (d.suspend j.total).liveDown
    let s := give (.inDoubt j.kind n l j.window j.total (.fault k) j.tag) s
    let s := answerIssue l j .inDoubt (some n) (some (.fault k)) (s.setImage j.buffer none)
    testCashUp j.window (leaveOut l j.buffer s)

/-- The retry rule, for a job that has left the out-list with its attempt spoilt (R129): back to the queue with attempt
2, or its end SPOILT. -/
def retryOrEnd (l : Lane) (j : Job) (s : State) : State :=
  if j.retry ∧ j.attempt = 1 then
    s.onLane l fun r => { r with queue := insertJob { j.requeue with attempt := 2 } r.queue }
  else endSpoilt l j s

end Sys2Proof.Machine
end

