-- ==== Sys2Proof/Machine/Faults.lean ====
section
/-! DEFINITION. The Fault Table (08) and what a holding fault does to a lane (R78, R130): recall, the move to HOLDING, and
the recording of a fault. -/

namespace Sys2Proof.Machine

/-! ### Recall (R17, R127) -/

/-- The SENT jobs of a lane, oldest first. -/
def sentJobs (s : State) (l : Lane) : List Job := (s.lane l).out.filter fun j => decide (j.state = .sent)

/-- The IMAGE of a job had begun to be carried (R110). -/
def Job.begun (j : Job) : Bool := decide (j.delivery ≠ .carrying false)

/-- Every SENT job leaves the out-list and returns to the front of the queue; the serials they hold are withdrawn
(R127, R17, R85, R88). -/
def recallSent (l : Lane) (s : State) : State :=
  let sent := sentJobs s l
  let s := withdraw l (sent.filterMap fun j => j.serial.map fun n => (j.kind, n)) s
  s.onLane l fun r =>
    { r with
      out := r.out.filter fun j => decide (j.state ≠ .sent)
      credits := r.credits + sent.length
      queue := sent.foldl (fun q j => insertJob j.requeue q) r.queue }

/-- The flush limit: the recalled jobs whose IMAGE had begun to be carried (R110). -/
def flushLimit (sent : List Job) : Nat := sent.countP Job.begun

/-! ### The move to HOLDING (R78, R130) -/

/-- A lane's jobs out dealt with at the move to HOLDING (R130); a FLUSH is requested when jobs were out (R110; log entry
13). -/
def settleOut (l : Lane) (k : FaultKind) (s : State) : State :=
  let out := (s.lane l).out
  let s := (out.filter fun j => decide (j.state = .fed ∨ j.state = .printed)).foldl (fun s j => endInDoubt l k j s) s
  let sent := sentJobs s l
  let s := recallSent l s
  if out.isEmpty then s else requestFlush l (flushLimit sent) s

/-- The lane is held by a fault: a lane in STARTING, READY or PRINTING moves to HOLDING (R78). -/
def holdLane (l : Lane) (k : FaultKind) (s : State) : State :=
  match (s.lane l).state with
  | .starting | .ready | .printing =>
    withStall l (fun s =>
      settleOut l k (give (.lane l .holding .fault) (s.onLane l fun r => { r with state := .holding }))) s
  | _ => s

/-! ### Recording (R136 to R138) -/

/-- The kind stands in an ACTIVE record. -/
def ActiveFault.has (a : ActiveFault) (k : FaultKind) : Bool := decide (k = a.first) || a.further.contains k

/-- An ACTIVE record after one more holding fault (R137). -/
def ActiveFault.add (a : ActiveFault) (k : FaultKind) : ActiveFault :=
  { a with
    repeats := satAdd 255 a.repeats 1
    further := if a.has k ∨ 3 ≤ a.further.length then a.further else a.further ++ [k] }

/-- A lane's fault record changed. -/
def onRecord (l : Lane) (f : FaultRec → FaultRec) (s : State) : State :=
  s.onFaults fun t => { t with recs := t.recs.upd l f }

/-- The lane's faults counter raised (R94, R134). -/
def countFault (l : Lane) (s : State) : State :=
  s.onAct l fun a => { a with faults := satAdd Config.max32 a.faults 1 }

/-- A holding fault (R136, R137). -/
def raiseHolding (l : Lane) (k : FaultKind) (s : State) : State :=
  let s := countFault l s
  match s.faults.recs[l].active with
  | none =>
    let s := onRecord l (fun r => { r with active := some ⟨k, s.office.clock, [], 0⟩ }) s
    holdLane l k (giveFault l k false 0 (s.onAlerts fun a => { a with lane := true }))
  | some a =>
    let s := onRecord l (fun r => { r with active := some (a.add k) }) s
    holdLane l k (if a.has k then s else giveFault l k false (a.add k).repeats s)

/-- A recovered fault (R138). -/
def raiseRecovered (l : Lane) (k : FaultKind) (s : State) : State := giveFault l k true 0 (countFault l s)

/-- A fault of the link that brings it DOWN (R103, R104, R106). -/
def raiseDown (l : Lane) (k : FaultKind) (s : State) : State := raiseHolding l k (linkDown l s)

end Sys2Proof.Machine
end

