-- ==== Sys2Proof/Machine/Reports.lean ====
section
/-! DEFINITION. What each accepted report does (R111 to R117, R128), the end of an exchange by a report, and its failure
(R99, R101, R105 to R109). -/

namespace Sys2Proof.Machine

/-! ### Reports on a READY or PRINTING lane -/

/-- PROTOCOL raised as a holding fault by the Lane Controller or the Link Engine (R101, R105, R111, R116). -/
def protocol (l : Lane) (s : State) : State := raiseHolding l .protocol s

/-- A report that names a repair reference of its lane is discarded (R128). -/
def repairRef (s : State) (l : Lane) (ref : Byte) : Bool := (s.lane l).repairRefs.any fun b => decide (b.val = ref.toNat)

/-- The job that an ACCEPTED report may name: the oldest job out whose mark is DELIVERED (R111). -/
def oldestDelivered (s : State) (l : Lane) : Option Job :=
  (s.lane l).out.find? fun j => decide (j.delivery = .delivered)

/-- The job that PRINTED, EJECTED and SPOILED may name: the oldest job out, its mark ACCEPTED (R111). -/
def oldestAccepted (s : State) (l : Lane) : Option Job :=
  match (s.lane l).out with
  | [] => none
  | j :: _ => if j.delivery = .accepted then some j else none

/-- The job a report names when it meets its condition (R111). -/
def named (o : Option Job) (ref : Byte) : Option Job := o.filter fun j => decide (j.buffer.val = ref.toNat)

/-- ACCEPTED on a READY or PRINTING lane (R112). -/
def actAccepted (l : Lane) (ref : Byte) (s : State) : State :=
  match named (oldestDelivered s l) ref with
  | none => protocol l s
  | some j => onOut l j.buffer (fun j => { j with delivery := .accepted }) s

/-- PRINTED on a READY or PRINTING lane (R112). -/
def actPrinted (l : Lane) (ref : Byte) (s : State) : State :=
  match named (oldestAccepted s l) ref with
  | none => protocol l s
  | some j => match j.state with
    | .fed => onOut l j.buffer (fun j => { j with state := .printed }) s
    | .sent => raiseHolding l .markMissed s
    | _ => protocol l s

/-- EJECTED on a READY or PRINTING lane (R113); a job out always holds a serial (R84). -/
def actEjected (l : Lane) (ref : Byte) (s : State) : State :=
  match named (oldestAccepted s l) ref with
  | none => protocol l s
  | some j => match j.serial with
    | none => protocol l s
    | some n =>
      let s := (endIssued l j n s).onLink l fun k => { k with headFault := false }
      if j.state = .sent then raiseHolding l .markMissed s else s

/-- A serial spoilt against a job: counted, entered in the job's list, counted in its window's drawer (R16, R114, R124,
R151). -/
def Job.addSpoilt (j : Job) (n : Nat) : Job := { j with spoilt := j.spoilt ++ [n], serial := none }

/-- The SPOILT entry of one serial (R163). -/
def spoiltEntry (k : StockKind) (n : Nat) (l : Lane) (w : Option Window) (c : SpoilCause) : EntryBody :=
  .spoilt k n n 1 l w c

/-- HEAD_FAULT after a SPOILED report: recovered when the head-fault mark was clear, and the mark is then set; holding
when it was set (R114). -/
def headFault (l : Lane) (s : State) : State :=
  if (s.lane l).link.headFault then raiseHolding l .headFault s
  else raiseRecovered l .headFault (s.onLink l fun k => { k with headFault := true })

/-- SPOILED on a READY or PRINTING lane (R114, R129). -/
def actSpoiled (l : Lane) (ref : Byte) (s : State) : State :=
  match named (oldestAccepted s l) ref with
  | none => protocol l s
  | some j => match j.serial with
    | none => protocol l s
    | some n =>
      let s := spoilHeld l j.kind n s
      let s := s.onDrawer j.window Drawer.countSpoilt
      let s := give (spoiltEntry j.kind n l (some j.window) .headFault) s
      let s := headFault l (retryOrEnd l (j.addSpoilt n) (leaveOut l j.buffer s))
      if j.state = .sent then raiseHolding l .markMissed s else s

/-- FLUSHED on a READY or PRINTING lane (R116). -/
def actFlushed (l : Lane) (count : Byte) (s : State) : State :=
  match (s.lane l).link.awaited with
  | none => protocol l s
  | some limit => if count.toNat ≤ limit then trySend l (clearFlush l s) else protocol l (clearFlush l s)

/-- OUT_OF_STOCK agrees with the magazine: it is EMPTY or exhausted and no job out is SENT (R115). -/
def stockAgrees (s : State) (l : Lane) : Bool := magSpent (s.mag l) && (sentJobs s l).isEmpty

/-- OUT_OF_STOCK compared with the magazine (R115). -/
def actOutOfStock (l : Lane) (s : State) : State :=
  if stockAgrees s l then s else raiseHolding l .stockMismatch s

/-- An accepted report on a READY or PRINTING lane (R111 to R116, R128). -/
def actWorking (l : Lane) (r : Report) (s : State) : State :=
  match r with
  | .accepted _ ref => if repairRef s l ref then s else actAccepted l ref s
  | .printed _ ref => if repairRef s l ref then s else actPrinted l ref s
  | .ejected _ ref => if repairRef s l ref then s else actEjected l ref s
  | .spoiled _ ref _ => if repairRef s l ref then s else actSpoiled l ref s
  | .flushed _ c => actFlushed l c s
  | .jammed _ => raiseHolding l .jam s
  | .outOfStock _ => actOutOfStock l s
  | .capacity .. => protocol l s
  | .nothing => s

/-- An accepted report on a HOLDING lane (R117). -/
def actHolding (l : Lane) (r : Report) (s : State) : State :=
  match r with
  | .flushed _ _ => clearFlush l s
  | .jammed _ => raiseHolding l .jam s
  | .outOfStock _ => actOutOfStock l s
  | .accepted .. => s
  | .printed .. => s
  | .ejected .. => s
  | .spoiled .. => s
  | .capacity .. => s
  | .nothing => s

/-- An accepted report acted on by the lane's state, with the stall it may begin or end (R111, R117, R90). -/
def act (l : Lane) (r : Report) (s : State) : State :=
  match (s.lane l).state with
  | .ready | .printing => withStall l (actWorking l r) s
  | .holding => actHolding l r s
  | _ => s

/-! ### The end of an exchange -/

/-- The lane's exchange, when it stands at the step. -/
def exchangeAt (s : State) (l : Lane) (x : XStep) : Option Exchange :=
  (s.lane l).link.exchange.filter fun e => decide (e.step = x)

/-- The step of the lane's exchange changed, with its timer. -/
def setStep (l : Lane) (x : XStep) (timer : Option Nat) (s : State) : State :=
  s.onLink l fun k => { k with exchange := k.exchange.map fun e => { e with step := x, timer := timer } }

/-- A failed greeting: a new GREET at the next poll time, or LINK_LOST at the third (R108). -/
def failGreeting (l : Lane) (s : State) : State :=
  let s := s.onLink l fun k => { k with exchange := none, fails := k.fails + 1 }
  if (s.lane l).link.fails < 3 then s.onLink l fun k => { k with poll := some s.office.settings.poll }
  else raiseDown l .linkLost s

/-- A failed exchange of a RUNNING engine: its frame is kept as the repeat frame, or LINK_LOST at the third (R102,
R106). -/
def failRunning (l : Lane) (x : Exchange) (s : State) : State :=
  let s := s.onLink l fun k =>
    { k with exchange := none, fails := k.fails + 1, repeatFrame := some x.carried, poll := some s.office.settings.poll }
  if (s.lane l).link.fails < 3 then s else raiseDown l .linkLost s

/-- An exchange that has failed: a timeout or a bad report (R106, R108); one that a FAULT CLEAR overtook is discarded and
the link start begins (R109). -/
def failExchange (l : Lane) (x : Exchange) (s : State) : State :=
  let k := (s.lane l).link
  if k.restartDue then linkStart l s
  else match k.phase with
    | .greeting => failGreeting l s
    | .running => failRunning l x s
    | _ => s

/-- A CAPACITY accepted in answer to a GREET (R77, R108, R119). -/
def acceptCapacity (l : Lane) (x : Exchange) (bit : Bool) (k : Nat) (s : State) : State :=
  let s := s.onLane l fun r =>
    { r with
      cap := some k, credits := k
      link := { r.link with phase := .running, ack := some bit, fails := 0 }
      feed := { r.feed with last := none, since := 0 } }
  let st : LaneState := if s.faults.recs[l].active.isNone && !doubtful s l then .ready else .holding
  let s := withStall l (fun s => s.onLane l fun r => { r with state := st }) s
  afterExchange l true x.carried.frame (give (.lane l st .capacity) s)

/-- A report that answers a GREET (R108). -/
def answerGreet (l : Lane) (x : Exchange) (r : Report) (s : State) : State :=
  match r with
  | .capacity q k w _ => if 64 ≤ w.toNat then acceptCapacity l x (decide (q = 1)) k.toNat s else failGreeting l s
  | _ => failGreeting l s

/-- The report is NOTHING, or a repeat of one already accepted (R107; log entry 14). -/
def actsOnNothing (ack : Option Bool) (r : Report) : Bool :=
  match r.seq with
  | none => true
  | some q => decide (ack = some (decide (q = 1)))

/-- A well-formed report received by a RUNNING engine (R105, R107, R116). One that is neither NOTHING nor a repeat and answers an
IMAGE or a FLUSH raises PROTOCOL and does not turn the acknowledgement bit (DESIGN CHOICE, log entry 43). -/
def answerRunning (l : Lane) (x : Exchange) (r : Report) (s : State) : State :=
  let s := delivered l x.carried.frame (s.onLink l fun k => { k with fails := 0 })
  if actsOnNothing (s.lane l).link.ack r then afterExchange l false x.carried.frame s
  else match x.carried.frame with
    | .poll _ =>
      let s := s.onLink l fun k => { k with ack := r.seq.map fun q => decide (q = 1) }
      afterExchange l true x.carried.frame (act l r s)
    | _ => afterExchange l false x.carried.frame (protocol l s)

/-- A well-formed report ends the exchange (R105, R108, R109). -/
def goodReport (l : Lane) (x : Exchange) (r : Report) (s : State) : State :=
  let k := (s.lane l).link
  if k.restartDue then linkStart l s
  else match k.phase with
    | .greeting => answerGreet l x r s
    | .running => answerRunning l x r s
    | _ => s

/-- A malformed report ends the exchange (R101, R108, R109). -/
def badForm (l : Lane) (x : Exchange) (s : State) : State :=
  let k := (s.lane l).link
  if k.restartDue then linkStart l s
  else match k.phase with
    | .greeting => failGreeting l s
    | .running =>
      let s := delivered l x.carried.frame (s.onLink l fun k => { k with fails := 0 })
      afterExchange l false x.carried.frame (protocol l s)
    | _ => s

/-- A report whose last bit has been read, on a lane that was reading one: judged by its form and then on its content
(R101, R105). On any other lane no report can end, and nothing happens (log entry 3). -/
def reportEnds (l : Lane) (r : Report) (pins : Pins) (bus : Option Nat) (s : State) : State :=
  match exchangeAt s l .reporting with
  | none => s
  | some x =>
    withBus bus (fun s =>
      let s := setPins l pins s
      if r.wellFormed then goodReport l x r s else badForm l x s) s

end Sys2Proof.Machine
end

