-- ==== Sys2Proof/Machine/Feed.lean ====
section
/-! DEFINITION. The Feed Monitor (07): steps, marks and their pitch, double and unexpected feeds, sequence repair, and
missed marks. -/

namespace Sys2Proof.Machine

/-! ### Steps and captures (R119, R120) -/

/-- The record after a STEP pulse (R119). -/
def FeedMonitor.pulse (f : FeedMonitor) : FeedMonitor :=
  { f with counter := f.counter + 1, since := if f.since < 65535 then f.since + 1 else f.since }

/-- The record after a MARK edge (R119, R120). -/
def FeedMonitor.capture (f : FeedMonitor) : FeedMonitor := { f with last := some f.counter, since := 0 }

/-- The last capture removed (R119). -/
def FeedMonitor.forget (f : FeedMonitor) : FeedMonitor := { f with last := none, since := 0 }

/-- The classes of a mark (R120, R122): unclassified without a predecessor. -/
inductive MarkClass where
  | unclassified | single | double | wrong
  deriving DecidableEq, Repr

/-- The class of a pitch under N and t (R122). -/
def pitchClass (n t p : Nat) : MarkClass :=
  if n ≤ p + t ∧ p ≤ n + t then .single
  else if 2 * n ≤ p + t ∧ p ≤ 2 * n + t then .double
  else .wrong

/-- The class of the mark at an edge, from the record before it (R120, R122). -/
def markClass (f : FeedMonitor) (n t : Nat) : MarkClass :=
  match f.last with
  | none => .unclassified
  | some c => if f.since = 65535 then .wrong else pitchClass n t (f.counter - c).toNat

/-- The missed-mark limit (R126). -/
def missedLimit (n : Nat) : Nat := 5 * n / 2

/-- The Feed Monitor of a lane counts pulses and takes edges (R118, R81). -/
def feedOn (s : State) (l : Lane) : Bool :=
  s.up && match (s.lane l).state with
    | .starting | .ready | .printing | .holding => true
    | _ => false

/-- The job that awaits its mark: the oldest SENT job of the out-list (R118). -/
def awaitingMark (s : State) (l : Lane) : Option Job := (s.lane l).out.find? fun j => decide (j.state = .sent)

/-- The kind record a mark is judged by: that of the magazine's kind, which is the kind of a SENT job (R121). -/
def markKind (s : State) (l : Lane) (j : Job) : KindRec :=
  s.stock.kinds[match s.mag l with
    | some m => m.kind
    | none => j.kind]

/-- Blanks fed raised (R94). -/
def countFed (l : Lane) (n : Nat) (s : State) : State :=
  s.onAct l fun a => { a with blanksFed := satAdd Config.max32 a.blanksFed n }

/-! ### Sequence repair (R127) -/

/-- A sequence repair; `also` is the reference of the job retried or ended at a double feed. -/
def sequenceRepair (l : Lane) (also : List Buffer) (s : State) : State :=
  let sent := sentJobs s l
  let s := requestFlush l (flushLimit sent) (recallSent l s)
  s.onLane l fun r => ({ r with repairRefs := r.repairRefs ++ also ++ sent.map Job.buffer } : LaneRec).rest

/-! ### Marks (R121 to R125) -/

/-- The job becomes FED (R122). -/
def feedJob (l : Lane) (j : Job) (s : State) : State := onOut l j.buffer (fun j => { j with state := .fed }) s

/-- The second blank of a double feed (R124, step 2): the serial spoilt, if any. A later SENT job that holds it loses
it; else it is spoilt at next. -/
def secondBlank (l : Lane) (j : Job) (n : Nat) (s : State) : State × List Nat :=
  match (s.lane l).out.find? fun q => decide (q.state = .sent ∧ q.buffer ≠ j.buffer ∧ q.serial = some (n + 1)) with
  | some q => (spoilHeld l j.kind (n + 1) (onOut l q.buffer (fun q => { q with serial := none }) s), [n + 1])
  | none =>
    match nextSerial (s.mag l) with
    | some (_, m) => (spoilNext l s, [m])
    | none => (s, [])

/-- A DOUBLE mark of the job `j`, which holds serial `n` (R124). -/
def doubleFeed (l : Lane) (j : Job) (n : Nat) (s : State) : State :=
  let r := secondBlank l j n (spoilHeld l j.kind n s)
  let lost := n :: r.2
  let s := lost.foldl (fun s _ => s.onDrawer j.window Drawer.countSpoilt) r.1
  let s := giveAll (lost.map fun m => spoiltEntry j.kind m l (some j.window) .doubleFeed) s
  let j' := { j with spoilt := j.spoilt ++ lost, serial := none }
  let s := retryOrEnd l j' (leaveOut l j.buffer s)
  raiseRecovered l .doubleFeed (sequenceRepair l [j.buffer] s)

/-- An unexpected feed on a READY or PRINTING lane (R125). -/
def unexpectedFeed (l : Lane) (s : State) : State :=
  let s := countFed l 1 s
  let s := match nextSerial (s.mag l) with
    | none => s
    | some (k, n) => give (spoiltEntry k n l none .unexpectedFeed) (spoilNext l s)
  raiseRecovered l .unexpectedFeed (sequenceRepair l [] s)

/-- The mark of the job that awaits it, by its class (R121, R122, R124). -/
def jobMark (l : Lane) (j : Job) (c : MarkClass) (s : State) : State :=
  match c with
  | .unclassified => countFed l 1 (feedJob l j s)
  | .single => countFed l 1 (feedJob l j s)
  | .wrong => raiseHolding l .pitchWrong (countFed l 1 (feedJob l j s))
  | .double => match j.serial with
    | some n => doubleFeed l j n (countFed l 2 s)
    | none => countFed l 1 (feedJob l j s)

/-- A rising MARK edge (R119 to R125). -/
def markEdge (l : Lane) (s : State) : State :=
  if feedOn s l then
    let f := (s.lane l).feed
    let a := s.onFeed l FeedMonitor.capture
    match (s.lane l).state with
    | .ready | .printing =>
      withStall l (fun a => match awaitingMark a l with
        | none => unexpectedFeed l a
        | some j => jobMark l j (markClass f (markKind a l j).pitch (markKind a l j).tol) a) a
    | _ => raiseRecovered l .unexpectedFeed (countFed l 1 a)
  else s

/-! ### Missed marks (R126) -/

/-- Steps since mark exceed the limit while a job of a READY or PRINTING lane awaits its mark (R126). -/
def markOverdue (s : State) (l : Lane) : Bool :=
  feedOn s l && decide ((s.lane l).state = .ready ∨ (s.lane l).state = .printing) &&
    match awaitingMark s l with
    | none => false
    | some j => decide (missedLimit (markKind s l j).pitch < (s.lane l).feed.since)

/-- The comparison of R126, made at each pulse. -/
def missedMarkTest (l : Lane) (s : State) : State := if markOverdue s l then raiseHolding l .markMissed s else s

/-- A STEP pulse (R119, R126). -/
def stepPulse (l : Lane) (s : State) : State :=
  if feedOn s l then missedMarkTest l (s.onFeed l FeedMonitor.pulse) else s

end Sys2Proof.Machine
end

