-- ==== Sys2Proof/Machine/FeedEvents.lean ====
section
/-! DEFINITION. The events of the Feed Monitor's lines (07): STEP, the missed-mark limit, and MARK. -/

namespace Sys2Proof.Machine

/-- A STEP pulse (R119, R126), under the levels of the lane's input lines as they then stand. -/
def execStep (l : Lane) (e : LineEvent) (s : State) : Host.Outcome State Fault Refusal :=
  .next (withBus e.bus (fun s => stepPulse l (setPins l e.pins s)) s)

/-- A STEP pulse that raises MARK_MISSED; a pulse that does not is no such event, and nothing happens (R126, R132; log
entry 22). -/
def execMissedMarkLimit (l : Lane) (e : LineEvent) (s : State) : Host.Outcome State Fault Refusal :=
  .next (if markOverdue (s.onFeed l FeedMonitor.pulse) l then
    withBus e.bus (fun s => stepPulse l (setPins l e.pins s)) s else s)

/-- A rising MARK edge (R121), under the levels of the lane's input lines as they then stand. -/
def execMark (l : Lane) (e : LineEvent) (s : State) : Host.Outcome State Fault Refusal :=
  .next (withBus e.bus (fun s => markEdge l (setPins l e.pins s)) s)

end Sys2Proof.Machine
end

