-- ==== Sys2Proof/Machine/IssueOrders.lean ====
section
/-! DEFINITION. The orders of the Issue Controller: SET LAYOUT (R62), ISSUE (R55 to R60), VOID (R72) and REFUND (R73). -/

namespace Sys2Proof.Machine

/-- The order kind codes of this family (03, Order kind codes). -/
def setLayoutRule : OrderRule := supervisorRule 5 true
def issueRule : OrderRule := windowRule 13 true
def voidRule : OrderRule := windowRule 14 false
def refundRule : OrderRule := windowRule 15 false

/-! ### SET LAYOUT -/

/-- A field's figures lie in range (R62). -/
def layoutRecOk (r : LayoutRec) : Bool :=
  decide (r.row ≤ 15 ∧ r.col ≤ 63 ∧ 1 ≤ r.width ∧ r.width ≤ 40 ∧ r.size ≤ 1 ∧ ¬ (r.size = 1 ∧ r.row = 15))

/-- The field that a record gives, when its source is one of R61. -/
def layoutFieldOf (r : LayoutRec) : Option LayoutField :=
  (fieldSource r.source).map fun src => ⟨r.row, r.col, r.width, decide (r.size = 1), src⟩

/-- The checks of SET LAYOUT beyond the attachment's length, in the order of R62. -/
def layoutRefusal (index : Nat) (rs : List LayoutRec) : Option OrderOutcome :=
  if 15 < index then some .outOfRange
  else if index = 0 then some .notPermitted
  else if ¬ (1 ≤ rs.length ∧ rs.length ≤ 24) then some .badForm
  else if rs.any fun r => (fieldSource r.source).isNone then some .badForm
  else if rs.any fun r => !layoutRecOk r then some .outOfRange
  else none

/-- One layout replaced whole (R62). -/
def writeLayout (index : Nat) (fs : List LayoutField) (i : IssueController) : IssueController :=
  match toIdx 16 index with
  | none => i
  | some k => if k.val = 0 then i else { i with layouts := i.layouts.upd k fun _ => fs }

/-- The Issue Controller's decision on SET LAYOUT (R62). -/
def setLayoutVerdict (index : Nat) (att : Option (List Byte)) : Verdict :=
  match att with
  | none => .refuse .badForm
  | some bs =>
    let n := (byteAt bs 0).toNat
    if bs.length < 1 + 5 * n then .refuse .badForm
    else
      let rs := layoutRecs n bs
      match layoutRefusal index rs with
      | some oc => .refuse oc
      | none => acceptDone (fun s => s.onIssue (writeLayout index (rs.filterMap layoutFieldOf))) (.layout index n)

/-- SET LAYOUT (R62). -/
def execSetLayout (o : OrderHdr) (index : Nat) (e : Env) (s : State) : Host.Outcome State Fault Refusal :=
  .next (takeOrder setLayoutRule o (.setLayout index) e (fun _ _ att _ => setLayoutVerdict index att) s)

/-! ### ISSUE: the checks (R55 to R59) -/

/-- The lane choice of an ISSUE (R57). -/
inductive LaneChoice where
  | lane (l : Lane)
  | home
  | alternate
  deriving DecidableEq, Repr

/-- The lane choice by its code (03, ISSUE order body). -/
def laneChoice (c : Nat) : Option LaneChoice :=
  if c = 16 then some .home else if c = 17 then some .alternate else (toIdx 8 c).map .lane

/-- The fields of an ISSUE that have passed the first pass of R56. -/
structure IssueFields where
  choice   : LaneChoice
  kind     : StockKind
  layout   : Fin 16
  discount : Fin 16
  adult    : Nat
  child    : Nat
  na       : Nat
  nc       : Nat
  tender   : Tender
  deriving DecidableEq, Repr

/-- The first pass of R56. -/
def issueFields (b : IssueBody) : Option IssueFields :=
  match laneChoice b.choice, toIdx 4 b.kind, toIdx 16 b.layout, toIdx 16 b.discount, Tender.ofCode b.tender with
  | some c, some k, some y, some d, some t =>
    if b.adult ≤ Config.maxBase ∧ b.child ≤ Config.maxBase ∧ b.na ≤ 9 ∧ b.nc ≤ 9 ∧ b.items ≤ 12 then
      some ⟨c, k, y, d, b.adult, b.child, b.na, b.nc, t⟩
    else none
  | _, _, _, _, _ => none

/-- Check 3: the lane that the choice resolves to (R57). -/
def resolveLane (d : Drawer) : LaneChoice → Option Lane
  | .lane l => some l
  | .home => some d.home
  | .alternate => d.alt

/-- Check 4: the lane state admits the order (R57). -/
def issuable (r : LaneRec) : Bool := decide (r.state = .ready ∨ r.state = .printing ∨ r.state = .holding)

/-- Check 5: the magazine is LOADED with the kind (R57). -/
def loadedKind (m : Option Loaded) (k : StockKind) : Bool := m.any fun g => decide (g.kind = k)

/-- The entry is of its window's current shift (R58, R148). -/
def ofCurrentShift (till : Table 12 Drawer) (e : IssueEntry) : Bool :=
  decide (till[e.window].state ≠ .none ∧ till[e.window].shift = e.shift)

/-- The table and the reservations fill the room (R58). -/
def tableFull (i : IssueController) : Bool := decide (Config.tableRoom ≤ i.table.length + i.reserved)

/-- Check 7: there is room, or an eviction candidate (R58). -/
def issueRoom (s : State) : Bool := !tableFull s.issue || s.issue.table.any fun e => !ofCurrentShift s.till e

/-- Check 6: the Fare Unit's figures (R29). -/
def issueFigures (s : State) (f : IssueFields) : Option Figures :=
  fare s.fare.discounts[f.discount] f.adult f.child f.na f.nc

/-! ### ISSUE: the acceptance (R60) -/

/-- The eviction candidate, the oldest entry that is of no current shift, removed from a full table; the reservation
count rises (R58, R60, R71). -/
def reserve (s : State) : State :=
  s.onIssue fun i =>
    { i with
      table := if tableFull i then i.table.eraseP fun e => !ofCurrentShift s.till e else i.table
      reserved := i.reserved + 1 }

/-- What is composed into the image of an ISSUE (R63). -/
def imageData (s : State) (w : Window) (f : IssueFields) (fig : Figures) (items : List Text) : ImageData :=
  ⟨items, fig, f.na, f.nc, s.stock.kinds[f.kind].name, w, s.office.day, s.office.clock⟩

/-- The job record of an ISSUE (R54), with the four values that the Fare Unit returns (R32); its join number is given when it
joins the lane. -/
def newJob (o : OrderHdr) (tag : Tag) (w : Window) (shift : Nat) (l : Lane) (f : IssueFields) (fig : Figures) (b : Buffer) : Job :=
  { slot := o.slot, window := w, tag := tag, shift := shift, lane := l, kind := f.kind, tender := f.tender,
    pAdult := fig.pAdult, pChild := fig.pChild, total := fig.total, discount := fig.name, retry := o.retry,
    movable := o.movable, buffer := b, serial := none, attempt := 1, spoilt := [], state := .queued, joinNo := 0,
    delivery := .carrying false }

/-- The changes of ISSUE (R60). -/
def applyIssue (o : OrderHdr) (tag : Tag) (w : Window) (l : Lane) (f : IssueFields) (fig : Figures) (items : List Text)
    (b : Buffer) (s : State) : State :=
  let s := reserve s
  let s := s.setImage b (some (compose (imageData s w f fig items) s.issue.layouts[f.layout]))
  joinLane l (newJob o tag w s.till[w].shift l f fig b) (s.onDrawer w Drawer.liveUp)

/-- Checks 3 to 8 (R55). -/
def issueLaneVerdict (o : OrderHdr) (tag : Tag) (w : Window) (f : IssueFields) (items : List Text) (s : State) : Verdict :=
  match resolveLane s.till[w] f.choice with
  | none => .refuse .laneUnavailable
  | some l =>
    if !issuable (s.lane l) then .refuse .laneUnavailable
    else if !loadedKind (s.mag l) f.kind then .refuse .wrongStock
    else match issueFigures s f with
      | none => .refuse .fareRange
      | some fig =>
        if !issueRoom s then .refuse .tableFull
        else match pickBuffer s l with
          | none => .wait
          | some b => .accept (applyIssue o tag w l f fig items b) none

/-- Check 2, second pass, and the checks after it (R56). -/
def issueFormVerdict (o : OrderHdr) (tag : Tag) (w : Window) (b : IssueBody) (att : Option (List Byte)) (f : IssueFields)
    (s : State) : Verdict :=
  if f.na + f.nc = 0 then .refuse .badForm
  else match textItems b.items (att.getD b.area) with
    | none => .refuse .badForm
    | some items => issueLaneVerdict o tag w f items s

/-- The Issue Controller's decision on ISSUE (R55). -/
def issueVerdict (o : OrderHdr) (tag : Tag) (b : IssueBody) (att : Option (List Byte)) (w : Window) (s : State) : Verdict :=
  match s.till[w].state with
  | .none => .refuse .noShift
  | .closing => .refuse .drawerClosing
  | .opened => match issueFields b with
    | none => .refuse .outOfRange
    | some f => issueFormVerdict o tag w b att f s

/-- ISSUE (R55). -/
def execIssue (o : OrderHdr) (b : IssueBody) (e : Env) (s : State) : Host.Outcome State Fault Refusal :=
  .next (takeOrder issueRule o (.issue b) e (fun src tag att s => forWindow src fun w => issueVerdict o tag b att w s) s)

/-! ### VOID and REFUND -/

/-- The Issue Table entry of a kind and serial (R69). -/
def entryOf (s : State) (k : StockKind) (n : Nat) : Option IssueEntry :=
  s.issue.table.find? fun e => decide (e.kind = k ∧ e.serial = n)

/-- The entry of a kind and serial in a new state (R69). -/
def setEntry (k : StockKind) (n : Nat) (st : EntryState) (s : State) : State :=
  s.onIssue fun i =>
    { i with table := i.table.map fun e => if e.kind = k ∧ e.serial = n then { e with state := st } else e }

/-- The changes of VOID (R72, R19, R151). -/
def applyVoid (w : Window) (e : IssueEntry) (s : State) : State :=
  let s := setEntry e.kind e.serial .voided s
  let s := s.onDrawer w fun d => (d.addVoid e.tender e.charged).countVoided
  give (.voided e.kind e.serial w e.charged) (s.onCounters e.kind Counters.void)

/-- The Issue Controller's decision on VOID of a ticket whose kind and serial lie in range (R72). -/
def voidEntryVerdict (w : Window) (k : StockKind) (n : Nat) (s : State) : Verdict :=
  match entryOf s k n with
  | none => .refuse .notFound
  | some e =>
    if e.state ≠ .issued then .refuse .notIssuedState
    else if e.window ≠ w ∨ e.shift ≠ s.till[w].shift then .refuse .notThisShift
    else acceptDone (applyVoid w e) (.void e.kind e.serial e.tender e.charged)

/-- The Issue Controller's decision on VOID (R72). -/
def voidVerdict (kind serial : Nat) (w : Window) (s : State) : Verdict :=
  match s.till[w].state with
  | .none => .refuse .noShift
  | .closing => .refuse .drawerClosing
  | .opened => match toIdx 4 kind with
    | none => .refuse .outOfRange
    | some k => if serial ≤ Config.maxSerial then voidEntryVerdict w k serial s else .refuse .outOfRange

/-- VOID (R72). -/
def execVoid (o : OrderHdr) (kind serial : Nat) (e : Env) (s : State) : Host.Outcome State Fault Refusal :=
  .next (takeOrder voidRule o (.void kind serial) e (fun src _ _ s => forWindow src fun w => voidVerdict kind serial w s) s)

/-- The changes of REFUND, with the amount of R34 (R73, R151). -/
def applyRefund (w : Window) (e : IssueEntry) (reason amount : Nat) (s : State) : State :=
  let s := setEntry e.kind e.serial (.refunded w amount) s
  give (.refunded e.kind e.serial w e.tender amount reason) (s.onDrawer w fun d => d.addRefund e.tender amount)

/-- The Issue Controller's decision on REFUND of a ticket whose fields lie in range (R73); the answer's fee is the fee of
the reason (log entry 34). -/
def refundEntryVerdict (w : Window) (k : StockKind) (n : Nat) (r : Fin 4) (s : State) : Verdict :=
  match entryOf s k n with
  | none => .refuse .notFound
  | some e =>
    if e.state ≠ .issued then .refuse .notIssuedState
    else
      let fee := s.fare.fees[r]
      let amount := refundAmount e.charged fee
      acceptDone (applyRefund w e r.val amount) (.refund e.kind e.serial e.tender e.charged fee amount)

/-- The Issue Controller's decision on REFUND (R73). -/
def refundVerdict (kind serial reason : Nat) (w : Window) (s : State) : Verdict :=
  match s.till[w].state with
  | .none => .refuse .noShift
  | .closing => .refuse .drawerClosing
  | .opened => match toIdx 4 kind, toIdx 4 reason with
    | some k, some r => if serial ≤ Config.maxSerial then refundEntryVerdict w k serial r s else .refuse .outOfRange
    | _, _ => .refuse .outOfRange

/-- REFUND (R73). -/
def execRefund (o : OrderHdr) (kind serial reason : Nat) (e : Env) (s : State) : Host.Outcome State Fault Refusal :=
  .next (takeOrder refundRule o (.refund kind serial reason) e (fun src _ _ s => forWindow src fun w => refundVerdict kind serial reason w s) s)

end Sys2Proof.Machine
end

