-- ==== Sys2Proof/Machine/LaneOrders.lean ====
section
/-! DEFINITION. The orders of the lanes: LANE START (R76), LANE PARK (R80) and FAULT CLEAR (R142 to R146). -/

namespace Sys2Proof.Machine

/-- The order kind codes of this family (03, Order kind codes). -/
def laneStartRule : OrderRule := supervisorRule 9 false
def laneParkRule : OrderRule := supervisorRule 10 false
def faultClearRule : OrderRule := supervisorRule 11 false

/-! ### LANE START -/

/-- The Lane Controller's decision on LANE START of a lane 0..7 (R76). -/
def startVerdict (l : Lane) (s : State) : Verdict :=
  match (s.lane l).state with
  | .starting => .refuse .busy
  | .ready => .refuse .notPermitted
  | .printing => .refuse .notPermitted
  | .holding => .refuse .notPermitted
  | .off => acceptDone (toStarting l .start) (.lane l .starting)
  | .parked _ => acceptDone (toStarting l .start) (.lane l .starting)

/-- The decision on LANE START (R76). -/
def laneStartVerdict (lane : Nat) (s : State) : Verdict :=
  match toIdx 8 lane with
  | none => .refuse .outOfRange
  | some l => startVerdict l s

/-- LANE START (R76). -/
def execLaneStart (o : OrderHdr) (lane : Nat) (e : Env) (s : State) : Host.Outcome State Fault Refusal :=
  .next (takeOrder laneStartRule o (.laneStart lane) e (fun _ _ _ => laneStartVerdict lane) s)

/-! ### LANE PARK -/

/-- The lane holds a QUEUED job, a job out or an In-Doubt List entry (R80). -/
def laneHolds (s : State) (l : Lane) : Bool :=
  !(s.lane l).queue.isEmpty || !(s.lane l).out.isEmpty || doubtful s l

/-- The reason of a lane already PARKED becomes SUPERVISOR (R80). -/
def setParkReason (l : Lane) (s : State) : State := s.onLane l fun r => { r with state := .parked .supervisor }

/-- The Lane Controller's decision on LANE PARK of a lane 0..7 (R80). -/
def parkVerdict (l : Lane) (s : State) : Verdict :=
  match (s.lane l).state with
  | .starting => .refuse .laneBusy
  | .printing => .refuse .laneBusy
  | .parked _ => acceptDone (setParkReason l) (.lane l (.parked .supervisor))
  | .off | .ready | .holding =>
    if laneHolds s l then .refuse .laneBusy
    else acceptDone (park l .supervisor .supervisor) (.lane l (.parked .supervisor))

/-- The decision on LANE PARK (R80). -/
def laneParkVerdict (lane : Nat) (s : State) : Verdict :=
  match toIdx 8 lane with
  | none => .refuse .outOfRange
  | some l => parkVerdict l s

/-- LANE PARK (R80). -/
def execLanePark (o : OrderHdr) (lane : Nat) (e : Env) (s : State) : Host.Outcome State Fault Refusal :=
  .next (takeOrder laneParkRule o (.lanePark lane) e (fun _ _ _ => laneParkVerdict lane) s)

/-! ### FAULT CLEAR: the declarations (R143) -/

/-- The In-Doubt List entry of the lane with a serial. -/
def doubtOf (s : State) (l : Lane) (n : Nat) : Option DoubtEntry :=
  s.stock.doubts.find? fun d => decide (d.lane = l ∧ d.serial = n)

/-- A declared entry leaves the In-Doubt List (R8). -/
def dropDoubt (d : DoubtEntry) (s : State) : State :=
  s.onStock fun r => { r with doubts := r.doubts.filter fun x => decide (x ≠ d) }

/-- The Issue Table entry of a sale declared ISSUED (R143). -/
def DoubtEntry.issued (d : DoubtEntry) : IssueEntry := ⟨d.kind, d.serial, d.window, d.shift, d.tender, d.charged, .issued⟩

/-- The effects of a declaration by its outcome (R143, R151). The posting is to the drawer of the entry's window as it stands; where
the entry was charged 0 and its shift has been cashed up since, that is a drawer in NONE or in a later shift (DESIGN CHOICE, log
entry 47). -/
def declareEffect (d : DoubtEntry) (oc : DeclOutcome) (s : State) : State :=
  match oc with
  | .issued =>
    ((s.onIssue fun i => i.insert d.issued).onCounters d.kind fun c => c.addIssued 1).onDrawer d.window fun w =>
      ((w.sale d.tender d.charged).countIssued).release d.charged
  | .spoilt =>
    ((s.onIssue IssueController.unreserve).onCounters d.kind fun c => c.addSpoilt 1).onDrawer d.window fun w =>
      (w.release d.charged).countSpoilt
  | .lost =>
    ((s.onIssue IssueController.unreserve).onCounters d.kind fun c => c.addLost 1).onDrawer d.window fun w =>
      (w.release d.charged).countLost

/-- One declaration of the lane, with its RESOLVED entry and the test of the cash-up condition (R143, R155). -/
def declareOne (l : Lane) (s : State) (n : Nat) (oc : DeclOutcome) : State :=
  match doubtOf s l n with
  | none => s
  | some d => testCashUp d.window (give (.resolved d.kind d.serial oc) (declareEffect d oc (dropDoubt d s)))

/-- The declarations in the order in which the order lists them (R143). -/
def declareAll (l : Lane) (ds : List Declaration) (s : State) : State :=
  ds.foldl (fun s d => match d.outcome with
    | none => s
    | some oc => declareOne l s d.serial oc) s

/-! ### FAULT CLEAR: realign and resume (R144, R145) -/

/-- The realign, with the capture removed (R144, R119; log entry 24). -/
def applyRealign (l : Lane) (r : Option Nat) (s : State) : State :=
  match r with
  | none => s
  | some n => (realign l n s).onFeed l FeedMonitor.forget

/-- Resume takes effect (R145). -/
def resumes (s : State) (l : Lane) (flag : Bool) : Bool :=
  flag && decide ((s.lane l).state = .holding) && !doubtful s l

/-- No fault record is ACTIVE. -/
def noActive (s : State) : Bool := s.faults.recs.toList.all fun r => r.active.isNone

/-- The effects of a resume (R145). -/
def applyResume (l : Lane) (s : State) : State :=
  let s := onRecord l (fun r => { r with active := none }) s
  let s := if noActive s then s.onAlerts fun a => { a with lane := false } else s
  toStarting l .cleared (give (.faultCleared l) s)

/-- The changes of FAULT CLEAR as one take, with the end or beginning of a stall (R142 to R145). -/
def applyFaultClear (l : Lane) (b : ClearBody) (s : State) : State :=
  withStall l (fun s =>
    let s := declareAll l b.decls s
    let go := resumes s l b.resume
    let s := applyRealign l b.realign s
    if go then applyResume l s else s) s

/-- The In-Doubt List entries of the lane. -/
def doubtsOf (s : State) (l : Lane) : List DoubtEntry := s.stock.doubts.filter fun d => decide (d.lane = l)

/-- The declarations name every In-Doubt List entry of the lane. -/
def declaresAll (s : State) (l : Lane) (ds : List Declaration) : Bool :=
  (doubtsOf s l).all fun d => ds.any fun x => decide (x.serial = d.serial)

/-- The fields of the answer after the order's effects (R146). -/
def clearAnswer (l : Lane) (resumed : Bool) (s : State) : AnswerFields :=
  .faultClear l (doubtsOf s l).length resumed s.faults.recs[l].active.isSome ((s.mag l).map Loaded.next)

/-! ### FAULT CLEAR: the checks (R142) -/

/-- Check 2 but for the lane: serials, outcomes and the realign serial lie in range. -/
def clearRanges (b : ClearBody) : Bool :=
  (b.decls.all fun d => decide (d.serial ≤ Config.maxSerial) && d.outcome.isSome) &&
    b.realign.all fun r => decide (r ≤ Config.maxSerial + 1)

/-- Checks 6 to 8, of a realign to `r`. Where check 6 names two outcomes, a realign without resume on a lane in READY or
PRINTING, BAD_FORM is given (R142; DESIGN CHOICE, log entry 41). -/
def realignRefusal (l : Lane) (b : ClearBody) (r : Nat) (s : State) : Option OrderOutcome :=
  if !b.resume then some .badForm
  else if (s.lane l).state = .ready ∨ (s.lane l).state = .printing then some .notPermitted
  else if !declaresAll s l b.decls then some .badForm
  else match s.mag l with
    | none => some .outOfRange
    | some m => if m.next ≤ r ∧ r ≤ m.last + 1 then none else some .outOfRange

/-- Checks 3 to 8, of a lane 0..7. -/
def clearRefusal (l : Lane) (b : ClearBody) (s : State) : Option OrderOutcome :=
  if (s.lane l).state = .starting then some .busy
  else if ¬ (b.decls.map Declaration.serial).Nodup then some .badForm
  else if b.decls.any fun d => (doubtOf s l d.serial).isNone then some .notFound
  else match b.realign with
    | none => none
    | some r => realignRefusal l b r s

/-- The Fault Table's decision on FAULT CLEAR of a lane 0..7 (R142). -/
def clearVerdict (l : Lane) (b : ClearBody) (s : State) : Verdict :=
  match clearRefusal l b s with
  | some oc => .refuse oc
  | none =>
    let resumed := resumes (declareAll l b.decls s) l b.resume
    .accept (applyFaultClear l b) (some fun s => (.done, clearAnswer l resumed s))

/-- The decision on FAULT CLEAR (R142). -/
def faultClearVerdict (b : ClearBody) (s : State) : Verdict :=
  if 4 < b.decls.length then .refuse .badForm
  else match toIdx 8 b.lane with
    | none => .refuse .outOfRange
    | some l => if clearRanges b then clearVerdict l b s else .refuse .outOfRange

/-- FAULT CLEAR (R142). -/
def execFaultClear (o : OrderHdr) (b : ClearBody) (e : Env) (s : State) : Host.Outcome State Fault Refusal :=
  .next (takeOrder faultClearRule o (.faultClear b) e (fun _ _ _ => faultClearVerdict b) s)

end Sys2Proof.Machine
end

