-- ==== Sys2Proof/Machine/LinkEvents.lean ====
section
/-! DEFINITION. The events of the Lane Link (06): the poll timer, the busy line, the clear pulses, the frame, the response
timer, and the printer's reports; and the patience timer of the Lane Controller (R92). -/

namespace Sys2Proof.Machine

/-! ### The poll timer (R102, R106, R108) -/

/-- The repeat frame of a RUNNING engine carried again: a POLL with the current bit, an IMAGE or FLUSH as it was; an IMAGE
whose job is no longer out is dropped and an ordinary POLL is carried (R102, R106). -/
def carryAgain (l : Lane) (c : Carried) (s : State) : State :=
  match c.frame with
  | .image b _ => if (findOut s l b).isSome then beginCarried l c s else beginPoll l s
  | .flush => beginCarried l c s
  | .poll _ => beginPoll l s
  | .greet => beginPoll l s

/-- The exchange that the expiry of a running poll timer begins (R102, R108). -/
def pollExpires (l : Lane) (s : State) : State :=
  let k := (s.lane l).link
  let s := s.onLink l fun k => { k with poll := none, repeatFrame := none }
  match k.phase with
  | .greeting => beginExchange l .greet s
  | .running => match k.repeatFrame with
    | none => beginPoll l s
    | some c => carryAgain l c s
  | _ => s

/-- The poll timer of a lane expires; one that is not running cannot (R102, R108; log entry 3). -/
def pollTimer (l : Lane) (pins : Pins) (s : State) : State :=
  if (s.lane l).link.poll.isSome then pollExpires l (setPins l pins s) else s

/-- The poll timer of the lane expires (R102, R108). -/
def execPollTimerExpiry (l : Lane) (pins : Pins) (s : State) : Host.Outcome State Fault Refusal := .next (pollTimer l pins s)

/-! ### The busy wait and the clear pulses (R103, R104) -/

/-- LBY is released: a busy wait goes on to the stuck-line check (R103). -/
def busyReleased (l : Lane) (ldiLow : Bool) (s : State) : State :=
  let s := setPins l ⟨false, ldiLow⟩ s
  match exchangeAt s l .busyWait with
  | none => s
  | some _ => setStep l (if ldiLow then .clearing else .sending) none s

/-- LBY of the lane is released (R103). -/
def execLbyRelease (l : Lane) (ldiLow : Bool) (s : State) : Host.Outcome State Fault Refusal := .next (busyReleased l ldiLow s)

/-- A fault that abandons the exchange standing at a step and brings the link DOWN (R103, R104; log entry 35). -/
def abandonAt (l : Lane) (x : XStep) (k : FaultKind) (s : State) : State :=
  match exchangeAt s l x with
  | none => s
  | some _ => raiseDown l k s

/-- The stretch timer expires with LBY still asserted (R103). -/
def execStretchLimit (l : Lane) (bus : Option Nat) (s : State) : Host.Outcome State Fault Refusal :=
  .next (withBus bus (abandonAt l .busyWait .stretchLimit) s)

/-- LDI was not idle before the tenth clear pulse (R104). -/
def execClearPulseLimit (l : Lane) (bus : Option Nat) (s : State) : Host.Outcome State Fault Refusal :=
  .next (withBus bus (abandonAt l .clearing .linkStuck) s)

/-- LDI is first idle after a clear pulse: after 1..9 the fault is recovered and the frame is sent; after 10 it holds the
lane (R104). -/
def idleAfter (l : Lane) (pulse : Nat) (s : State) : State :=
  match exchangeAt s l .clearing with
  | none => s
  | some _ =>
    let s := s.onLane l fun r => { r with pins := { r.pins with ldiLow := false } }
    if 1 ≤ pulse ∧ pulse ≤ 9 then raiseRecovered l .linkStuck (setStep l .sending none s)
    else if pulse = 10 then raiseDown l .linkStuck s
    else s

/-- LDI sampled idle after a clear pulse (R104). -/
def execLdiIdleAfterPulse (l : Lane) (pulse : Nat) (bus : Option Nat) (s : State) : Host.Outcome State Fault Refusal :=
  .next (withBus bus (idleAfter l pulse) s)

/-! ### The frame and the response (R105) -/

/-- The part's frame has been sent: the response timer starts (R105). -/
def frameEnds (l : Lane) (s : State) : State :=
  match exchangeAt s l .sending with
  | none => s
  | some _ => setStep l .awaiting (some s.office.settings.response) s

/-- The last check bit of the frame has been sent (R105). -/
def execFrameSent (l : Lane) (s : State) : Host.Outcome State Fault Refusal := .next (frameEnds l s)

/-- A report begins: the response timer stops (R105). -/
def reportBegins (l : Lane) (s : State) : State :=
  match exchangeAt s l .awaiting with
  | none => s
  | some _ => setStep l .reporting none s

/-- The first low bit on LDI after the frame (R105). -/
def execReportStart (l : Lane) (s : State) : Host.Outcome State Fault Refusal := .next (reportBegins l s)

/-- An exchange at a step fails (R106, R108, R109). -/
def failsAt (l : Lane) (x : XStep) (pins : Pins) (s : State) : State :=
  match exchangeAt s l x with
  | none => s
  | some e => failExchange l e (setPins l pins s)

/-- The response timer expires (R105, R106, R108). -/
def execResponseTimeout (l : Lane) (pins : Pins) (bus : Option Nat) (s : State) : Host.Outcome State Fault Refusal :=
  .next (withBus bus (failsAt l .awaiting pins) s)

/-- A bad report was read (R99, R105, R106, R108). -/
def execReportBad (l : Lane) (pins : Pins) (bus : Option Nat) (s : State) : Host.Outcome State Fault Refusal :=
  .next (withBus bus (failsAt l .reporting pins) s)

/-- A malformed report ends the exchange (R101). -/
def malformedEnds (l : Lane) (pins : Pins) (s : State) : State :=
  match exchangeAt s l .reporting with
  | none => s
  | some e => badForm l e (setPins l pins s)

/-- A malformed report (R101). -/
def execMalformedReport (l : Lane) (pins : Pins) (bus : Option Nat) (s : State) : Host.Outcome State Fault Refusal :=
  .next (withBus bus (malformedEnds l pins) s)

/-! ### The reports (R101, R105, R108, R111 to R117) -/

/-- CAPACITY (R108, R116). -/
def execCapacity (l : Lane) (seq k width : Byte) (identity : Text) (pins : Pins) (bus : Option Nat) (s : State) :
    Host.Outcome State Fault Refusal := .next (reportEnds l (.capacity seq k width identity) pins bus s)

/-- NOTHING (R116). -/
def execNothing (l : Lane) (pins : Pins) (bus : Option Nat) (s : State) : Host.Outcome State Fault Refusal :=
  .next (reportEnds l .nothing pins bus s)

/-- ACCEPTED (R112). -/
def execAccepted (l : Lane) (seq ref : Byte) (pins : Pins) (bus : Option Nat) (s : State) :
    Host.Outcome State Fault Refusal := .next (reportEnds l (.accepted seq ref) pins bus s)

/-- PRINTED (R112). -/
def execPrinted (l : Lane) (seq ref : Byte) (pins : Pins) (bus : Option Nat) (s : State) :
    Host.Outcome State Fault Refusal := .next (reportEnds l (.printed seq ref) pins bus s)

/-- EJECTED (R113). -/
def execEjected (l : Lane) (seq ref : Byte) (pins : Pins) (bus : Option Nat) (s : State) :
    Host.Outcome State Fault Refusal := .next (reportEnds l (.ejected seq ref) pins bus s)

/-- SPOILED (R114). -/
def execSpoiled (l : Lane) (seq ref cause : Byte) (pins : Pins) (bus : Option Nat) (s : State) :
    Host.Outcome State Fault Refusal := .next (reportEnds l (.spoiled seq ref cause) pins bus s)

/-- FLUSHED (R116). -/
def execFlushed (l : Lane) (seq count : Byte) (pins : Pins) (bus : Option Nat) (s : State) :
    Host.Outcome State Fault Refusal := .next (reportEnds l (.flushed seq count) pins bus s)

/-- JAMMED (R115). -/
def execJammed (l : Lane) (seq : Byte) (pins : Pins) (bus : Option Nat) (s : State) : Host.Outcome State Fault Refusal :=
  .next (reportEnds l (.jammed seq) pins bus s)

/-- OUT_OF_STOCK (R115). -/
def execOutOfStock (l : Lane) (seq : Byte) (pins : Pins) (bus : Option Nat) (s : State) :
    Host.Outcome State Fault Refusal := .next (reportEnds l (.outOfStock seq) pins bus s)

/-! ### Hold patience (R91, R92) -/

/-- The alternate lane that a job may be moved to, as its window's drawer and that lane stand (R92). -/
def moveTarget (s : State) (l : Lane) (j : Job) : Option Lane :=
  s.till[j.window].alt.filter fun a =>
    j.movable && decide (a ≠ l) && decide ((s.lane a).state = .ready ∨ (s.lane a).state = .printing) &&
      (s.mag a).any fun m => decide (m.kind = j.kind ∧ m.next ≤ m.last)

/-- The buffer that a job has at the alternate lane: a shared one is kept, a reserved one exchanged (R92). -/
def moveBuffer (s : State) (a : Lane) (j : Job) : Option Buffer :=
  if Buffer.shared j.buffer then some j.buffer else pickBuffer s a

/-- A job's image copied whole into its new buffer, and its old buffer freed (R92). -/
def rehome (j : Job) (b : Buffer) (s : State) : State :=
  if b = j.buffer then s else (s.setImage b s.images[j.buffer]).setImage j.buffer none

/-- A QUEUED job considered at the expiry: moved to the back of the alternate lane's queue, or left (R92). -/
def considerJob (l : Lane) (s : State) (j : Job) : State :=
  match moveTarget s l j with
  | none => s
  | some a => match moveBuffer s a j with
    | none => s
    | some b =>
      let s := rehome j b s
      let s := s.onLane l fun r => { r with queue := r.queue.filter fun q => decide (q.buffer ≠ j.buffer) }
      joinLane a { j with buffer := b } s

/-- The patience timer of a lane expires: the moves, and a full period again while the lane is stalled (R91, R92): the hold
patience as it then stands, and no timer where that is 0 (DESIGN CHOICE, log entry 40). A timer that is not running cannot
expire (log entry 3). -/
def patienceEnds (l : Lane) (s : State) : State :=
  if (s.lane l).patience.isSome then
    let s := (s.lane l).queue.foldl (considerJob l) (s.onLane l fun r => { r with patience := none })
    if stalled s l then s.onLane l fun r => { r with patience := patienceTimer s } else s
  else s

/-- The patience timer of the lane expires, under the levels of the lanes' input lines as they then stand (R92, R103). -/
def execPatienceExpiry (x : Expiry) (s : State) : Host.Outcome State Fault Refusal :=
  .next (patienceEnds x.lane (setLines x.lines s))

end Sys2Proof.Machine
end

