-- ==== Sys2Proof/Machine/OfficeEvents.lean ====
section
/-! DEFINITION. The events of Office Control: the four resets, backup-good and the end of the start-up period (R173), and
the ticks of the Office Clock (R170) and of the queue occupancy (R94). -/

namespace Sys2Proof.Machine

/-- POWER_ON (R173). -/
def execPowerOn (s : State) : Host.Outcome State Fault Refusal := .next (doReset .powerOn s)

/-- RESET_LINE (R173). -/
def execResetLine (s : State) : Host.Outcome State Fault Refusal := .next (doReset .resetLine s)

/-- SOFT_RESET written as 1 (R173). -/
def execSoftReset (s : State) : Host.Outcome State Fault Refusal := .next (doReset .soft s)

/-- LINK_RESET (R173). -/
def execLinkReset (s : State) : Host.Outcome State Fault Refusal := .next (doReset .linkReset s)

/-- The backup-good input changes (R173). -/
def execBackupGoodChange (good : Bool) (s : State) : Host.Outcome State Fault Refusal :=
  .next (s.onOffice fun o => o.backup good)

/-- The start-up period ends (R173, R175, R176). -/
def execStartUpEnd (s : State) : Host.Outcome State Fault Refusal := .next (endStartUp s)

/-- The Office Clock counts; time spent in the start-up period is not counted (R170). -/
def OfficeControl.tick (o : OfficeControl) : OfficeControl :=
  if o.startUp.isNone then { o with clock := o.clock + 1 } else o

/-- A tenth of a second passes (R170). -/
def execOfficeClockTick (s : State) : Host.Outcome State Fault Refusal := .next (s.onOffice OfficeControl.tick)

/-- The queue occupancy of a lane rises by its queue length (R94). -/
def sampleLane (l : Lane) (s : State) : State :=
  s.onAct l fun a => { a with occupancy := satAdd Config.max32 a.occupancy (s.lane l).queue.length }

/-- Ten milliseconds pass (R94). -/
def execQueueOccupancySample (s : State) : Host.Outcome State Fault Refusal := .next (forLanes sampleLane s)

end Sys2Proof.Machine
end

