-- ==== Sys2Proof/Machine/OfficeOrders.lean ====
section
/-! DEFINITION. The orders of Office Control: OFFICE OPEN (R171) and DAY CLOSE (R172). -/

namespace Sys2Proof.Machine

/-- The order kind codes of this family (03, Order kind codes). -/
def officeOpenRule : OrderRule := ⟨1, false, false, true, supervisor⟩
def dayCloseRule : OrderRule := supervisorRule 2 false

/-! ### OFFICE OPEN -/

/-- A kind setting lies within the ranges of R1. -/
def kindSettingOk (k : KindRec) : Bool :=
  decide (k.name.length = 12 ∧ 100 ≤ k.pitch ∧ k.pitch ≤ 4000 ∧ 1 ≤ k.tol ∧ k.tol ≤ k.pitch / 4)

/-- A value clamped to a range (R171). -/
def clamp (lo hi v : Nat) : Nat := max lo (min hi v)

/-- The settings as clamped (R171). -/
def appliedSettings (b : OpenBody) (rate : LinkRate) : Settings :=
  ⟨b.tolerance, clamp 0 60 b.patience, rate, clamp 1 20 b.poll, clamp 5 100 b.response, clamp 10 1000 b.stretch⟩

/-- Step 4: a lane PARKED with reason DAY moves to STARTING (R82). -/
def startDayLane (l : Lane) (s : State) : State :=
  if (s.lane l).state = .parked .day then toStarting l .opened s else s

/-- The changes of OFFICE OPEN, steps 1 to 4 of R171. -/
def applyOfficeOpen (b : OpenBody) (rate : LinkRate) (s : State) : State :=
  let s := (s.onOffice fun o =>
    { o with day := b.day, settings := appliedSettings b rate, clock := 0, opened := true }).onStock fun r => { r with kinds := b.kinds }
  forLanes startDayLane (give (.officeOpen b.day) s)

/-- The range check of OFFICE OPEN but for the rate code (R171). -/
def openBodyOk (b : OpenBody) : Bool :=
  decide (1 ≤ b.day ∧ b.day ≤ 65535 ∧ b.tolerance ≤ Config.maxFee) && b.kinds.toList.all kindSettingOk

/-- Office Control's decision on OFFICE OPEN, by the check table of R171: in an office that is OPEN it is NOT_PERMITTED. The
rule's last sentence says the reverse of a repeated order (DESIGN CHOICE, log entry 42). -/
def officeOpenVerdict (b : OpenBody) (s : State) : Verdict :=
  if s.office.opened then .refuse .notPermitted
  else match b.rate with
    | none => .refuse .outOfRange
    | some rate =>
      if openBodyOk b then
        let t := appliedSettings b rate
        acceptDone (applyOfficeOpen b rate) (.officeOpen b.day t.patience t.poll t.response t.stretch)
      else .refuse .outOfRange

/-- OFFICE OPEN (R171). -/
def execOfficeOpen (o : OrderHdr) (b : OpenBody) (e : Env) (s : State) : Host.Outcome State Fault Refusal :=
  .next (takeOrder officeOpenRule o (.officeOpen b) e (fun _ _ _ => officeOpenVerdict b) s)

/-! ### DAY CLOSE -/

/-- A drawer is OPEN or CLOSING. -/
def anyDrawer (s : State) : Bool := s.till.toList.any fun d => decide (d.state ≠ .none)

/-- A job exists on some lane. -/
def anyJob (s : State) : Bool := s.lanes.toList.any fun r => !r.queue.isEmpty || !r.out.isEmpty

/-- Step 3: a lane in READY or HOLDING is parked with reason DAY (R82). -/
def parkDayLane (l : Lane) (s : State) : State :=
  match (s.lane l).state with
  | .ready | .holding => park l .day .day s
  | _ => s

/-- The changes of DAY CLOSE, with the office CLOSED and every expected tag 0 (R172). -/
def applyDayClose (s : State) : State :=
  let s := s.onIssue fun i => { i with table := [] }
  let s := { s with lanes := s.lanes.map fun r => { r with act := Activity.zero } }
  let s := give (.dayClose s.office.day) (forLanes parkDayLane s)
  (s.onOffice fun o => { o with opened := false }).onExch fun x => { x with tags := Vector.replicate 13 0 }

/-- Office Control's decision on DAY CLOSE (R172). -/
def dayCloseVerdict (s : State) : Verdict :=
  if anyDrawer s || anyJob s || !s.stock.doubts.isEmpty then .refuse .notPermitted
  else acceptDone applyDayClose (.dayClose s.office.day)

/-- DAY CLOSE (R172). -/
def execDayClose (o : OrderHdr) (e : Env) (s : State) : Host.Outcome State Fault Refusal :=
  .next (takeOrder dayCloseRule o .dayClose e (fun _ _ _ => dayCloseVerdict) s)

end Sys2Proof.Machine
end

