-- ==== Sys2Proof/Machine/StockOrders.lean ====
section
/-! DEFINITION. The orders of the Stock Register: STOCK RECEIVE (R9, R10), MAGAZINE LOAD (R11, R12) and MAGAZINE UNLOAD
(R13). -/

namespace Sys2Proof.Machine

/-- The order kind codes of this family (03, Order kind codes). -/
def stockReceiveRule : OrderRule := supervisorRule 6 false
def magazineLoadRule : OrderRule := supervisorRule 7 false
def magazineUnloadRule : OrderRule := supervisorRule 8 false

/-- A count of 1..100,000 whose last serial has at most eight digits (R9, R11). -/
def rangeOk (first count : Nat) : Bool :=
  decide (1 ≤ count ∧ count ≤ Config.maxRange ∧ first + count - 1 ≤ Config.maxSerial)

/-! ### STOCK RECEIVE -/

/-- The run of the kind that holds the range. -/
def runHolding (k : StockKind) (f c : Nat) (rs : List Run) : Option Run := rs.find? fun r => r.holds k f c

/-- The changes of STOCK RECEIVE, with the runs as merged (R10). -/
def applyReceive (k : StockKind) (f c : Nat) (rs : List Run) (s : State) : State :=
  give (.stock .received k f c none)
    ((s.onStock fun r => { r with runs := rs }).onCounters k fun n => n.addReceived c)

/-- The Stock Register's decision on a STOCK RECEIVE whose fields lie in range (R9, R10). -/
def receiveVerdict (k : StockKind) (f c : Nat) (s : State) : Verdict :=
  if overlaps s k f c then .refuse .overlap
  else if Config.max32 < s.stock.counters[k].received + c then .refuse .countLimit
  else match mergeRun k f c s.stock.runs with
    | none => .refuse .runTableFull
    | some rs =>
      let r := (runHolding k f c rs).getD ⟨k, f, c⟩
      acceptDone (applyReceive k f c rs) (.stock k r.first r.count)

/-- The Stock Register's decision on STOCK RECEIVE (R9, R10). -/
def stockReceiveVerdict (kind first count : Nat) (s : State) : Verdict :=
  match toIdx 4 kind with
  | none => .refuse .outOfRange
  | some k => if rangeOk first count then receiveVerdict k first count s else .refuse .outOfRange

/-- STOCK RECEIVE (R9). -/
def execStockReceive (o : OrderHdr) (kind first count : Nat) (e : Env) (s : State) : Host.Outcome State Fault Refusal :=
  .next (takeOrder stockReceiveRule o (.stockReceive kind first count) e (fun _ _ _ => stockReceiveVerdict kind first count) s)

/-! ### MAGAZINE LOAD -/

/-- The lane may be loaded: OFF, PARKED, or READY with no job out (R11). -/
def loadable (r : LaneRec) : Bool :=
  match r.state with
  | .off => true
  | .parked _ => true
  | .ready => r.out.isEmpty
  | _ => false

/-- The magazine that a load gives (R12). -/
def loadedWith (k : StockKind) (f c : Nat) : Loaded := ⟨k, f, f, f + c - 1⟩

/-- The changes of MAGAZINE LOAD; a stall for want of stock ends, and the front job is sent when it can be (R12). -/
def applyLoad (l : Lane) (k : StockKind) (f c : Nat) (s : State) : State :=
  trySend l (withStall l (fun s =>
    give (.stock .loaded k f c (some l))
      ((s.onStock fun r => { r with runs := takeRange k f c r.runs }).setMag l (some (loadedWith k f c)))) s)

/-- The Stock Register's decision on a MAGAZINE LOAD whose fields lie in range (R11). -/
def loadVerdict (l : Lane) (k : StockKind) (f c : Nat) (s : State) : Verdict :=
  if !loadable (s.lane l) then .refuse .laneBusy
  else if (s.mag l).isSome then .refuse .magazineLoaded
  else if (s.lane l).queue.any fun j => decide (j.kind ≠ k) then .refuse .wrongStock
  else match runHolding k f c s.stock.runs with
    | none => .refuse .notInStock
    | some r =>
      if r.splits f c ∧ Config.maxRuns ≤ s.stock.runs.length then .refuse .runTableFull
      else acceptDone (applyLoad l k f c) (.magazine (loadedWith k f c))

/-- The Stock Register's decision on MAGAZINE LOAD (R11). -/
def magazineLoadVerdict (lane kind first count : Nat) (s : State) : Verdict :=
  match toIdx 8 lane, toIdx 4 kind with
  | some l, some k => if rangeOk first count then loadVerdict l k first count s else .refuse .outOfRange
  | _, _ => .refuse .outOfRange

/-- MAGAZINE LOAD (R11). -/
def execMagazineLoad (o : OrderHdr) (lane kind first count : Nat) (e : Env) (s : State) : Host.Outcome State Fault Refusal :=
  .next (takeOrder magazineLoadRule o (.magazineLoad lane kind first count) e (fun _ _ _ => magazineLoadVerdict lane kind first count) s)

/-! ### MAGAZINE UNLOAD -/

/-- The runs after the unconsumed range has been returned; an exhausted magazine returns nothing (R13). -/
def returnedRuns (m : Loaded) (rs : List Run) : Option (List Run) :=
  if m.remaining = 0 then some rs else mergeRun m.kind m.next m.remaining rs

/-- The changes of MAGAZINE UNLOAD, with the runs as merged; a stall for want of stock may begin (R13, R90). -/
def applyUnload (l : Lane) (m : Loaded) (rs : List Run) (s : State) : State :=
  withStall l (fun s =>
    give (.stock .unloaded m.kind m.next m.remaining (some l)) ((s.onStock fun r => { r with runs := rs }).setMag l none)) s

/-- The Stock Register's decision on MAGAZINE UNLOAD of a lane 0..7 (R13). -/
def unloadVerdict (l : Lane) (s : State) : Verdict :=
  if !(s.lane l).out.isEmpty || doubtful s l then .refuse .laneBusy
  else match s.mag l with
    | none => .refuse .notPermitted
    | some m => match returnedRuns m s.stock.runs with
      | none => .refuse .runTableFull
      | some rs => acceptDone (applyUnload l m rs) (.unloaded m.next m.remaining)

/-- The Stock Register's decision on MAGAZINE UNLOAD (R13). -/
def magazineUnloadVerdict (lane : Nat) (s : State) : Verdict :=
  match toIdx 8 lane with
  | none => .refuse .outOfRange
  | some l => unloadVerdict l s

/-- MAGAZINE UNLOAD (R13). -/
def execMagazineUnload (o : OrderHdr) (lane : Nat) (e : Env) (s : State) : Host.Outcome State Fault Refusal :=
  .next (takeOrder magazineUnloadRule o (.magazineUnload lane) e (fun _ _ _ => magazineUnloadVerdict lane) s)

end Sys2Proof.Machine
end

