-- ==== Sys2Proof/Machine/TillOrders.lean ====
section
/-! DEFINITION. The orders of the Till Unit: SHIFT OPEN (R149), CASH-UP (R154, R158) and CASH-UP WITHDRAW (R159). -/

namespace Sys2Proof.Machine

/-- The order kind codes of this family (03, Order kind codes). -/
def shiftOpenRule : OrderRule := windowRule 12 false
def cashUpRule : OrderRule := windowRule 16 false
def cashUpWithdrawRule : OrderRule := ⟨17, false, true, false, fun _ => true⟩

/-! ### SHIFT OPEN -/

/-- The next shift number: 65,535 and 0 are followed by 1 (R149). -/
def nextShift (n : Nat) : Nat := if n = 65535 then 1 else n + 1

/-- A lane, or NONE, in range; none when it is not. -/
def altLane : Option Nat → Option (Option Lane)
  | none => some none
  | some n => (toIdx 8 n).map some

/-- The drawer that a SHIFT OPEN leaves (R149). -/
def Drawer.openShift (d : Drawer) (clerk float : Nat) (home : Lane) (alt : Option Lane) (time : BitVec 32) : Drawer :=
  { d with
    state := .opened, clerk := clerk, shift := nextShift d.shift, float := float, home := home, alt := alt, openedAt := time
    acc := ByTender.all ⟨0, 0, 0⟩, counts := ⟨0, 0, 0, 0⟩, saturated := false }

/-- The changes of SHIFT OPEN (R149). -/
def applyShiftOpen (w : Window) (clerk float : Nat) (home : Lane) (alt : Option Lane) (s : State) : State :=
  let shift := nextShift s.till[w].shift
  give (.shiftOpen w clerk shift float) (s.onDrawer w fun d => d.openShift clerk float home alt s.office.clock)

/-- The Till Unit's decision on SHIFT OPEN (R149). -/
def shiftOpenVerdict (clerk float home : Nat) (alt : Option Nat) (w : Window) (s : State) : Verdict :=
  if s.till[w].state ≠ .none then .refuse .shiftOpen
  else match toIdx 8 home, altLane alt with
    | some h, some a =>
      if 65535 < clerk ∨ Config.maxTotal < float then .refuse .outOfRange
      else if a = some h then .refuse .badForm
      else acceptDone (applyShiftOpen w clerk float h a) (.shiftOpen (nextShift s.till[w].shift) s.office.clock)
    | _, _ => .refuse .outOfRange

/-- SHIFT OPEN (R149). -/
def execShiftOpen (o : OrderHdr) (clerk float home : Nat) (alt : Option Nat) (e : Env) (s : State) :
    Host.Outcome State Fault Refusal :=
  .next (takeOrder shiftOpenRule o (.shiftOpen clerk float home alt) e (fun src _ _ s => forWindow src fun w => shiftOpenVerdict clerk float home alt w s) s)

/-! ### CASH-UP -/

/-- The drawer CLOSING with its pending cash-up (R154). -/
def Drawer.beginCashUp (d : Drawer) (p : PendingCashUp) : Drawer := { d with state := .closing, cashUp := some p }

/-- The changes of CASH-UP: CLOSING, and on to NONE with the CASHUP entry when the condition holds at the take (R154,
R155, R158). -/
def applyCashUp (w : Window) (p : PendingCashUp) (s : State) : State :=
  let s := s.onDrawer w fun d => d.beginCashUp p
  let d := s.till[w]
  if d.settled then (give (cashUpEntry w d s.office.settings.tolerance p.declared) s).onDrawer w Drawer.close else s

/-- The answer of a CASH-UP that completes at its take; one that does not is answered later (R154, R158). -/
def cashUpReply (w : Window) (p : PendingCashUp) (s : State) : Option (State → OrderOutcome × AnswerFields) :=
  let d := s.till[w].beginCashUp p
  if d.settled then some fun _ => (.cashedUp, cashUpFields d s.office.settings.tolerance p.declared) else none

/-- The declared amounts lie in range (R154). -/
def declaredOk (v : ByTender Nat) : Bool :=
  decide (v.cash ≤ Config.maxAccumulator ∧ v.card ≤ Config.maxAccumulator ∧ v.warrant ≤ Config.maxAccumulator ∧
    v.voucher ≤ Config.maxAccumulator)

/-- The Till Unit's decision on CASH-UP (R154). -/
def cashUpVerdict (p : PendingCashUp) (w : Window) (s : State) : Verdict :=
  match s.till[w].state with
  | .none => .refuse .noShift
  | .closing => .refuse .busy
  | .opened => if declaredOk p.declared then .accept (applyCashUp w p) (cashUpReply w p s) else .refuse .outOfRange

/-- CASH-UP (R154). -/
def execCashUp (o : OrderHdr) (declared : ByTender Nat) (e : Env) (s : State) : Host.Outcome State Fault Refusal :=
  .next (takeOrder cashUpRule o (.cashUp declared) e
    (fun src tag _ s => forWindow src fun w => cashUpVerdict ⟨o.slot, tag, declared⟩ w s) s)

/-! ### CASH-UP WITHDRAW -/

/-- The drawer OPEN again (R159). -/
def Drawer.withdraw (d : Drawer) : Drawer := { d with state := .opened, cashUp := none }

/-- The pending cash-up answered WITHDRAWN and removed (R159). -/
def applyWithdraw (w : Window) (s : State) : State :=
  let d := s.till[w]
  let s := match d.cashUp with
    | none => s
    | some p => answer p.slot kindCashUp p.tag .withdrawn (.withdrawn d.shift) s
  s.onDrawer w Drawer.withdraw

/-- The Till Unit's decision on CASH-UP WITHDRAW of a window's drawer (R159). -/
def withdrawVerdict (w : Window) (s : State) : Verdict :=
  match s.till[w].state with
  | .closing => acceptDone (applyWithdraw w) (.withdraw w s.till[w].shift)
  | .none => .refuse .notPermitted
  | .opened => .refuse .notPermitted

/-- The window concerned: a window's own, or the one that source 12 names (R45, R159). -/
def withdrawWindow (src : Source) (named : Nat) : Option Window :=
  if src.val < 12 then toIdx 12 src.val else toIdx 12 named

/-- CASH-UP WITHDRAW (R159). -/
def execCashUpWithdraw (o : OrderHdr) (window : Nat) (e : Env) (s : State) : Host.Outcome State Fault Refusal :=
  .next (takeOrder cashUpWithdrawRule o (.cashUpWithdraw window) e
    (fun src _ _ s => match withdrawWindow src window with
      | none => .refuse .outOfRange
      | some w => withdrawVerdict w s) s)

end Sys2Proof.Machine
end

