-- ==== Sys2Proof/Machine/Dispatch.lean ====
section
/-! DEFINITION. The dispatch of a command to its meaning, one arm for each constructor of Instr. -/

namespace Sys2Proof.Machine

def exec (i : Instr) (s : State) : Host.Outcome State Fault Refusal :=
  match i with
  | .officeOpen o b e => Sys2Proof.Machine.execOfficeOpen o b e s
  | .dayClose o e => Sys2Proof.Machine.execDayClose o e s
  | .setDiscounts o count e => Sys2Proof.Machine.execSetDiscounts o count e s
  | .setRefundFees o pairs e => Sys2Proof.Machine.execSetRefundFees o pairs e s
  | .setLayout o index e => Sys2Proof.Machine.execSetLayout o index e s
  | .stockReceive o kind first count e => Sys2Proof.Machine.execStockReceive o kind first count e s
  | .magazineLoad o lane kind first count e => Sys2Proof.Machine.execMagazineLoad o lane kind first count e s
  | .magazineUnload o lane e => Sys2Proof.Machine.execMagazineUnload o lane e s
  | .laneStart o lane e => Sys2Proof.Machine.execLaneStart o lane e s
  | .lanePark o lane e => Sys2Proof.Machine.execLanePark o lane e s
  | .faultClear o b e => Sys2Proof.Machine.execFaultClear o b e s
  | .shiftOpen o clerk float home alt e => Sys2Proof.Machine.execShiftOpen o clerk float home alt e s
  | .issue o b e => Sys2Proof.Machine.execIssue o b e s
  | .void o kind serial e => Sys2Proof.Machine.execVoid o kind serial e s
  | .refund o kind serial reason e => Sys2Proof.Machine.execRefund o kind serial reason e s
  | .cashUp o declared e => Sys2Proof.Machine.execCashUp o declared e s
  | .cashUpWithdraw o window e => Sys2Proof.Machine.execCashUpWithdraw o window e s
  | .statusRead o dest len e => Sys2Proof.Machine.execStatusRead o dest len e s
  | .unknownOrderKind o code e => Sys2Proof.Machine.execUnknownOrderKind o code e s
  | .sweepTimerExpiry => Sys2Proof.Machine.execSweepTimerExpiry s
  | .sweepRequest v => Sys2Proof.Machine.execSweepRequest v s
  | .sweep steps release headers e => Sys2Proof.Machine.execSweep steps release headers e s
  | .areaBaseWrite v => Sys2Proof.Machine.execAreaBaseWrite v s
  | .exchangeEnableSet => Sys2Proof.Machine.execExchangeEnableSet s
  | .exchangeEnableClear => Sys2Proof.Machine.execExchangeEnableClear s
  | .softReset => Sys2Proof.Machine.execSoftReset s
  | .noticeEnableWrite answer journal alert => Sys2Proof.Machine.execNoticeEnableWrite answer journal alert s
  | .alertClear v => Sys2Proof.Machine.execAlertClear v s
  | .registerWrite off v => Sys2Proof.Machine.execRegisterWrite off v s
  | .exchangeStart count offset release bus => Sys2Proof.Machine.execExchangeStart count offset release bus s
  | .powerOn => Sys2Proof.Machine.execPowerOn s
  | .resetLine => Sys2Proof.Machine.execResetLine s
  | .linkReset => Sys2Proof.Machine.execLinkReset s
  | .backupGoodChange good => Sys2Proof.Machine.execBackupGoodChange good s
  | .startUpEnd => Sys2Proof.Machine.execStartUpEnd s
  | .officeClockTick => Sys2Proof.Machine.execOfficeClockTick s
  | .queueOccupancySample => Sys2Proof.Machine.execQueueOccupancySample s
  | .pollTimerExpiry lane pins => Sys2Proof.Machine.execPollTimerExpiry lane pins s
  | .lbyRelease lane ldiLow => Sys2Proof.Machine.execLbyRelease lane ldiLow s
  | .stretchLimit lane bus => Sys2Proof.Machine.execStretchLimit lane bus s
  | .clearPulseLimit lane bus => Sys2Proof.Machine.execClearPulseLimit lane bus s
  | .frameSent lane => Sys2Proof.Machine.execFrameSent lane s
  | .responseTimeout lane pins bus => Sys2Proof.Machine.execResponseTimeout lane pins bus s
  | .reportBad lane pins bus => Sys2Proof.Machine.execReportBad lane pins bus s
  | .malformedReport lane pins bus => Sys2Proof.Machine.execMalformedReport lane pins bus s
  | .capacity lane seq k width identity pins bus => Sys2Proof.Machine.execCapacity lane seq k width identity pins bus s
  | .nothing lane pins bus => Sys2Proof.Machine.execNothing lane pins bus s
  | .accepted lane seq ref pins bus => Sys2Proof.Machine.execAccepted lane seq ref pins bus s
  | .printed lane seq ref pins bus => Sys2Proof.Machine.execPrinted lane seq ref pins bus s
  | .ejected lane seq ref pins bus => Sys2Proof.Machine.execEjected lane seq ref pins bus s
  | .spoiled lane seq ref cause pins bus => Sys2Proof.Machine.execSpoiled lane seq ref cause pins bus s
  | .flushed lane seq count pins bus => Sys2Proof.Machine.execFlushed lane seq count pins bus s
  | .jammed lane seq pins bus => Sys2Proof.Machine.execJammed lane seq pins bus s
  | .outOfStock lane seq pins bus => Sys2Proof.Machine.execOutOfStock lane seq pins bus s
  | .step lane e => Sys2Proof.Machine.execStep lane e s
  | .missedMarkLimit lane e => Sys2Proof.Machine.execMissedMarkLimit lane e s
  | .mark lane e => Sys2Proof.Machine.execMark lane e s
  | .patienceExpiry x => Sys2Proof.Machine.execPatienceExpiry x s
  | .reportStart lane => Sys2Proof.Machine.execReportStart lane s
  | .ldiIdleAfterPulse lane pulse bus => Sys2Proof.Machine.execLdiIdleAfterPulse lane pulse bus s

end Sys2Proof.Machine
end

