-- ==== Sys2Proof/Safety.lean ====
section
/-! DEFINITION. The terms in which claims about the part are stated: an order that is offered, what a take leaves beside
its own effect, entries given to the journal, a report that an exchange brings, and the forms that every step keeps. -/

namespace Sys2Proof.Machine

/-! ### Forms that hold at every moment -/

/-- Entry 0 of the Discount Table, layout 0 and the fee of reason 3 stand as R23, R26 and R61 give them; the character codes of
the name FULL FARE are the model's choice (log entry 44). -/
def FixedTables (s : State) : Prop :=
  s.fare.discounts[0] = fullFare ∧ s.issue.layouts[0] = layout0 ∧ s.fare.fees[3] = 0

/-- The ring as the part has written it is in canonical form. -/
def RingForm (s : State) : Prop := Memory.wf s.host.journal = true

/-- While the last Release Word is absent the gate is OPEN (R162, R168). -/
def GateForm (s : State) : Prop := s.journal.release = none → s.journal.closed = false

/-- A lane's five activity counters and its steps since mark stay in their widths (R94, R118, R119). -/
def LaneBound (r : LaneRec) : Prop :=
  r.act.jobsQueued ≤ Config.max32 ∧ r.act.occupancy ≤ Config.max32 ∧ r.act.blanksFed ≤ Config.max32 ∧
    r.act.blanksSpoilt ≤ Config.max32 ∧ r.act.faults ≤ Config.max32 ∧ r.feed.since ≤ 65535

/-- A drawer's twelve accumulators and four counts stay in their ranges (R147, R150). -/
def DrawerBound (d : Drawer) : Prop :=
  (∀ T : Tender, (d.acc.get T).sales ≤ Config.maxAccumulator ∧ (d.acc.get T).voids ≤ Config.maxAccumulator ∧
    (d.acc.get T).refunds ≤ Config.maxAccumulator) ∧
  d.counts.issued ≤ Config.max32 ∧ d.counts.voided ≤ Config.max32 ∧ d.counts.spoilt ≤ Config.max32 ∧
  d.counts.lost ≤ Config.max32

/-- A fault record's repeat count and further kinds stay in their ranges: at most three further kinds, all different and
none the first (R135, R137). -/
def FaultBound (r : FaultRec) : Prop :=
  ∀ a, r.active = some a → a.repeats ≤ 255 ∧ a.further.length ≤ 3 ∧ (a.first :: a.further).Nodup

/-- Every saturating counter of the part stands in its range. -/
def CountersBounded (s : State) : Prop :=
  (∀ l : Lane, LaneBound s.lanes[l]) ∧ (∀ w : Window, DrawerBound s.till[w]) ∧ ∀ l : Lane, FaultBound s.faults.recs[l]

/-- The serial of a kind lies in a list of runs. -/
def Holds (rs : List Run) (k : StockKind) (n : Nat) : Prop := ∃ r ∈ rs, r.kind = k ∧ r.first ≤ n ∧ n < r.first + r.count

/-- The form of the Office Runs (R2): every run has a blank, the list is sorted, and within a kind a gap lies between a run
and the next. -/
def RunsForm (rs : List Run) : Prop :=
  (∀ r ∈ rs, 1 ≤ r.count) ∧
    rs.Pairwise fun a b => a.kind < b.kind ∨ (a.kind = b.kind ∧ a.first + a.count < b.first)

/-- The blanks of a kind in a list of runs (R2). -/
def blanksIn (k : StockKind) (rs : List Run) : Nat := ((rs.filter fun r => decide (r.kind = k)).map Run.count).sum

/-! ### Jobs, credits and stock -/

/-- Every job of the part, queued or out, lane by lane (R84, R85). -/
def allJobs (s : State) : List Job := (List.finRange 8).flatMap fun l => s.lanes[l].queue ++ s.lanes[l].out

/-- The jobs out and credits of a lane (R75, R76, R79, R88): K and credits belong to a started link, jobs are out in PRINTING
alone, the credits and the jobs out make up K, and every job out holds a serial. A link start belongs to STARTING (R108). -/
structure CreditForm (r : LaneRec) : Prop where
  unlinked : (r.state = .off ∨ r.state = .starting ∨ ∃ w, r.state = .parked w) → r.cap = none
  linked   : (r.state = .ready ∨ r.state = .printing) → r.cap ≠ none
  printing : r.state = .printing ↔ r.out ≠ []
  absent   : r.cap = none → r.credits = 0
  sum      : ∀ K, r.cap = some K → 1 ≤ K ∧ K ≤ 4 ∧ r.credits + r.out.length = K
  out      : ∀ j ∈ r.out, j.serial ≠ none ∧ j.state ≠ .queued
  starting : (r.link.phase = .greeting ∨ r.link.restartDue = true) → r.state = .starting

/-- During a start-up period no sweep is made, the exchange does not run, and of every lane all but its state and its input
levels is as after the reset (R38, R95, R173). -/
def DownForm (s : State) : Prop :=
  s.office.startUp ≠ none → s.exch.sweep = none ∧ s.exch.state ≠ .running ∧
    ∀ l : Lane, s.lanes[l] = { LaneRec.off with state := s.lanes[l].state, pins := s.lanes[l].pins }

/-- The credits of every lane, and the jobs' buffers: each holds an image and belongs to one job (R54, R86, R88). -/
structure CreditsForm (s : State) : Prop where
  lanes   : s.office.startUp = none → ∀ l : Lane, CreditForm s.lanes[l]
  down    : DownForm s
  buffers : ((allJobs s).map Job.buffer).Nodup
  images  : ∀ j ∈ allJobs s, s.images[j.buffer] ≠ none

/-- The slots whose orders the part has still to answer: those of the jobs, of the pending cash-ups and of the answers held
pending (R37, R46, R54, R147). -/
def heldSlots (s : State) : List SlotNo :=
  (allJobs s).map Job.slot ++ (List.finRange 12).filterMap (fun w => s.till[w].cashUp.map PendingCashUp.slot) ++
    s.exch.pendingAns.map Prod.fst

/-- Each order that the part has still to answer has a slot of its own, with its context, and the slot that a sweep offers has
no context (R37, R40). -/
structure SlotsForm (s : State) : Prop where
  single  : (heldSlots s).Nodup
  context : ∀ i ∈ heldSlots s, s.exch.contexts[i] ≠ none
  offered : ∀ w i, s.exch.sweep = some w → w.offered = some i → s.exch.contexts[i] = none

/-- The places that hold a serial of a kind: a run, a magazine's unconsumed range, the Flight List, the In-Doubt List, the
Issue Table (R21, R174). -/
def holders (s : State) (k : StockKind) (n : Nat) : Nat :=
  (s.stock.runs.countP fun r => decide (r.kind = k ∧ r.first ≤ n ∧ n < r.first + r.count)) +
    ((List.finRange 8).countP fun l => s.stock.mags[l].any fun m => decide (m.kind = k ∧ m.next ≤ n ∧ n ≤ m.last)) +
    (s.office.flight.countP fun e => decide (e.kind = k ∧ e.serial = n)) +
    (s.stock.doubts.countP fun d => decide (d.kind = k ∧ d.serial = n)) +
    s.issue.table.countP fun e => decide (e.kind = k ∧ e.serial = n)

/-- The jobs out of a lane, oldest first: those that are FED or PRINTED, then the SENT ones, whose serials run without a gap
up to the magazine's next serial (R122, R133). -/
def SentRun (r : LaneRec) (m : Option Loaded) : Prop :=
  ∃ fed sent : List Job, r.out = fed ++ sent ∧ (∀ j ∈ fed, j.state ≠ .sent) ∧ (∀ j ∈ sent, j.state = .sent) ∧
    (sent ≠ [] → ∃ g, m = some g ∧ g.first + sent.length ≤ g.next ∧
      sent.map (fun j => (j.kind, j.serial)) =
        (List.range' (g.next - sent.length) sent.length).map fun n => (g.kind, some n))

/-- The stock of the part: the Office Runs' form (R2), the magazines' (R5), no serial in two places (R21), the conservation
law with the blanks in flight as the Flight List has them (R20), tickets of the Issue Table that are ISSUED counted in issued
(R6, R19), the Flight List the list of the jobs out (R174), and the order of the jobs out (R133). -/
structure StockForm (s : State) : Prop where
  runs      : RunsForm s.stock.runs
  mags      : ∀ (l : Lane) (m : Loaded), s.stock.mags[l] = some m → m.first ≤ m.next ∧ m.next ≤ m.last + 1
  single    : ∀ (k : StockKind) (n : Nat), holders s k n ≤ 1
  conserved : ∀ k : StockKind, s.stock.counters[k].received =
    inOffice s k + inMagazines s k + (s.office.flight.countP fun e => decide (e.kind = k)) + inDoubt s k +
      s.stock.counters[k].issued + s.stock.counters[k].voided + s.stock.counters[k].spoilt + s.stock.counters[k].lost
  sold      : ∀ k : StockKind, (s.issue.table.countP fun e => decide (e.kind = k ∧ e.state = .issued)) ≤
    s.stock.counters[k].issued
  flight    : s.office.startUp = none → (s.office.flight.map fun e => (e.kind, some e.serial)).Perm
    ((List.finRange 8).flatMap fun l => s.lanes[l].out.map fun j => (j.kind, j.serial))
  sent      : ∀ l : Lane, SentRun s.lanes[l] s.stock.mags[l]

/-! ### Orders -/

/-- The header, the kind code and the surroundings of an order command; none for the other commands (R45). -/
def orderParts : Instr → Option (OrderHdr × Byte × Env)
  | .officeOpen o _ e => some (o, 1, e)
  | .dayClose o e => some (o, 2, e)
  | .setDiscounts o _ e => some (o, 3, e)
  | .setRefundFees o _ e => some (o, 4, e)
  | .setLayout o _ e => some (o, 5, e)
  | .stockReceive o _ _ _ e => some (o, 6, e)
  | .magazineLoad o _ _ _ _ e => some (o, 7, e)
  | .magazineUnload o _ e => some (o, 8, e)
  | .laneStart o _ e => some (o, 9, e)
  | .lanePark o _ e => some (o, 10, e)
  | .faultClear o _ e => some (o, 11, e)
  | .shiftOpen o _ _ _ _ e => some (o, 12, e)
  | .issue o _ e => some (o, 13, e)
  | .void o _ _ e => some (o, 14, e)
  | .refund o _ _ _ e => some (o, 15, e)
  | .cashUp o _ e => some (o, 16, e)
  | .cashUpWithdraw o _ e => some (o, 17, e)
  | .statusRead o _ _ e => some (o, 18, e)
  | .unknownOrderKind o c e => some (o, c, e)
  | _ => none

/-- The sources that may post an order kind, by its code (R45). -/
def mayPost (code : Byte) (src : Source) : Bool :=
  if code.toNat ≤ 11 then decide (src = 12) else if code.toNat ≤ 16 then decide (src ≠ 12) else true

/-- An order command with other surroundings. -/
def withEnv (e : Env) : Instr → Instr
  | .officeOpen o b _ => .officeOpen o b e
  | .dayClose o _ => .dayClose o e
  | .setDiscounts o n _ => .setDiscounts o n e
  | .setRefundFees o p _ => .setRefundFees o p e
  | .setLayout o n _ => .setLayout o n e
  | .stockReceive o k f c _ => .stockReceive o k f c e
  | .magazineLoad o l k f c _ => .magazineLoad o l k f c e
  | .magazineUnload o l _ => .magazineUnload o l e
  | .laneStart o l _ => .laneStart o l e
  | .lanePark o l _ => .lanePark o l e
  | .faultClear o b _ => .faultClear o b e
  | .shiftOpen o c f h a _ => .shiftOpen o c f h a e
  | .issue o b _ => .issue o b e
  | .void o k n _ => .void o k n e
  | .refund o k n r _ => .refund o k n r e
  | .cashUp o d _ => .cashUp o d e
  | .cashUpWithdraw o w _ => .cashUpWithdraw o w e
  | .statusRead o d n _ => .statusRead o d n e
  | .unknownOrderKind o c _ => .unknownOrderKind o c e
  | c => c

/-- The exchange is RUNNING, no access error is under way, and the sweep in progress offers the slot, whose header it read
with this source and tag (R40, R41). -/
structure Offers (s : State) (i : SlotNo) (src : Source) (tag : Tag) : Prop where
  running : s.exch.state = .running
  quiet   : s.host.busIn = none
  offered : ∃ w, s.exch.sweep = some w ∧ w.offered = some i ∧ w.headers[i].source.toNat = src.val ∧ w.headers[i].tag = tag

/-- The order is offered, the gate is OPEN and so is the office (R42, R43). -/
structure Takeable (s : State) (i : SlotNo) (src : Source) (tag : Tag) : Prop extends Offers s i src tag where
  gate   : s.journal.closed = false
  office : s.office.opened = true

/-- The registers and latched values of the exchange stand as they were (R36, R53). -/
structure SameRegisters (x y : ExchangeController) : Prop where
  areaBase      : y.areaBase = x.areaBase
  enable        : y.enable = x.enable
  answerNotice  : y.answerNotice = x.answerNotice
  journalNotice : y.journalNotice = x.journalNotice
  alertNotice   : y.alertNotice = x.alertNotice
  period        : y.period = x.period
  latchedCount  : y.latchedCount = x.latchedCount
  latchedOffset : y.latchedOffset = x.latchedOffset

/-- A slot, its mark and its context stand as they were. -/
structure SlotKept (s t : State) (j : SlotNo) : Prop where
  slot    : t.host.slots[j] = s.host.slots[j]
  mark    : t.exch.marks[j] = s.exch.marks[j]
  context : t.exch.contexts[j] = s.exch.contexts[j]

/-- A POSTED slot, whose tag is behind its source's expected tag, was answered STALE_TAG (R41, R46). -/
structure StaleAnswered (s t : State) (j : SlotNo) : Prop where
  posted  : ∃ h src, postedHeader s j = some h ∧ headerSource h = some src ∧ behind h.tag t.exch.tags[src] = true ∧
    t.host.slots[j] = ⟨3, some ⟨.staleTag, h.kind, h.tag, t.office.clock, .none⟩⟩
  mark    : t.exch.marks[j] = true
  context : t.exch.contexts[j] = none

/-- The slots but those named stand as they were, or the service of the sources answered them STALE_TAG (R41). -/
def OtherSlots (is : List SlotNo) (s t : State) : Prop := ∀ j, j ∉ is → SlotKept s t j ∨ StaleAnswered s t j

/-- What the service of the sources does not touch stands: the registers, the answers held pending, the first-sweep flag,
and the source with which the next sweep begins (R40, R46, R48, R53). -/
structure ExchangeKept (x y : ExchangeController) : Prop where
  registers  : SameRegisters x y
  pendingAns : y.pendingAns = x.pendingAns
  abortDue   : y.abortDue = x.abortDue
  nextStart  : y.nextStart = x.nextStart

/-- The slot has its answer and ANSWERED, its mark is set and its context released (R37, R46, R47). -/
structure AnsweredSlot (t : State) (i : SlotNo) (a : Answer) : Prop where
  slot    : t.host.slots[i] = ⟨3, some a⟩
  mark    : t.exch.marks[i] = true
  context : t.exch.contexts[i] = none

/-- The source's expected tag has risen by 1 and no other has changed (R41). -/
structure TagTaken (s t : State) (src : Source) : Prop where
  tag  : t.exch.tags[src] = s.exch.tags[src] + 1
  tags : ∀ v, v ≠ src → t.exch.tags[v] = s.exch.tags[v]

/-- An order taken and answered within its take: its slot has the answer, the source's expected tag has risen by 1, and the
rest of the exchange stands but for the service of the sources (R37, R41, R46, R47). -/
structure Answers (s t : State) (i : SlotNo) (src : Source) (a : Answer) : Prop where
  answered : AnsweredSlot t i a
  taken    : TagTaken s t src
  others   : OtherSlots [i] s t
  kept     : ExchangeKept s.exch t.exch
  snapshot : t.host.snapshot = s.host.snapshot

/-- The entries were given to the Journal Writer in this order, and nothing else was done to the journal (R165). -/
structure Gives (es : List EntryBody) (s t : State) : Prop where
  journal : t.journal = (giveAll es s).journal
  ring    : t.host.journal = (giveAll es s).host.journal
  alerts  : t.exch.alerts = (giveAll es s).exch.alerts

/-- The journal stands as it was (R165). -/
def GivesNothing (s t : State) : Prop := Gives [] s t

/-! ### Lanes and reports -/

/-- A lane other than `l` stands as it was. -/
def OtherLanes (l : Lane) (s t : State) : Prop := ∀ m, m ≠ l → t.lanes[m] = s.lanes[m]

/-- A drawer other than that of `w` stands as it was. -/
def OtherDrawers (w : Window) (s t : State) : Prop := ∀ v, v ≠ w → t.till[v] = s.till[v]

/-- The lane is READY or PRINTING. -/
def Working (s : State) (l : Lane) : Prop := s.lanes[l].state = .ready ∨ s.lanes[l].state = .printing

/-- A lane that has moved to STARTING (R76, R97, R108, R109): K and the credits are gone, and the link start has begun with
a GREET, or waits for the exchange in progress. -/
def startedLane (st : Settings) (r : LaneRec) : LaneRec :=
  if r.link.exchange.isSome then
    { r with state := .starting, cap := none, credits := 0, link := { r.link with restartDue := true } }
  else
    { r with
      state := .starting, cap := none, credits := 0, repairRefs := []
      link :=
        { phase := .greeting, rate := st.rate, ack := none, fails := 0, poll := none, repeatFrame := none, waiting := none,
          awaited := none, flushCarried := false, headFault := false,
          exchange := some (startExchange r.pins st.stretch ⟨.greet, greetBytes⟩), restartDue := false } }

/-- A lane that has been parked (R80, R81, R82, R98): the engine is IDLE, K, the credits and the patience timer are gone. -/
def parkedLane (why : ParkReason) (r : LaneRec) : LaneRec :=
  { r with
    state := .parked why, cap := none, credits := 0, patience := none, repairRefs := []
    link :=
      { r.link with
        phase := .idle, fails := 0, poll := none, repeatFrame := none, waiting := none, awaited := none,
        flushCarried := false, headFault := false, exchange := none, restartDue := false } }

/-- The lane's RUNNING engine is reading a report that answers a POLL with bit `b`, its acknowledgement bit is `ack` (R102,
R105), and no host-memory access error is under way. The exchange with the host is in any state: lanes go on printing while it
does not run (R38). -/
structure Reporting (s : State) (l : Lane) (ack b : Bool) : Prop where
  quiet    : s.host.busIn = none
  phase    : s.lanes[l].link.phase = .running
  due      : s.lanes[l].link.restartDue = false
  bit      : s.lanes[l].link.ack = some ack
  exchange : ∃ bytes, s.lanes[l].link.exchange = some ⟨⟨.poll b, bytes⟩, .reporting, none⟩

/-- The state in which an accepted report is acted on: the levels of the input lines, the failure count 0, and the
acknowledgement bit turned (R106, R107). -/
def heard (s : State) (l : Lane) (ack : Bool) (pins : Pins) : State :=
  s.onLane l fun r => { r with pins := pins, link := { r.link with fails := 0, ack := some !ack } }

/-- A lane whose Link Engine has entered DOWN (R98, R103, R104, R106). -/
def downLane (r : LaneRec) : LaneRec :=
  { r with
    repairRefs := []
    link :=
      { r.link with
        phase := .down, exchange := none, repeatFrame := none, waiting := none, poll := none, awaited := none,
        flushCarried := false, restartDue := false } }

/-- The command that a report is. -/
def reportCommand (l : Lane) (r : Report) (pins : Pins) (bus : Option Nat) : Instr :=
  match r with
  | .capacity q k w i => .capacity l q k w i pins bus
  | .nothing => .nothing l pins bus
  | .accepted q n => .accepted l q n pins bus
  | .printed q n => .printed l q n pins bus
  | .ejected q n => .ejected l q n pins bus
  | .spoiled q n c => .spoiled l q n c pins bus
  | .flushed q c => .flushed l q c pins bus
  | .jammed q => .jammed l q pins bus
  | .outOfStock q => .outOfStock l q pins bus

/-- The sequence byte that differs from the acknowledgement bit (R107). -/
def newBit (ack : Bool) : Byte := if ack then 0 else 1

/-- The lines of a cash-up of a drawer: each tender's expected figure, declared amount and variance (R156), and the class of
the variance, with the tolerance for CASH alone (R157). -/
def Reconciled (d : Drawer) (tolerance : Nat) (decl : ByTender Nat) (lines : ByTender CashLine) : Prop :=
  ∀ T : Tender, (lines.get T).declared = decl.get T ∧
    (lines.get T).expected = (if T = .cash then (d.float : Int) else 0) + (d.acc.get T).sales - (d.acc.get T).voids -
      (d.acc.get T).refunds ∧
    (lines.get T).variance = (lines.get T).declared - (lines.get T).expected ∧
    ((lines.get T).cls = .balanced ↔ (lines.get T).variance = 0) ∧
    ((lines.get T).cls = .within ↔ T = .cash ∧ (lines.get T).variance ≠ 0 ∧ |(lines.get T).variance| ≤ tolerance) ∧
    ((lines.get T).cls = .over ↔ T = .cash ∧ (tolerance : Int) < (lines.get T).variance) ∧
    ((lines.get T).cls = .short ↔ T = .cash ∧ (lines.get T).variance < -(tolerance : Int)) ∧
    ((lines.get T).cls = .mismatch ↔ T ≠ .cash ∧ (lines.get T).variance ≠ 0)

/-- A lane for which a FLUSH with this limit has been requested (R102, R110): a RUNNING engine that awaits no flush awaits
one, and the FLUSH is carried at once between exchanges and waits otherwise. -/
def flushLane (st : Settings) (limit : Nat) (r : LaneRec) : LaneRec :=
  if r.link.phase = .running ∧ r.link.awaited = none then
    { r with link :=
      if r.link.exchange = none ∧ r.link.repeatFrame = none then
        { r.link with
          awaited := some limit, flushCarried := false, waiting := none, poll := none
          exchange := some (startExchange r.pins st.stretch ⟨.flush, flushBytes⟩) }
      else { r.link with awaited := some limit, flushCarried := false, waiting := some .flush } }
  else r

/-- The state `t` with the patience timer of a lane started where the lane was not stalled in `s` and is in `t`, and stopped
where it was stalled and is not (R90, R91). -/
def stallEdged (l : Lane) (s t : State) : State :=
  { t with lanes := t.lanes.upd l fun r => { r with
    patience :=
      if stalled s l = false ∧ stalled t l = true then
        (if t.office.settings.patience = 0 then none else some t.office.settings.patience)
      else if stalled s l = true ∧ stalled t l = false then none
      else r.patience } }

/-! ### Refusals, resets -/

/-- The outcome of the first check that fails (R9, R55 and the other check tables): each check with whether it fails. -/
def firstRefusal (checks : List (Bool × OrderOutcome)) : Option OrderOutcome := (checks.find? Prod.fst).map Prod.snd

/-- The order command is answered at its take with this outcome and changes nothing else (R43, R46). -/
def Refused (s : State) (c : Instr) (o : OrderHdr) (code : Byte) (src : Source) (tag : Tag) (oc : OrderOutcome) : Prop :=
  ∃ t, exec c s = .next t ∧ t = { s with exch := t.exch, host := t.host } ∧ GivesNothing s t ∧
    Answers s t o.slot src ⟨oc, code, tag, s.office.clock, .none⟩

/-- The command that a reset of a kind is (R173). -/
def resetCommand : ResetKind → Instr
  | .powerOn => .powerOn
  | .resetLine => .resetLine
  | .soft => .softReset
  | .linkReset => .linkReset

end Sys2Proof.Machine
end

