-- ==== Sys2Proof/Certificates/Slice0/Obligations.lean ====
section
/-! DEFINITION. The statements put to the provers. Each says what a command or an operation of the part does, by the rules
of the manual; a statement that rests on a choice of the model says so and names the log entry. -/

open Sys2Proof Sys2Proof.Machine

/-! ### Orders of the Stock Register -/

/-- R9, R10, R11, R12, R13, R89, R90, R91: a STOCK RECEIVE that passes every check inserts its run, raises received, gives one
STOCK entry and is answered DONE with a run of the list that contains the received serials. A MAGAZINE LOAD that passes every
check takes its range out of the runs and makes the magazine LOADED; a stall for want of stock ends, and the sending condition
is tested. A MAGAZINE UNLOAD that passes every check returns the unconsumed range by R3, makes the magazine EMPTY, and starts
the patience timer of a lane that it stalls. -/
def Obligations.StockOrdersDone : Prop :=
  (∀ (s : State) (o : OrderHdr) (k : StockKind) (first count : Nat) (tag : Tag) (runs : List Run),
    Takeable s o.slot 12 tag → 1 ≤ count → count ≤ 100000 → first + count - 1 ≤ 99999999 →
    overlaps s k first count = false → s.stock.counters[k].received + count ≤ 4294967295 →
    mergeRun k first count s.stock.runs = some runs →
    ∃ t, exec (.stockReceive o k.val first count Env.quiet) s = .next t ∧
      t = { s with stock := t.stock, journal := t.journal, exch := t.exch, host := t.host } ∧
      t.stock = { s.stock with
        runs := runs
        counters := s.stock.counters.upd k fun n => { n with received := n.received + count } } ∧
      Gives [.stock .received k first count none] s t ∧
      ∃ r ∈ runs, r.kind = k ∧ r.first ≤ first ∧ first + count ≤ r.first + r.count ∧
        Answers s t o.slot 12 ⟨.done, 6, tag, s.office.clock, .stock k r.first r.count⟩) ∧
  (∀ (s : State) (o : OrderHdr) (l : Lane) (k : StockKind) (first count : Nat) (tag : Tag) (r : Run),
    Takeable s o.slot 12 tag → 1 ≤ count → count ≤ 100000 → first + count - 1 ≤ 99999999 →
    (s.lanes[l].state = .off ∨ (∃ w, s.lanes[l].state = .parked w) ∨ (s.lanes[l].state = .ready ∧ s.lanes[l].out = [])) →
    s.stock.mags[l] = none → (∀ j ∈ s.lanes[l].queue, j.kind = k) →
    runHolding k first count s.stock.runs = some r →
    ¬ (r.first < first ∧ first + count < r.first + r.count ∧ 32 ≤ s.stock.runs.length) →
    ∃ t u v, exec (.magazineLoad o l.val k.val first count Env.quiet) s = .next t ∧
      u = { s with
        stock := { s.stock with
          runs := takeRange k first count s.stock.runs
          mags := s.stock.mags.upd l fun _ => some ⟨k, first, first, first + count - 1⟩ }
        lanes := s.lanes.upd l fun q => if q.queue = [] then q else { q with patience := none } } ∧
      v = trySend l u ∧
      t = { v with journal := t.journal, exch := t.exch, host := t.host } ∧
      Gives [.stock .loaded k first count (some l)] s t ∧
      Answers s t o.slot 12 ⟨.done, 7, tag, s.office.clock, .magazine ⟨k, first, first, first + count - 1⟩⟩) ∧
  ∀ (s : State) (o : OrderHdr) (l : Lane) (m : Loaded) (tag : Tag) (runs : List Run),
    Takeable s o.slot 12 tag → s.lanes[l].out = [] → (∀ d ∈ s.stock.doubts, d.lane ≠ l) → s.stock.mags[l] = some m →
    (m.last + 1 - m.next = 0 ∧ runs = s.stock.runs ∨
      m.last + 1 - m.next ≠ 0 ∧ mergeRun m.kind m.next (m.last + 1 - m.next) s.stock.runs = some runs) →
    ∃ t, exec (.magazineUnload o l.val Env.quiet) s = .next t ∧
      t = { s with stock := t.stock, lanes := t.lanes, journal := t.journal, exch := t.exch, host := t.host } ∧
      t.stock = { s.stock with runs := runs, mags := s.stock.mags.upd l fun _ => none } ∧
      OtherLanes l s t ∧
      (t.lanes[l] = if s.lanes[l].state ≠ .holding ∧ s.lanes[l].queue ≠ [] ∧ m.next ≤ m.last then
          { s.lanes[l] with
            patience := if s.office.settings.patience = 0 then none else some s.office.settings.patience }
        else s.lanes[l]) ∧
      Gives [.stock .unloaded m.kind m.next (m.last + 1 - m.next) (some l)] s t ∧
      Answers s t o.slot 12 ⟨.done, 8, tag, s.office.clock, .unloaded m.next (m.last + 1 - m.next)⟩

/-! ### Orders of Office Control -/

/-- R171, R172, R82: an OFFICE OPEN in the CLOSED office, with every value in range, sets the day, the settings with the four
timer values clamped, and the four kind records, sets the Office Clock to 0, opens the office, starts the lanes PARKED for
the day, and gives its entries with office time 0; that one repeated after a reset inside its take is accepted there too is the
model's choice (log entry 42). A DAY CLOSE of an office without drawer, job and blank in doubt empties
the Issue Table, sets the activity counters to 0, parks the lanes in READY and HOLDING, closes the office and sets every
expected tag to 0. -/
def Obligations.OfficeOrdersDone : Prop :=
  (∀ (s : State) (o : OrderHdr) (b : OpenBody) (rate : LinkRate) (tag : Tag),
    Offers s o.slot 12 tag → s.journal.closed = false → s.office.opened = false → b.rate = some rate →
    1 ≤ b.day → b.day ≤ 65535 → b.tolerance ≤ 99999 →
    (∀ k : StockKind, b.kinds[k].name.length = 12 ∧ 100 ≤ b.kinds[k].pitch ∧ b.kinds[k].pitch ≤ 4000 ∧ 1 ≤ b.kinds[k].tol ∧
      b.kinds[k].tol ≤ b.kinds[k].pitch / 4) →
    ∃ t, exec (.officeOpen o b Env.quiet) s = .next t ∧
      t = { s with
        stock := t.stock, lanes := t.lanes, journal := t.journal, office := t.office, exch := t.exch, host := t.host } ∧
      t.stock = { s.stock with kinds := b.kinds } ∧
      t.office = { s.office with
        opened := true, day := b.day, clock := 0
        settings := ⟨b.tolerance, min b.patience 60, rate, max 1 (min b.poll 20), max 5 (min b.response 100),
          max 10 (min b.stretch 1000)⟩ } ∧
      (∀ l : Lane, t.lanes[l] =
        if s.lanes[l].state = .parked .day then startedLane t.office.settings s.lanes[l] else s.lanes[l]) ∧
      Gives (.officeOpen b.day :: ((List.finRange 8).filter fun l => decide (s.lanes[l].state = .parked .day)).map fun l =>
        .lane l .starting .opened) { s with office := t.office } t ∧
      Answers s t o.slot 12 ⟨.done, 1, tag, 0, .officeOpen b.day (min b.patience 60) (max 1 (min b.poll 20))
        (max 5 (min b.response 100)) (max 10 (min b.stretch 1000))⟩) ∧
  ∀ (s : State) (o : OrderHdr) (tag : Tag),
    Takeable s o.slot 12 tag → (∀ w : Window, s.till[w].state = .none) →
    (∀ l : Lane, s.lanes[l].queue = [] ∧ s.lanes[l].out = []) → s.stock.doubts = [] →
    ∃ t, exec (.dayClose o Env.quiet) s = .next t ∧
      t = { s with
        issue := t.issue, lanes := t.lanes, journal := t.journal, office := t.office, exch := t.exch, host := t.host } ∧
      t.issue = { s.issue with table := [] } ∧
      t.office = { s.office with opened := false } ∧
      (∀ l : Lane, t.lanes[l] =
        if s.lanes[l].state = .ready ∨ s.lanes[l].state = .holding then
          parkedLane .day { s.lanes[l] with act := ⟨0, 0, 0, 0, 0⟩ }
        else { s.lanes[l] with act := ⟨0, 0, 0, 0, 0⟩ }) ∧
      Gives ((((List.finRange 8).filter fun l => decide (s.lanes[l].state = .ready ∨ s.lanes[l].state = .holding)).map fun l =>
        .lane l (.parked .day) .day) ++ [.dayClose s.office.day]) s t ∧
      AnsweredSlot t o.slot ⟨.done, 2, tag, s.office.clock, .dayClose s.office.day⟩ ∧
      (∀ v : Source, t.exch.tags[v] = 0) ∧ OtherSlots [o.slot] s t ∧ ExchangeKept s.exch t.exch ∧
      t.host.snapshot = s.host.snapshot

/-! ### Orders of the Fare Unit -/

/-- R24 to R27, R62: a SET DISCOUNTS that passes every check writes each record into the entry of its index, a rate above
1,000 as 1,000, leaves every other entry, and is answered with the number of records and of those clamped; a SET REFUND
FEES writes each pair's fee to its reason, leaves the fee of reason 3 and of every reason not named, and is answered with
the four fees; a SET LAYOUT replaces the one layout whole and is answered with the index and the field count. The records
of an attachment are its bytes, 24 to a discount and, after the count, 5 to a layout field (03, the record layouts). -/
def Obligations.TableOrdersDone : Prop :=
  (∀ (s : State) (o : OrderHdr) (count : Nat) (bs : List Byte) (tag : Tag),
    Takeable s o.slot 12 tag → o.attached = true → 1 ≤ o.attLen → o.attLen ≤ 1024 → o.att = .data bs →
    1 ≤ count → count ≤ 15 → 24 * count ≤ bs.length →
    (∀ r ∈ discountRecs count bs, 1 ≤ r.index ∧ r.index ≤ 15 ∧ (r.step = 1 ∨ r.step = 5 ∨ r.step = 10 ∨ r.step = 50) ∧
      r.min ≤ 99999) →
    ((discountRecs count bs).map DiscountRec.index).Nodup →
    ∃ t, exec (.setDiscounts o count Env.quiet) s = .next t ∧
      t = { s with fare := t.fare, journal := t.journal, exch := t.exch, host := t.host } ∧
      t.fare.fees = s.fare.fees ∧
      (∀ r ∈ discountRecs count bs, ∀ i : Fin 16, i.val = r.index →
        t.fare.discounts[i] = ⟨r.name, min r.rate 1000, r.step, r.min, r.adult, r.child⟩) ∧
      (∀ i : Fin 16, (∀ r ∈ discountRecs count bs, r.index ≠ i.val) → t.fare.discounts[i] = s.fare.discounts[i]) ∧
      GivesNothing s t ∧
      Answers s t o.slot 12 ⟨.done, 3, tag, s.office.clock,
        .discounts count ((discountRecs count bs).countP fun r => decide (1000 < r.rate))⟩) ∧
  (∀ (s : State) (o : OrderHdr) (ps : List (Nat × Nat)) (tag : Tag),
    Takeable s o.slot 12 tag → 1 ≤ ps.length → ps.length ≤ 4 → (∀ p ∈ ps, p.1 ≤ 3 ∧ p.2 ≤ 99999) →
    (ps.map Prod.fst).Nodup → (∀ p ∈ ps, p.1 = 3 → p.2 = 0) →
    ∃ t, exec (.setRefundFees o ps Env.quiet) s = .next t ∧
      t = { s with fare := t.fare, journal := t.journal, exch := t.exch, host := t.host } ∧
      t.fare.discounts = s.fare.discounts ∧
      (∀ p ∈ ps, ∀ i : Fin 4, i.val = p.1 → i ≠ 3 → t.fare.fees[i] = p.2) ∧
      (∀ i : Fin 4, (i = 3 ∨ ∀ p ∈ ps, p.1 ≠ i.val) → t.fare.fees[i] = s.fare.fees[i]) ∧
      GivesNothing s t ∧
      Answers s t o.slot 12 ⟨.done, 4, tag, s.office.clock, .fees t.fare.fees⟩) ∧
  (∀ (s : State) (o : OrderHdr) (index : Fin 16) (bs : List Byte) (fs : List LayoutField) (tag : Tag),
    Takeable s o.slot 12 tag → o.attached = true → 1 ≤ o.attLen → o.attLen ≤ 1024 → o.att = .data bs → index ≠ 0 →
    1 + 5 * fs.length ≤ bs.length → (byteAt bs 0).toNat = fs.length → 1 ≤ fs.length → fs.length ≤ 24 →
    (layoutRecs fs.length bs).map layoutFieldOf = fs.map some →
    (∀ r ∈ layoutRecs fs.length bs, r.row ≤ 15 ∧ r.col ≤ 63 ∧ 1 ≤ r.width ∧ r.width ≤ 40 ∧ r.size ≤ 1 ∧
      ¬ (r.size = 1 ∧ r.row = 15)) →
    ∃ t, exec (.setLayout o index.val Env.quiet) s = .next t ∧
      t = { s with issue := t.issue, journal := t.journal, exch := t.exch, host := t.host } ∧
      t.issue = { s.issue with layouts := t.issue.layouts } ∧
      t.issue.layouts[index] = fs ∧ (∀ i : Fin 16, i ≠ index → t.issue.layouts[i] = s.issue.layouts[i]) ∧
      GivesNothing s t ∧
      Answers s t o.slot 12 ⟨.done, 5, tag, s.office.clock, .layout index.val fs.length⟩) ∧
  ∀ (bs : List Byte) (n k : Nat), k < n →
    (24 * n ≤ bs.length → (discountRecs n bs)[k]? = some
      ⟨(byteAt bs (24 * k)).toNat, (bs.drop (24 * k + 1)).take 12, (byteAt bs (24 * k + 13)).getLsbD 0,
        (byteAt bs (24 * k + 13)).getLsbD 1, (byteAt bs (24 * k + 14)).toNat + 256 * (byteAt bs (24 * k + 15)).toNat,
        (byteAt bs (24 * k + 16)).toNat + 256 * (byteAt bs (24 * k + 17)).toNat + 65536 * (byteAt bs (24 * k + 18)).toNat +
          16777216 * (byteAt bs (24 * k + 19)).toNat,
        (byteAt bs (24 * k + 20)).toNat⟩) ∧
    (1 + 5 * n ≤ bs.length → (layoutRecs n bs)[k]? = some
      ⟨(byteAt bs (5 * k + 1)).toNat, (byteAt bs (5 * k + 2)).toNat, (byteAt bs (5 * k + 3)).toNat,
        (byteAt bs (5 * k + 4)).toNat, (byteAt bs (5 * k + 5)).toNat⟩)

/-! ### Orders of the Issue Controller -/

/-- R37, R44, R55 to R60, R29 to R32, R63, R85, R86: an ISSUE that passes the eight checks and finds a buffer raises the
reservation count, evicting the oldest entry of no current shift from a full table, composes its image into the buffer,
and joins its job to the lane's queue; its slot stays TAKEN with a copy of the order in its context, and the drawer's live
job count rises by 1. Its text items come from the body or from the attachment. -/
def Obligations.IssueTaken : Prop :=
  ∀ (s : State) (o : OrderHdr) (b : IssueBody) (w : Window) (tag : Tag) (f : IssueFields) (area : List Byte) (items : List Text)
    (l : Lane) (fig : Figures) (buf : Buffer),
    Takeable s o.slot w.castSucc tag →
    (o.attached = false ∧ area = b.area ∨ o.attached = true ∧ 1 ≤ o.attLen ∧ o.attLen ≤ 1024 ∧ o.att = .data area) →
    s.till[w].state = .opened →
    issueFields b = some f → 1 ≤ f.na + f.nc → textItems b.items area = some items →
    (f.choice = .lane l ∨ f.choice = .home ∧ l = s.till[w].home ∨ f.choice = .alternate ∧ s.till[w].alt = some l) →
    (s.lanes[l].state = .ready ∨ s.lanes[l].state = .printing ∨ s.lanes[l].state = .holding) →
    (∃ m, s.stock.mags[l] = some m ∧ m.kind = f.kind) →
    fare s.fare.discounts[f.discount] f.adult f.child f.na f.nc = some fig →
    (s.issue.table.length + s.issue.reserved < 4096 ∨
      ∃ e ∈ s.issue.table, s.till[e.window].state = .none ∨ s.till[e.window].shift ≠ e.shift) →
    pickBuffer s l = some buf →
    ∃ t u, exec (.issue o b Env.quiet) s = .next t ∧
      u = { s with
        issue := { s.issue with
          table := if s.issue.table.length + s.issue.reserved < 4096 then s.issue.table
            else s.issue.table.eraseP fun e => decide (s.till[e.window].state = .none ∨ s.till[e.window].shift ≠ e.shift)
          reserved := s.issue.reserved + 1 }
        images := s.images.upd buf fun _ => some (compose
          ⟨items, fig, f.na, f.nc, s.stock.kinds[f.kind].name, w, s.office.day, s.office.clock⟩ s.issue.layouts[f.layout])
        till := s.till.upd w fun d => { d with live := d.live + 1 } } ∧
      t = { joinLane l
          { slot := o.slot, window := w, tag := tag, shift := s.till[w].shift, lane := l, kind := f.kind, tender := f.tender,
            pAdult := fig.pAdult, pChild := fig.pChild, total := fig.total, discount := fig.name, retry := o.retry
            movable := o.movable, buffer := buf, serial := none, attempt := 1, spoilt := [], state := .queued, joinNo := 0,
            delivery := .carrying false } u with
        exch := t.exch, host := t.host } ∧
      GivesNothing s t ∧ TagTaken s t w.castSucc ∧ ExchangeKept s.exch t.exch ∧ OtherSlots [o.slot] s t ∧
      t.host.slots[o.slot] = ⟨2, s.host.slots[o.slot].answer⟩ ∧ t.exch.marks[o.slot] = s.exch.marks[o.slot] ∧
      t.exch.contexts[o.slot] = some ⟨13, BitVec.ofNat 8 w.val, tag, some
        ⟨o.attached, o.retry, o.movable, o.attLen, o.attAddr, .issue b, if o.attached then some area else none⟩⟩ ∧
      t.host.snapshot = s.host.snapshot

/-- R72, R73, R19, R34, R151: a VOID of a ticket of its own window's current shift makes the entry VOIDED, raises the drawer's
voids of the entry's tender and its voided count, moves one blank of the kind from issued to voided, and gives a VOIDED
entry. A REFUND of an ISSUED ticket makes the entry REFUNDED with the charged amount less the fee of the reason, or 0,
raises the posting drawer's refunds of the entry's tender by it, and gives a REFUNDED entry; the stock counters stand. The
fee in the answer is the fee of the reason (log entry 34). -/
def Obligations.TicketOrdersDone : Prop :=
  (∀ (s : State) (o : OrderHdr) (k : StockKind) (serial : Nat) (w : Window) (e : IssueEntry) (tag : Tag),
    Takeable s o.slot w.castSucc tag → s.till[w].state = .opened → serial ≤ 99999999 →
    s.issue.table.find? (fun x => decide (x.kind = k ∧ x.serial = serial)) = some e → e.state = .issued → e.window = w →
    e.shift = s.till[w].shift →
    ∃ t, exec (.void o k.val serial Env.quiet) s = .next t ∧
      t = { s with
        stock := t.stock, issue := t.issue, till := t.till, journal := t.journal, exch := t.exch, host := t.host } ∧
      t.stock = { s.stock with
        counters := s.stock.counters.upd k fun n => { n with issued := n.issued - 1, voided := n.voided + 1 } } ∧
      t.issue = { s.issue with
        table := s.issue.table.map fun x => if x.kind = k ∧ x.serial = serial then { x with state := .voided } else x } ∧
      OtherDrawers w s t ∧
      t.till[w] = { s.till[w] with
        acc := s.till[w].acc.upd e.tender fun a => { a with voids := min 99999999999 (a.voids + e.charged) }
        counts := { s.till[w].counts with voided := min 4294967295 (s.till[w].counts.voided + 1) }
        saturated := s.till[w].saturated || decide (99999999999 < (s.till[w].acc.get e.tender).voids + e.charged) } ∧
      Gives [.voided k serial w e.charged] s t ∧
      Answers s t o.slot w.castSucc ⟨.done, 14, tag, s.office.clock, .void k serial e.tender e.charged⟩) ∧
  ∀ (s : State) (o : OrderHdr) (k : StockKind) (serial : Nat) (reason : Fin 4) (w : Window) (e : IssueEntry) (tag : Tag),
    Takeable s o.slot w.castSucc tag → s.till[w].state = .opened → serial ≤ 99999999 →
    s.issue.table.find? (fun x => decide (x.kind = k ∧ x.serial = serial)) = some e → e.state = .issued →
    ∃ t amount, exec (.refund o k.val serial reason.val Env.quiet) s = .next t ∧
      amount = (if s.fare.fees[reason] ≤ e.charged then e.charged - s.fare.fees[reason] else 0) ∧
      t = { s with issue := t.issue, till := t.till, journal := t.journal, exch := t.exch, host := t.host } ∧
      t.issue = { s.issue with
        table := s.issue.table.map fun x =>
          if x.kind = k ∧ x.serial = serial then { x with state := .refunded w amount } else x } ∧
      OtherDrawers w s t ∧
      t.till[w] = { s.till[w] with
        acc := s.till[w].acc.upd e.tender fun a => { a with refunds := min 99999999999 (a.refunds + amount) }
        saturated := s.till[w].saturated || decide (99999999999 < (s.till[w].acc.get e.tender).refunds + amount) } ∧
      Gives [.refunded k serial w e.tender amount reason.val] s t ∧
      Answers s t o.slot w.castSucc ⟨.done, 15, tag, s.office.clock,
        .refund k serial e.tender e.charged s.fare.fees[reason] amount⟩

/-! ### Orders of the lanes -/

/-- R76, R80, R83, R108, R109: a LANE START of a lane OFF or PARKED moves it to STARTING, gives its LANE entry and begins its
link start. A LANE PARK of a lane that is OFF, READY or HOLDING and holds no job and no blank in doubt parks it and gives a
LANE entry; of a lane already PARKED it sets the reason SUPERVISOR and gives none. -/
def Obligations.LaneOrdersDone : Prop :=
  (∀ (s : State) (o : OrderHdr) (l : Lane) (tag : Tag),
    Takeable s o.slot 12 tag → (s.lanes[l].state = .off ∨ ∃ w, s.lanes[l].state = .parked w) →
    ∃ t, exec (.laneStart o l.val Env.quiet) s = .next t ∧
      t = { s with lanes := t.lanes, journal := t.journal, exch := t.exch, host := t.host } ∧
      OtherLanes l s t ∧ t.lanes[l] = startedLane s.office.settings s.lanes[l] ∧
      Gives [.lane l .starting .start] s t ∧
      Answers s t o.slot 12 ⟨.done, 9, tag, s.office.clock, .lane l .starting⟩) ∧
  ∀ (s : State) (o : OrderHdr) (l : Lane) (tag : Tag),
    Takeable s o.slot 12 tag →
    ((∃ w, s.lanes[l].state = .parked w) ∨
      (s.lanes[l].state = .off ∨ s.lanes[l].state = .ready ∨ s.lanes[l].state = .holding) ∧ s.lanes[l].queue = [] ∧
        s.lanes[l].out = [] ∧ ∀ d ∈ s.stock.doubts, d.lane ≠ l) →
    ∃ t, exec (.lanePark o l.val Env.quiet) s = .next t ∧
      t = { s with lanes := t.lanes, journal := t.journal, exch := t.exch, host := t.host } ∧
      OtherLanes l s t ∧
      ((∃ w, s.lanes[l].state = .parked w) →
        t.lanes[l] = { s.lanes[l] with state := .parked .supervisor } ∧ GivesNothing s t) ∧
      ((∀ w, s.lanes[l].state ≠ .parked w) →
        t.lanes[l] = parkedLane .supervisor s.lanes[l] ∧ Gives [.lane l (.parked .supervisor) .supervisor] s t) ∧
      Answers s t o.slot 12 ⟨.done, 10, tag, s.office.clock, .lane l (.parked .supervisor)⟩

/-- R142 to R146, R18, R119, R155: a FAULT CLEAR that passes every check makes its declarations in the order listed, then the
realign, then the resume when the lane is HOLDING and no entry of it is left; `v` is the state after the declarations. The
capture is removed by every realign that is carried (log entry 24). -/
def Obligations.FaultClearDone : Prop :=
  ∀ (s : State) (o : OrderHdr) (b : ClearBody) (l : Lane) (tag : Tag),
    Takeable s o.slot 12 tag → b.lane = l.val → b.decls.length ≤ 4 →
    (∀ d ∈ b.decls, d.serial ≤ 99999999 ∧ d.outcome ≠ none) → (b.decls.map Declaration.serial).Nodup →
    s.lanes[l].state ≠ .starting → (∀ d ∈ b.decls, ∃ e ∈ s.stock.doubts, e.lane = l ∧ e.serial = d.serial) →
    (∀ r, b.realign = some r → r ≤ 100000000 ∧ b.resume = true ∧ ¬ Working s l ∧
      (s.lanes[l].state ≠ .holding → s.lanes[l].queue = []) ∧
      (∀ e ∈ s.stock.doubts, e.lane = l → ∃ d ∈ b.decls, d.serial = e.serial) ∧
      ∃ m, s.stock.mags[l] = some m ∧ m.next ≤ r ∧ r ≤ m.last + 1) →
    ∃ (t v : State) (resumed : Bool) (passed : Option (Loaded × Nat)),
      exec (.faultClear o b Env.quiet) s = .next t ∧
      v = b.decls.foldl (fun u d => match d.outcome with
        | none => u
        | some oc => declareOne l u d.serial oc) s ∧
      resumed = (b.resume && decide (s.lanes[l].state = .holding) && !v.stock.doubts.any fun e => decide (e.lane = l)) ∧
      passed = (b.realign.bind fun r => v.stock.mags[l].bind fun m => if m.next < r then some (m, r) else none) ∧
      t = { v with
        stock := t.stock, lanes := t.lanes, faults := t.faults, journal := t.journal, exch := t.exch, host := t.host } ∧
      (t.stock = match passed with
        | none => v.stock
        | some (m, r) => { v.stock with
            mags := v.stock.mags.upd l fun _ => some { m with next := r }
            counters := v.stock.counters.upd m.kind fun c => { c with lost := c.lost + (r - m.next) } }) ∧
      OtherLanes l s t ∧
      (∃ q, q = (if b.realign.isSome then
            { s.lanes[l] with feed := { s.lanes[l].feed with last := none, since := 0 } } else s.lanes[l]) ∧
        t.lanes[l] = if resumed then
            { startedLane s.office.settings q with
              patience := if q.queue ≠ [] ∧ magSpent t.stock.mags[l] then q.patience else none }
          else q) ∧
      (∀ m, m ≠ l → t.faults.recs[m] = s.faults.recs[m]) ∧ t.faults.deferral = s.faults.deferral ∧
      (t.faults.recs[l] = if resumed then { s.faults.recs[l] with active := none } else s.faults.recs[l]) ∧
      (t.exch.alerts.lane = if resumed = true ∧ ∀ m : Lane, m ≠ l → s.faults.recs[m].active = none then false
        else s.exch.alerts.lane) ∧
      (∃ es, es = (match passed with
            | none => []
            | some (m, r) => [.lost m.kind m.next (r - m.next) l]) ++
          (if resumed then [.faultCleared l, .lane l .starting .cleared] else []) ∧
        t.journal = (giveAll es v).journal ∧ t.host.journal = (giveAll es v).host.journal) ∧
      AnsweredSlot t o.slot ⟨.done, 11, tag, s.office.clock, .faultClear l
        (v.stock.doubts.countP fun e => decide (e.lane = l)) resumed t.faults.recs[l].active.isSome
        (t.stock.mags[l].map Loaded.next)⟩ ∧
      TagTaken s t 12 ∧ SameRegisters s.exch t.exch

/-- R143, R8, R151, R153, R155: one declaration of a blank in doubt takes its entry from the In-Doubt List, counts the blank
by its outcome, settles its reservation and its window's drawer, and gives a RESOLVED entry; the cash-up condition of that
drawer is then tested. The model's choices: a serial that no entry of the lane has is declared without effect (log entry 33), and
the posting is to the drawer of the entry's window in whatever state and shift it stands, which is another than the entry's where
a blank charged 0 outlived its cash-up (log entry 47). -/
def Obligations.DeclarationSettles : Prop :=
  (∀ (s : State) (l : Lane) (n : Nat) (oc : DeclOutcome) (d : DoubtEntry),
    s.host.busIn = none → s.stock.doubts.find? (fun e => decide (e.lane = l ∧ e.serial = n)) = some d →
    ∃ t, declareOne l s n oc = testCashUp d.window t ∧
      t = { s with
        stock := t.stock, issue := t.issue, till := t.till, journal := t.journal, exch := t.exch, host := t.host } ∧
      t.stock = { s.stock with
        doubts := s.stock.doubts.filter fun e => decide (e ≠ d)
        counters := s.stock.counters.upd d.kind fun c => match oc with
          | .issued => { c with issued := c.issued + 1 }
          | .spoilt => { c with spoilt := c.spoilt + 1 }
          | .lost => { c with lost := c.lost + 1 } } ∧
      t.issue = { s.issue with
        reserved := s.issue.reserved - 1
        table := match oc with
          | .issued => s.issue.table ++ [⟨d.kind, d.serial, d.window, d.shift, d.tender, d.charged, .issued⟩]
          | _ => s.issue.table } ∧
      OtherDrawers d.window s t ∧
      (t.till[d.window] = match oc with
        | .issued => { s.till[d.window] with
            suspense := s.till[d.window].suspense - d.charged
            acc := s.till[d.window].acc.upd d.tender fun a => { a with sales := min 99999999999 (a.sales + d.charged) }
            counts := { s.till[d.window].counts with issued := min 4294967295 (s.till[d.window].counts.issued + 1) }
            saturated := s.till[d.window].saturated ||
              decide (99999999999 < (s.till[d.window].acc.get d.tender).sales + d.charged) }
        | .spoilt => { s.till[d.window] with
            suspense := s.till[d.window].suspense - d.charged
            counts := { s.till[d.window].counts with spoilt := min 4294967295 (s.till[d.window].counts.spoilt + 1) } }
        | .lost => { s.till[d.window] with
            suspense := s.till[d.window].suspense - d.charged
            counts := { s.till[d.window].counts with lost := min 4294967295 (s.till[d.window].counts.lost + 1) } }) ∧
      Gives [.resolved d.kind d.serial oc] s t ∧ t.exch = { s.exch with alerts := t.exch.alerts } ∧
      t.host = { s.host with journal := t.host.journal }) ∧
  ∀ (s : State) (l : Lane) (n : Nat) (oc : DeclOutcome), (∀ e ∈ s.stock.doubts, ¬ (e.lane = l ∧ e.serial = n)) →
    declareOne l s n oc = s

/-! ### Orders of the Till Unit -/

/-- R149, R154, R155, R159, R37, R42, R45: a SHIFT OPEN that passes every check fills the shift record, raises the shift
number, sets every accumulator and count to 0, opens the drawer and gives a SHIFT_OPEN entry. A CASH-UP of an OPEN drawer
with a live job or suspense leaves the drawer CLOSING with the pending cash-up, and its slot stays TAKEN with a copy of
the order in its context. A CASH-UP WITHDRAW of a CLOSING drawer, by its own window or by the supervisor naming it,
answers the pending cash-up's slot WITHDRAWN and its own DONE, and the drawer is OPEN again; the journal gate does not
matter. -/
def Obligations.DrawerOrdersDone : Prop :=
  (∀ (s : State) (o : OrderHdr) (clerk float : Nat) (home : Lane) (alt : Option Lane) (w : Window) (tag : Tag),
    Takeable s o.slot w.castSucc tag → s.till[w].state = .none → clerk ≤ 65535 → float ≤ 9999999 → alt ≠ some home →
    ∃ t shift, exec (.shiftOpen o clerk float home.val (alt.map Fin.val) Env.quiet) s = .next t ∧
      shift = (if s.till[w].shift = 65535 then 1 else s.till[w].shift + 1) ∧
      t = { s with till := t.till, journal := t.journal, exch := t.exch, host := t.host } ∧
      OtherDrawers w s t ∧
      t.till[w] = { s.till[w] with
        state := .opened, clerk := clerk, shift := shift, float := float, home := home, alt := alt
        openedAt := s.office.clock, acc := ⟨⟨0, 0, 0⟩, ⟨0, 0, 0⟩, ⟨0, 0, 0⟩, ⟨0, 0, 0⟩⟩, counts := ⟨0, 0, 0, 0⟩
        saturated := false } ∧
      Gives [.shiftOpen w clerk shift float] s t ∧
      Answers s t o.slot w.castSucc ⟨.done, 12, tag, s.office.clock, .shiftOpen shift s.office.clock⟩) ∧
  (∀ (s : State) (o : OrderHdr) (decl : ByTender Nat) (w : Window) (tag : Tag),
    Takeable s o.slot w.castSucc tag → s.till[w].state = .opened →
    (∀ T : Tender, decl.get T ≤ 99999999999) → (s.till[w].live ≠ 0 ∨ s.till[w].suspense ≠ 0) →
    ∃ t, exec (.cashUp o decl Env.quiet) s = .next t ∧
      t = { s with till := t.till, exch := t.exch, host := t.host } ∧
      OtherDrawers w s t ∧ t.till[w] = { s.till[w] with state := .closing, cashUp := some ⟨o.slot, tag, decl⟩ } ∧
      GivesNothing s t ∧ TagTaken s t w.castSucc ∧ ExchangeKept s.exch t.exch ∧ OtherSlots [o.slot] s t ∧
      t.host.slots[o.slot] = ⟨2, s.host.slots[o.slot].answer⟩ ∧ t.exch.marks[o.slot] = s.exch.marks[o.slot] ∧
      t.exch.contexts[o.slot] = some ⟨16, BitVec.ofNat 8 w.val, tag, some
        ⟨o.attached, o.retry, o.movable, o.attLen, o.attAddr, .cashUp decl, none⟩⟩ ∧ t.host.snapshot = s.host.snapshot) ∧
  ∀ (s : State) (o : OrderHdr) (window : Nat) (w : Window) (src : Source) (p : PendingCashUp) (tag : Tag),
    Offers s o.slot src tag → s.office.opened = true → (src = w.castSucc ∨ src = 12 ∧ window = w.val) →
    s.till[w].state = .closing → s.till[w].cashUp = some p → p.slot ≠ o.slot →
    ∃ t, exec (.cashUpWithdraw o window Env.quiet) s = .next t ∧
      t = { s with till := t.till, exch := t.exch, host := t.host } ∧
      OtherDrawers w s t ∧ t.till[w] = { s.till[w] with state := .opened, cashUp := none } ∧
      GivesNothing s t ∧
      AnsweredSlot t p.slot ⟨.withdrawn, 16, p.tag, s.office.clock, .withdrawn s.till[w].shift⟩ ∧
      AnsweredSlot t o.slot ⟨.done, 17, tag, s.office.clock, .withdraw w s.till[w].shift⟩ ∧
      TagTaken s t src ∧ OtherSlots [o.slot, p.slot] s t ∧ ExchangeKept s.exch t.exch ∧ t.host.snapshot = s.host.snapshot

/-- R155, R156, R157, R158, R46: the test of the cash-up condition, made at a job's end and at a declaration. A CLOSING drawer
that waits for its cash-up, with no live job and no suspense, is reconciled: its CASHUP entry is given, its cash-up's slot
is answered CASHED_UP, or the answer is held pending while the exchange does not run, and the drawer is NONE. In every
other case the test changes nothing. That blanks in doubt with a total of 0 do not hold it back is the model's choice (log
entry 19). -/
def Obligations.PendingCashUpSettles : Prop :=
  ∀ (s : State) (w : Window), s.host.busIn = none →
    ((s.till[w].cashUp = none ∨ s.till[w].state ≠ .closing ∨ s.till[w].live ≠ 0 ∨ s.till[w].suspense ≠ 0) →
      testCashUp w s = s) ∧
    ∀ p : PendingCashUp, s.till[w].cashUp = some p → s.till[w].state = .closing → s.till[w].live = 0 →
      s.till[w].suspense = 0 →
      ∃ (t : State) (lines : ByTender CashLine) (a : Answer), testCashUp w s = t ∧
        Reconciled s.till[w] s.office.settings.tolerance p.declared lines ∧
        a = ⟨.cashedUp, 16, p.tag, s.office.clock,
          .cashUp s.till[w].shift s.office.settings.tolerance lines s.till[w].counts s.till[w].saturated⟩ ∧
        t = { s with till := t.till, journal := t.journal, exch := t.exch, host := t.host } ∧
        OtherDrawers w s t ∧ t.till[w] = { s.till[w] with state := .none, cashUp := none } ∧
        Gives [.cashUp w s.till[w].shift (lines.map fun x => (x.variance, x.cls))] s t ∧
        (s.exch.state = .running → AnsweredSlot t p.slot a ∧ (∀ i, i ≠ p.slot → SlotKept s t i) ∧
          ExchangeKept s.exch t.exch) ∧
        (s.exch.state ≠ .running → t.exch.pendingAns = s.exch.pendingAns ++ [(p.slot, a)] ∧ ∀ i, SlotKept s t i) ∧
        t.exch.tags = s.exch.tags ∧ t.host.snapshot = s.host.snapshot

/-- R154 to R158: a CASH-UP of an OPEN drawer with no live job and no suspense completes at its take, with the expected,
declared and variance figures and the classes of R156 and R157. -/
def Obligations.CashUpCompletes : Prop :=
  ∀ (s : State) (o : OrderHdr) (decl : ByTender Nat) (w : Window) (tag : Tag),
    Takeable s o.slot w.castSucc tag → s.till[w].state = .opened →
    (∀ T : Tender, decl.get T ≤ 99999999999) → s.till[w].live = 0 → s.till[w].suspense = 0 →
    ∃ (t : State) (lines : ByTender CashLine), exec (.cashUp o decl Env.quiet) s = .next t ∧
      Reconciled s.till[w] s.office.settings.tolerance decl lines ∧
      t = { s with till := t.till, journal := t.journal, exch := t.exch, host := t.host } ∧
      OtherDrawers w s t ∧ t.till[w] = { s.till[w] with state := .none, cashUp := none } ∧
      Gives [.cashUp w s.till[w].shift (lines.map fun x => (x.variance, x.cls))] s t ∧
      Answers s t o.slot w.castSucc ⟨.cashedUp, 16, tag, s.office.clock,
        .cashUp s.till[w].shift s.office.settings.tolerance lines s.till[w].counts s.till[w].saturated⟩

/-! ### Orders of the Exchange Controller -/

/-- R49, R42, R45: a STATUS READ from any source, in any state of the gate and the office, writes the first bytes of a
snapshot of the attached blocks, as many as its length and at most 1,024, and is answered with both figures. That no journal
free count is reported while the last Release Word is absent (log entry 33), and that the remaining count of an EMPTY magazine
is reported as 0 (log entry 46), are the model's choices. -/
def Obligations.StatusReadDone : Prop :=
  ∀ (s : State) (o : OrderHdr) (dest : BitVec 64) (len : Nat) (src : Source) (tag : Tag),
    Offers s o.slot src tag →
    ∃ (t : State) (d : Snapshot), exec (.statusRead o dest len Env.quiet) s = .next t ∧
      t = { s with exch := t.exch, host := t.host } ∧
      (t.host.snapshot = if len = 0 then s.host.snapshot else some ⟨dest, min len 1024, d⟩) ∧
      (d.opened = s.office.opened ∧ d.day = s.office.day ∧ d.clock = s.office.clock ∧ d.exchange = .running ∧
        d.gateClosed = s.journal.closed) ∧
      (∀ l : Lane, d.lanes[l].state = s.lanes[l].state ∧ d.lanes[l].queue = s.lanes[l].queue.length ∧
        d.lanes[l].credits = s.lanes[l].credits ∧ d.lanes[l].cap = s.lanes[l].cap.getD 0 ∧
        d.lanes[l].magazine = s.stock.mags[l] ∧ d.lanes[l].act = s.lanes[l].act ∧
        (s.faults.recs[l].active = none → d.lanes[l].fault = ⟨false, none, none, [], 0⟩) ∧
        (∀ a, s.faults.recs[l].active = some a →
          d.lanes[l].fault = ⟨true, some a.first, some a.time, a.further, a.repeats⟩) ∧
        (s.stock.mags[l] = none → d.lanes[l].remaining = 0) ∧
        (∀ m, s.stock.mags[l] = some m → d.lanes[l].remaining = m.last + 1 - m.next) ∧
        d.freeReserved[l] = (List.finRange 48).countP fun b =>
          decide (b.val = 32 + 2 * l.val ∨ b.val = 33 + 2 * l.val) && s.images[b].isNone) ∧
      (d.freeShared = (List.finRange 48).countP (fun b => decide (b.val < 32) && s.images[b].isNone) ∧
        d.entries = s.issue.table.length ∧ d.reserved = s.issue.reserved ∧ d.holding = s.journal.holding.length ∧
        d.journalFree = (s.journal.release.map fun r => s.journal.n - 1 - (s.journal.head + (s.journal.n - r)) % s.journal.n)) ∧
      (∀ w : Window, d.drawers[w] = ⟨s.till[w].state, s.till[w].shift, s.till[w].clerk, s.till[w].live, s.till[w].suspense,
        s.till[w].saturated⟩) ∧
      (∀ k : StockKind, d.kinds[k].kind = s.stock.kinds[k] ∧ d.kinds[k].counters = s.stock.counters[k] ∧
        d.kinds[k].inOffice = blanksIn k s.stock.runs ∧
        d.kinds[k].inMagazines = ((List.finRange 8).map fun l => match s.stock.mags[l] with
          | none => 0
          | some m => if m.kind = k then m.last + 1 - m.next else 0).sum ∧
        d.kinds[k].inFlight = ((List.finRange 8).map fun l => s.lanes[l].out.countP fun j => decide (j.kind = k)).sum ∧
        d.kinds[k].inDoubt = s.stock.doubts.countP (fun e => decide (e.kind = k))) ∧
      d.runs = s.stock.runs.length ∧
      GivesNothing s t ∧ AnsweredSlot t o.slot ⟨.done, 18, tag, s.office.clock, .status 1024 (min len 1024)⟩ ∧
      TagTaken s t src ∧ OtherSlots [o.slot] s t ∧ ExchangeKept s.exch t.exch

/-! ### Orders that are refused -/

/-- R9 to R11, R13, R24, R27, R62, R76, R80, R142, R171, R172: the checks of the supervisor's orders, each list in its order:
the first check that fails gives the outcome, and the refused order changes nothing. The overlap of a received run is with
the five places of R9. Where check 6 of R142 names two outcomes BAD_FORM comes first (log entry 41), and an OFFICE OPEN in
the OPEN office is NOT_PERMITTED (log entry 42): the model's choices. -/
def Obligations.SupervisorRefusals : Prop :=
  (∀ (s : State) (o : OrderHdr) (tag : Tag) (oc : OrderOutcome), Takeable s o.slot 12 tag →
    (∀ kind first count : Nat, ¬ (kind < 4 ∧ 1 ≤ count ∧ count ≤ 100000 ∧ first + count - 1 ≤ 99999999) →
      Refused s (.stockReceive o kind first count Env.quiet) o 6 12 tag .outOfRange) ∧
    (∀ (k : StockKind) (first count : Nat), 1 ≤ count → count ≤ 100000 → first + count - 1 ≤ 99999999 →
      firstRefusal [
        (overlaps s k first count, .overlap),
        (decide (4294967295 < s.stock.counters[k].received + count), .countLimit),
        ((mergeRun k first count s.stock.runs).isNone, .runTableFull)] = some oc →
      Refused s (.stockReceive o k.val first count Env.quiet) o 6 12 tag oc) ∧
    (∀ lane kind first count : Nat,
      ¬ (lane < 8 ∧ kind < 4 ∧ 1 ≤ count ∧ count ≤ 100000 ∧ first + count - 1 ≤ 99999999) →
      Refused s (.magazineLoad o lane kind first count Env.quiet) o 7 12 tag .outOfRange) ∧
    (∀ (l : Lane) (k : StockKind) (first count : Nat), 1 ≤ count → count ≤ 100000 → first + count - 1 ≤ 99999999 →
      firstRefusal [
        (decide (¬ (s.lanes[l].state = .off ∨ s.lanes[l].state = .parked .supervisor ∨ s.lanes[l].state = .parked .day ∨
          s.lanes[l].state = .ready ∧ s.lanes[l].out = [])), .laneBusy),
        (s.stock.mags[l].isSome, .magazineLoaded),
        (s.lanes[l].queue.any fun j => decide (j.kind ≠ k), .wrongStock),
        (s.stock.runs.all fun r => !decide (r.kind = k ∧ r.first ≤ first ∧ first + count ≤ r.first + r.count), .notInStock),
        ((s.stock.runs.find? fun r => decide (r.kind = k ∧ r.first ≤ first ∧ first + count ≤ r.first + r.count)).any fun r =>
          decide (r.first < first ∧ first + count < r.first + r.count ∧ 32 ≤ s.stock.runs.length), .runTableFull)] = some oc →
      Refused s (.magazineLoad o l.val k.val first count Env.quiet) o 7 12 tag oc) ∧
    (∀ lane : Nat, 8 ≤ lane →
      Refused s (.magazineUnload o lane Env.quiet) o 8 12 tag .outOfRange ∧
      Refused s (.laneStart o lane Env.quiet) o 9 12 tag .outOfRange ∧
      Refused s (.lanePark o lane Env.quiet) o 10 12 tag .outOfRange) ∧
    (∀ l : Lane, firstRefusal [
        (decide (s.lanes[l].out ≠ []) || s.stock.doubts.any fun d => decide (d.lane = l), .laneBusy),
        (s.stock.mags[l].isNone, .notPermitted),
        (s.stock.mags[l].any fun m => decide (m.next ≤ m.last) &&
          (mergeRun m.kind m.next (m.last + 1 - m.next) s.stock.runs).isNone, .runTableFull)] = some oc →
      Refused s (.magazineUnload o l.val Env.quiet) o 8 12 tag oc) ∧
    (∀ l : Lane, firstRefusal [
        (decide (s.lanes[l].state = .starting), .busy),
        (decide (s.lanes[l].state = .ready ∨ s.lanes[l].state = .printing ∨ s.lanes[l].state = .holding), .notPermitted)]
          = some oc →
      Refused s (.laneStart o l.val Env.quiet) o 9 12 tag oc) ∧
    (∀ l : Lane, firstRefusal [
        (decide (s.lanes[l].state = .starting ∨ s.lanes[l].state = .printing), .laneBusy),
        (decide (s.lanes[l].state = .off ∨ s.lanes[l].state = .ready ∨ s.lanes[l].state = .holding) &&
          (decide (s.lanes[l].queue ≠ [] ∨ s.lanes[l].out ≠ []) || s.stock.doubts.any fun d => decide (d.lane = l)),
          .laneBusy)] = some oc →
      Refused s (.lanePark o l.val Env.quiet) o 10 12 tag oc) ∧
    (∀ (att : Option (List Byte)) (bs : List Byte) (count index n : Nat),
      (o.attached = false ∧ att = none ∨
        o.attached = true ∧ 1 ≤ o.attLen ∧ o.attLen ≤ 1024 ∧ o.att = .data bs ∧ att = some bs) →
      (firstRefusal [
          (att.all fun bs => !decide (1 ≤ count ∧ count ≤ 15 ∧ 24 * count ≤ bs.length), .badForm),
          ((discountRecs count bs).any fun r => decide (15 < r.index), .outOfRange),
          ((discountRecs count bs).any fun r => decide (r.index = 0), .notPermitted),
          (!decide ((discountRecs count bs).map DiscountRec.index).Nodup, .badForm),
          ((discountRecs count bs).any fun r => !decide (r.step = 1 ∨ r.step = 5 ∨ r.step = 10 ∨ r.step = 50), .badForm),
          ((discountRecs count bs).any fun r => decide (99999 < r.min), .outOfRange)] = some oc →
        Refused s (.setDiscounts o count Env.quiet) o 3 12 tag oc) ∧
      (n = (byteAt bs 0).toNat → firstRefusal [
          (att.all fun bs => decide (bs.length < 1 + 5 * n), .badForm),
          (decide (15 < index), .outOfRange),
          (decide (index = 0), .notPermitted),
          (decide (n = 0 ∨ 24 < n), .badForm),
          ((layoutRecs n bs).any fun r => decide (21 < r.source), .badForm),
          ((layoutRecs n bs).any fun r => decide (15 < r.row ∨ 63 < r.col ∨ r.width = 0 ∨ 40 < r.width ∨ 1 < r.size ∨
            r.size = 1 ∧ r.row = 15), .outOfRange)] = some oc →
        Refused s (.setLayout o index Env.quiet) o 5 12 tag oc)) ∧
    (∀ ps : List (Nat × Nat), firstRefusal [
        (decide (ps.length = 0 ∨ 4 < ps.length), .badForm),
        (ps.any fun p => decide (3 < p.1 ∨ 99999 < p.2), .outOfRange),
        (!decide (ps.map Prod.fst).Nodup, .badForm),
        (ps.any fun p => decide (p.1 = 3 ∧ p.2 ≠ 0), .notPermitted)] = some oc →
      Refused s (.setRefundFees o ps Env.quiet) o 4 12 tag oc) ∧
    (∀ b : ClearBody, 8 ≤ b.lane → oc = (if 4 < b.decls.length then .badForm else .outOfRange) →
      Refused s (.faultClear o b Env.quiet) o 11 12 tag oc) ∧
    (∀ (b : ClearBody) (l : Lane), b.lane = l.val → firstRefusal [
        (decide (4 < b.decls.length), .badForm),
        ((b.decls.any fun d => decide (99999999 < d.serial ∨ d.outcome = none)) || b.realign.any fun r => decide (100000000 < r),
          .outOfRange),
        (decide (s.lanes[l].state = .starting), .busy),
        (!decide (b.decls.map Declaration.serial).Nodup, .badForm),
        (b.decls.any fun d => s.stock.doubts.all fun e => !decide (e.lane = l ∧ e.serial = d.serial), .notFound),
        (b.realign.isSome && !b.resume, .badForm),
        (b.realign.isSome && decide (s.lanes[l].state = .ready ∨ s.lanes[l].state = .printing), .notPermitted),
        (b.realign.isSome && s.stock.doubts.any fun e =>
          decide (e.lane = l) && b.decls.all fun d => decide (d.serial ≠ e.serial), .badForm),
        (b.realign.any fun r => s.stock.mags[l].all fun m => !decide (m.next ≤ r ∧ r ≤ m.last + 1), .outOfRange)] = some oc →
      Refused s (.faultClear o b Env.quiet) o 11 12 tag oc) ∧
    ((∃ w : Window, s.till[w].state ≠ .none) ∨ (∃ l : Lane, s.lanes[l].queue ≠ [] ∨ s.lanes[l].out ≠ []) ∨
        s.stock.doubts ≠ [] → Refused s (.dayClose o Env.quiet) o 2 12 tag .notPermitted)) ∧
  (∀ (s : State) (o : OrderHdr) (tag : Tag) (oc : OrderOutcome) (b : OpenBody), Offers s o.slot 12 tag →
    s.journal.closed = false → firstRefusal [
      (s.office.opened, .notPermitted),
      (decide (b.day = 0 ∨ 65535 < b.day ∨ 99999 < b.tolerance ∨ b.rate = none ∨ ∃ k : StockKind,
        b.kinds[k].name.length ≠ 12 ∨ b.kinds[k].pitch < 100 ∨ 4000 < b.kinds[k].pitch ∨ b.kinds[k].tol = 0 ∨
        b.kinds[k].pitch / 4 < b.kinds[k].tol), .outOfRange)] = some oc →
    Refused s (.officeOpen o b Env.quiet) o 1 12 tag oc) ∧
  ∀ (s : State) (k : StockKind) (first count : Nat), 1 ≤ count →
    (overlaps s k first count = true ↔ ∃ n, first ≤ n ∧ n < first + count ∧
      (Holds s.stock.runs k n ∨
        (∃ (l : Lane) (m : Loaded), s.stock.mags[l] = some m ∧ m.kind = k ∧ m.next ≤ n ∧ n ≤ m.last) ∨
        (∃ l : Lane, ∃ j ∈ s.lanes[l].out, j.kind = k ∧ j.serial = some n) ∨
        (∃ d ∈ s.stock.doubts, d.kind = k ∧ d.serial = n) ∨ ∃ e ∈ s.issue.table, e.kind = k ∧ e.serial = n))

/-- R55 to R59, R72, R73, R149, R154, R159: the checks of the windows' orders, each list in its order: the first check that
fails gives the outcome, and the refused order changes nothing. An ISSUE that passes the seven checks and finds no buffer
stays POSTED, with nothing changed. -/
def Obligations.WindowRefusals : Prop :=
  (∀ (s : State) (o : OrderHdr) (w : Window) (tag : Tag) (oc : OrderOutcome), Takeable s o.slot w.castSucc tag →
    (∀ (clerk float home : Nat) (alt : Option Nat), firstRefusal [
        (decide (s.till[w].state ≠ .none), .shiftOpen),
        (decide (65535 < clerk ∨ 9999999 < float ∨ 8 ≤ home) || alt.any fun a => decide (8 ≤ a), .outOfRange),
        (decide (alt = some home), .badForm)] = some oc →
      Refused s (.shiftOpen o clerk float home alt Env.quiet) o 12 w.castSucc tag oc) ∧
    (∀ (b : IssueBody) (area : List Byte),
      (o.attached = false ∧ area = b.area ∨ o.attached = true ∧ 1 ≤ o.attLen ∧ o.attLen ≤ 1024 ∧ o.att = .data area) →
      (firstRefusal [
          (decide (s.till[w].state = .none), .noShift),
          (decide (s.till[w].state = .closing), .drawerClosing),
          (decide (¬ (b.choice < 8 ∨ b.choice = 16 ∨ b.choice = 17) ∨ 3 < b.kind ∨ 15 < b.layout ∨ 15 < b.discount ∨
            999999 < b.adult ∨ 999999 < b.child ∨ 9 < b.na ∨ 9 < b.nc ∨ 3 < b.tender ∨ 12 < b.items), .outOfRange),
          (decide (b.na + b.nc = 0), .badForm),
          ((textItems b.items area).isNone, .badForm),
          (decide (b.choice = 17 ∧ s.till[w].alt = none), .laneUnavailable)] = some oc →
        Refused s (.issue o b Env.quiet) o 13 w.castSucc tag oc) ∧
      ∀ (f : IssueFields) (items : List Text) (l : Lane) (sweep : Sweep), s.till[w].state = .opened → issueFields b = some f →
        1 ≤ f.na + f.nc → textItems b.items area = some items →
        (f.choice = .lane l ∨ f.choice = .home ∧ l = s.till[w].home ∨ f.choice = .alternate ∧ s.till[w].alt = some l) →
        (∀ refusal, refusal = firstRefusal [
            (decide (¬ (s.lanes[l].state = .ready ∨ s.lanes[l].state = .printing ∨ s.lanes[l].state = .holding)),
              .laneUnavailable),
            (s.stock.mags[l].all fun m => decide (m.kind ≠ f.kind), .wrongStock),
            ((fare s.fare.discounts[f.discount] f.adult f.child f.na f.nc).isNone, .fareRange),
            (decide (4096 ≤ s.issue.table.length + s.issue.reserved) && s.issue.table.all fun e =>
              decide (s.till[e.window].state ≠ .none ∧ s.till[e.window].shift = e.shift), .tableFull)] →
          (refusal = some oc → Refused s (.issue o b Env.quiet) o 13 w.castSucc tag oc) ∧
          (refusal = none → pickBuffer s l = none → s.exch.sweep = some sweep → w.castSucc ∉ sweep.remaining.tail →
            ∃ t, exec (.issue o b Env.quiet) s = .next t ∧ t = { s with exch := t.exch, host := t.host } ∧
              SlotKept s t o.slot ∧ t.exch.tags = s.exch.tags ∧ OtherSlots [o.slot] s t ∧ GivesNothing s t ∧
              ExchangeKept s.exch t.exch))) ∧
    (∀ kind serial reason : Nat,
      (firstRefusal [
          (decide (s.till[w].state = .none), .noShift),
          (decide (s.till[w].state = .closing), .drawerClosing),
          (decide (3 < kind ∨ 99999999 < serial), .outOfRange)] = some oc →
        Refused s (.void o kind serial Env.quiet) o 14 w.castSucc tag oc) ∧
      (firstRefusal [
          (decide (s.till[w].state = .none), .noShift),
          (decide (s.till[w].state = .closing), .drawerClosing),
          (decide (3 < kind ∨ 99999999 < serial ∨ 3 < reason), .outOfRange)] = some oc →
        Refused s (.refund o kind serial reason Env.quiet) o 15 w.castSucc tag oc)) ∧
    (∀ (k : StockKind) (serial : Nat) (reason : Fin 4) (e : Option IssueEntry), s.till[w].state = .opened →
      serial ≤ 99999999 → e = s.issue.table.find? (fun x => decide (x.kind = k ∧ x.serial = serial)) →
      (firstRefusal [
          (e.isNone, .notFound),
          (e.any fun x => decide (x.state ≠ .issued), .notIssuedState),
          (e.any fun x => decide (x.window ≠ w ∨ x.shift ≠ s.till[w].shift), .notThisShift)] = some oc →
        Refused s (.void o k.val serial Env.quiet) o 14 w.castSucc tag oc) ∧
      (firstRefusal [(e.isNone, .notFound), (e.any fun x => decide (x.state ≠ .issued), .notIssuedState)] = some oc →
        Refused s (.refund o k.val serial reason.val Env.quiet) o 15 w.castSucc tag oc)) ∧
    (∀ decl : ByTender Nat, firstRefusal [
        (decide (s.till[w].state = .none), .noShift),
        (decide (s.till[w].state = .closing), .busy),
        (decide (99999999999 < decl.cash ∨ 99999999999 < decl.card ∨ 99999999999 < decl.warrant ∨ 99999999999 < decl.voucher),
          .outOfRange)] = some oc →
      Refused s (.cashUp o decl Env.quiet) o 16 w.castSucc tag oc)) ∧
  ∀ (s : State) (o : OrderHdr) (src : Source) (window : Nat) (tag : Tag), Offers s o.slot src tag → s.office.opened = true →
    (src = 12 → 12 ≤ window → Refused s (.cashUpWithdraw o window Env.quiet) o 17 src tag .outOfRange) ∧
    ∀ w : Window, (src = w.castSucc ∨ src = 12 ∧ window = w.val) → s.till[w].state ≠ .closing →
      Refused s (.cashUpWithdraw o window Env.quiet) o 17 src tag .notPermitted

/-! ### The machine -/

/-- A step takes the command at the front of the queue and runs it on the state with the queue's rest; on an empty queue the
part idles (log entry 2: the model's choice). -/
def Obligations.StepRunsFrontCommand : Prop :=
  (∀ (c : Instr) (rest : List Instr) (s : State), s.pending = c :: rest → step s = exec c { s with pending := rest }) ∧
  ∀ s : State, s.pending = [] → step s = .next s

/-- In every state every command answers a next state, whose queue of commands is as it was: none faults and none is refused.
That a command out of its place, or in a state that the part cannot be in, changes nothing and is no refusal is the model's
choice (log entries 3 and 33). -/
def Obligations.EveryCommandCompletes : Prop :=
  ∀ (c : Instr) (s : State), ∃ t, exec c s = .next t ∧ t.pending = s.pending

/-- R23, R26, R61, R162, R168: entry 0 of the Discount Table, layout 0 and the fee of reason 3 stand through every step; the
ring as the part has written it stays in its canonical form (log entry 10); and the gate is OPEN while the last Release Word
is absent. -/
def Obligations.StepKeepsTablesAndJournal : Prop :=
  (∀ s t : State, FixedTables s → step s = .next t → FixedTables t) ∧
  (∀ s t : State, RingForm s → step s = .next t → RingForm t) ∧ ∀ s t : State, GateForm s → step s = .next t → GateForm t

/-- R94, R119, R135, R137, R147, R150: through every step the saturating counters, the fault records' repeat counts and
further kinds, and the drawers' accumulators stay in their ranges. -/
def Obligations.StepKeepsCountersBounded : Prop :=
  ∀ s t : State, CountersBounded s → step s = .next t → CountersBounded t

/-- R54, R75, R76, R79, R86, R88: through every step, in every lane with a started link, the credits and the jobs out make up
the reported K of 1..4; without one there are no credits and no job out; jobs are out in PRINTING alone; and every job of the
part has a buffer of its own that holds its image. -/
def Obligations.StepKeepsCredits : Prop :=
  ∀ s t : State, CreditsForm s → step s = .next t → CreditsForm t

/-- R37, R40, R46, R60, R154: through every step no two of the jobs, the pending cash-ups and the pending
answers belong to one slot, the slot of each has an order context, and the slot that a sweep offers has none. -/
def Obligations.StepKeepsSlots : Prop :=
  ∀ s t : State, CreditsForm s → SlotsForm s → step s = .next t → SlotsForm t

/-- R2, R5, R6, R20, R21, R133, R174: through every step the Office Runs keep their form, the magazines theirs, no serial is
held in two places, the stock conservation law holds of every kind, the Flight List names the blanks of the jobs out, and the
SENT jobs of a lane hold the serials up to the magazine's next without a gap. Outside a start-up period the law holds with
the blanks in flight counted as R6 does. -/
def Obligations.StepKeepsStock : Prop :=
  ∀ s t : State, CreditsForm s → StockForm s → step s = .next t → StockForm t ∧
    (t.office.startUp = none → ∀ k : StockKind, t.stock.counters[k].received =
      inOffice t k + inMagazines t k + inFlight t k + inDoubt t k + t.stock.counters[k].issued +
        t.stock.counters[k].voided + t.stock.counters[k].spoilt + t.stock.counters[k].lost)

/-- The forms that every step keeps, and the Office Runs' form within them, hold of State.reset. That State.reset is the state
after a POWER_ON reset with retention lost and its restart is the model's choice (log entry 1). -/
def Obligations.ResetMeetsForms : Prop :=
  FixedTables State.reset ∧ RingForm State.reset ∧ GateForm State.reset ∧ CountersBounded State.reset ∧
    CreditsForm State.reset ∧ SlotsForm State.reset ∧ StockForm State.reset ∧ RunsForm State.reset.stock.runs

/-! ### Resets and restarts -/

/-- R173, R53, R38, R50, R95, R98, R118, R162: a reset of each of the four kinds loses the jobs, images, link engines, feed
monitors, contexts, pending answers and registers, keeps the retained store, and begins the start-up period; that the live
counts and pending cash-ups go at the reset itself is the model's choice (log entry 32), and so is that the levels of the
input lines stand (log entry 8). The attention line is released (R51). -/
def Obligations.ResetLosesAllButRetained : Prop :=
  ∀ (c : Instr) (k : ResetKind) (s : State),
    (c, k) ∈ [(.powerOn, .powerOn), (.resetLine, .resetLine), (.softReset, .soft), (.linkReset, .linkReset)] →
    ∃ t, exec c s = .next t ∧
      t = { s with
        images := t.images, lanes := t.lanes, till := t.till, journal := t.journal, office := t.office, exch := t.exch
        host := t.host } ∧
      (∀ b : Buffer, t.images[b] = none) ∧
      (∀ l : Lane, t.lanes[l].state = s.lanes[l].state ∧ t.lanes[l].queue = [] ∧ t.lanes[l].out = [] ∧
        t.lanes[l].cap = none ∧ t.lanes[l].credits = 0 ∧ t.lanes[l].joinNo = 0 ∧ t.lanes[l].patience = none ∧
        t.lanes[l].repairRefs = [] ∧ t.lanes[l].act = ⟨0, 0, 0, 0, 0⟩ ∧ t.lanes[l].feed = ⟨0, none, 0⟩ ∧
        t.lanes[l].pins = s.lanes[l].pins ∧ t.lanes[l].link.phase = .idle ∧ t.lanes[l].link.ack = some false ∧
        t.lanes[l].link.fails = 0 ∧ t.lanes[l].link.poll = none ∧ t.lanes[l].link.repeatFrame = none ∧
        t.lanes[l].link.waiting = none ∧ t.lanes[l].link.awaited = none ∧ t.lanes[l].link.headFault = false ∧
        t.lanes[l].link.exchange = none) ∧
      (∀ w : Window, t.till[w] = { s.till[w] with live := 0, cashUp := none }) ∧
      t.journal = { s.journal with release := none, closed := false } ∧
      t.office = { s.office with
        cause := k
        startUp := some ⟨decide (k = .powerOn) || s.office.startUp.any StartUp.powerOn, !s.office.backupGood⟩ } ∧
      (t.exch.state = .stopped ∧ t.exch.enable = false ∧ t.exch.areaBase = 0 ∧ t.exch.period = 0 ∧
        t.exch.answerNotice = false ∧ t.exch.journalNotice = false ∧ t.exch.alertNotice = false ∧
        t.exch.alerts = ⟨false, false, false, false⟩ ∧ t.exch.timer = none ∧ t.exch.sweep = none ∧ t.exch.nextStart = 0 ∧
        t.exch.abortDue = true ∧ t.exch.pendingAns = [] ∧ t.exch.tags = s.exch.tags) ∧
      (∀ i : SlotNo, t.exch.marks[i] = false ∧ t.exch.contexts[i] = none) ∧
      t.host = { s.host with busIn := none } ∧
      readRegister t 0x14 = 4096 * resetCode k ∧ readRegister t 0x08 = 0 ∧ readRegister t 0x00 = 0 ∧ attention t = false

/-- R175, R176, R161, R95, R22, R23, R26, R61, R141, R147, R162, R170: at the end of the start-up period retention is LOST
when the period was decided as for POWER_ON and backup-good was found deasserted, and KEPT otherwise. With retention KEPT
each Flight List entry becomes a blank in doubt with its total in suspense, no job is live, a CLOSING drawer is OPEN, a
lane not PARKED is OFF, and the RESTART and IN_DOUBT entries are given. With retention LOST every retained record is
empty, as the tables give it, and one RESTART entry waits. The character codes of the names are the model's choice (log entry
44). -/
def Obligations.StartUpEnds : Prop :=
  ∀ (s : State) (u : StartUp), s.office.startUp = some u → s.host.busIn = none →
    ∃ t, exec .startUpEnd s = .next t ∧
      (¬ (u.powerOn = true ∧ u.bad = true) →
        t = { s with
          stock := t.stock, issue := t.issue, lanes := t.lanes, till := t.till, journal := t.journal, office := t.office
          exch := t.exch, host := t.host } ∧
        t.stock = { s.stock with doubts := s.stock.doubts ++ s.office.flight.map fun e =>
          ⟨e.kind, e.serial, e.lane, e.window, e.shift, e.total, e.tender, e.tag, .restart⟩ } ∧
        t.issue = { s.issue with reserved := s.stock.doubts.length + s.office.flight.length } ∧
        (∀ w : Window, t.till[w] = { s.till[w] with
          suspense := s.till[w].suspense + ((s.office.flight.filter fun e => decide (e.window = w)).map FlightEntry.total).sum
          live := 0, cashUp := none
          state := if s.till[w].state = .closing then .opened else s.till[w].state }) ∧
        (∀ l : Lane, (∀ p, s.lanes[l].state = .parked p → t.lanes[l] = s.lanes[l]) ∧
          ((∀ p, s.lanes[l].state ≠ .parked p) → t.lanes[l] = { s.lanes[l] with state := .off })) ∧
        t.office = { s.office with flight := [], kept := true, startUp := none } ∧
        Gives (.restart s.office.cause true s.office.flight.length 1 :: s.office.flight.map fun e =>
          .inDoubt e.kind e.serial e.lane e.window e.total .restart e.tag) s t ∧
        t.exch = { s.exch with alerts := t.exch.alerts } ∧ t.host = { s.host with journal := t.host.journal }) ∧
      (u.powerOn = true → u.bad = true →
        (∀ k : StockKind, t.stock.kinds[k] = ⟨List.replicate 12 0x20, 0, 0⟩ ∧ t.stock.counters[k] = ⟨0, 0, 0, 0, 0⟩) ∧
        t.stock.runs = [] ∧ (∀ l : Lane, t.stock.mags[l] = none) ∧ t.stock.doubts = [] ∧
        (t.fare.discounts[0] =
          ⟨[0x46, 0x55, 0x4C, 0x4C, 0x20, 0x46, 0x41, 0x52, 0x45, 0x20, 0x20, 0x20], 0, 1, 0, false, false⟩) ∧
        (∀ i : Fin 16, i ≠ 0 → t.fare.discounts[i] = ⟨List.replicate 12 0x20, 0, 1, 0, false, false⟩) ∧
        (∀ i : Fin 4, t.fare.fees[i] = 0) ∧ t.issue.table = [] ∧ t.issue.reserved = 0 ∧
        (∀ i : Fin 16, t.issue.layouts[i] = [⟨0, 0, 12, false, .kindName⟩, ⟨0, 48, 8, false, .serial⟩,
          ⟨2, 0, 7, true, .fareTotal⟩, ⟨5, 0, 2, false, .window⟩, ⟨5, 8, 5, false, .issueDay⟩]) ∧
        (∀ l : Lane, t.faults.recs[l] = ⟨none, none⟩) ∧ t.faults.deferral = [] ∧
        (∀ w : Window, t.till[w] = ⟨.none, 0, 0, 0, 0, none, 0, ⟨⟨0, 0, 0⟩, ⟨0, 0, 0⟩, ⟨0, 0, 0⟩, ⟨0, 0, 0⟩⟩, ⟨0, 0, 0, 0⟩,
          false, 0, 0, none⟩) ∧ t.images = s.images ∧
        (∀ l : Lane, t.lanes[l] = { s.lanes[l] with state := .off }) ∧
        t.office = { s.office with
          opened := false, day := 0, settings := ⟨0, 0, .r250k, 1, 5, 10⟩, clock := 0, kept := false, startUp := none
          flight := [] } ∧
        t.journal = ⟨0, 0, 0, 0, none, [⟨0, 0, .restart s.office.cause false 0 1⟩], [], false⟩ ∧
        (∀ v : Source, t.exch.tags[v] = 0) ∧
        t.exch = { s.exch with tags := t.exch.tags, alerts := { s.exch.alerts with retentionLost := true } } ∧
        t.host = s.host)

/-- R170, R173, R94: a tenth of a second raises the Office Clock outside the start-up period alone; a change of backup-good
counts as a sample of a start-up period in progress; ten milliseconds raise the queue occupancy of every lane not PARKED by
its queue length. -/
def Obligations.TimePasses : Prop :=
  ∀ s : State,
    (∃ t, exec .officeClockTick s = .next t ∧ t = { s with office := t.office } ∧
      t.office = if s.office.startUp.isSome then s.office else { s.office with clock := s.office.clock + 1 }) ∧
    (∀ good : Bool, ∃ t, exec (.backupGoodChange good) s = .next t ∧ t = { s with office := t.office } ∧
      t.office = { s.office with
        backupGood := good, startUp := s.office.startUp.map fun u => ⟨u.powerOn, u.bad || !good⟩ }) ∧
    (∃ t, exec .queueOccupancySample s = .next t ∧ t = { s with lanes := t.lanes } ∧
      ∀ l : Lane, (∀ p, s.lanes[l].state = .parked p → t.lanes[l] = s.lanes[l]) ∧
        ((∀ p, s.lanes[l].state ≠ .parked p) → t.lanes[l] = { s.lanes[l] with
          act := { s.lanes[l].act with
            occupancy := min 4294967295 (s.lanes[l].act.occupancy + s.lanes[l].queue.length) } }))

/-! ### Figures and lists -/

/-- R30, R31, R33: the per-person figure of a class that an entry applies to comes of the four steps, and of any other class
is its base or, for a count of 0, 0; no figure exceeds its base, and a total that is not refused is the sum of the two lines
and at most 9,999,999. -/
def Obligations.FareFigures : Prop :=
  (∀ (d : Discount) (base count : Nat), d.rate ≤ 1000 → 1 ≤ count →
    perPerson d true base count = max ((base - base * d.rate / 1000) / d.step * d.step) (min d.min base) ∧
    perPerson d true base count ≤ base ∧ perPerson d false base count = base ∧ perPerson d true base 0 = 0 ∧
    perPerson d false base 0 = 0) ∧
  ∀ (d : Discount) (adult child na nc : Nat) (f : Figures), d.rate ≤ 1000 → fare d adult child na nc = some f →
    f.total = f.pAdult * na + f.pChild * nc ∧ f.pAdult = perPerson d d.adult adult na ∧
    f.pChild = perPerson d d.child child nc ∧ f.name = d.name ∧
    f.pAdult ≤ adult ∧ f.pChild ≤ child ∧ f.total ≤ na * adult + nc * child ∧ f.total ≤ 9999999

/-- R2, R3, R4: a range returned to the Office Runs, which none of them holds a serial of, is merged with its neighbours: the
list keeps its form and then holds the range beside what it held, its length changes as the table gives, and the insertion
fails only where a new run is needed and the list holds 32. A range that lies inside one run is taken out of it: the list
keeps its form, holds no serial of the range, holds what else it held, and a range that touches neither end of the run makes
one run more. -/
def Obligations.RunsMergeAndSplit : Prop :=
  (∀ (k : StockKind) (f c : Nat) (rs : List Run), 1 ≤ c → RunsForm rs → (∀ n, f ≤ n → n < f + c → ¬ Holds rs k n) →
    (mergeRun k f c rs = none ↔
      (∀ r ∈ rs, ¬ (r.kind = k ∧ r.first + r.count = f)) ∧ (∀ r ∈ rs, ¬ (r.kind = k ∧ r.first = f + c)) ∧ 32 ≤ rs.length) ∧
    ∀ rs', mergeRun k f c rs = some rs' →
      RunsForm rs' ∧ (∀ q n, Holds rs' q n ↔ Holds rs q n ∨ q = k ∧ f ≤ n ∧ n < f + c) ∧
      blanksIn k rs' = blanksIn k rs + c ∧ (∀ q, q ≠ k → blanksIn q rs' = blanksIn q rs) ∧
      rs'.length + (rs.countP fun r => decide (r.kind = k ∧ (r.first + r.count = f ∨ r.first = f + c))) = rs.length + 1) ∧
  ∀ (k : StockKind) (f c : Nat) (rs : List Run) (r : Run), 1 ≤ c → RunsForm rs → r ∈ rs → r.kind = k → r.first ≤ f →
    f + c ≤ r.first + r.count →
    RunsForm (takeRange k f c rs) ∧
    (∀ q n, Holds (takeRange k f c rs) q n ↔ Holds rs q n ∧ ¬ (q = k ∧ f ≤ n ∧ n < f + c)) ∧
    blanksIn k (takeRange k f c rs) + c = blanksIn k rs ∧
    (∀ q, q ≠ k → blanksIn q (takeRange k f c rs) = blanksIn q rs) ∧
    (takeRange k f c rs).length + 1 =
      rs.length + (if r.first < f then 1 else 0) + (if f + c < r.first + r.count then 1 else 0)

/-- R18: a realign to a serial past next raises lost of the kind by the serials passed over, sets next, lowers the kind's
in-magazines count by the same and gives one LOST entry; a realign to next changes nothing; one to last + 1 leaves the
magazine exhausted. -/
def Obligations.RealignLosesBlanks : Prop :=
  ∀ (s : State) (l : Lane) (m : Loaded) (r : Nat), s.host.busIn = none → s.stock.mags[l] = some m → m.next ≤ r →
    r ≤ m.last + 1 →
    (r = m.next → realign l r s = s) ∧
    (m.next < r → ∃ t, realign l r s = t ∧
      t = { s with stock := t.stock, journal := t.journal, exch := t.exch, host := t.host } ∧
      t.stock = { s.stock with
        mags := s.stock.mags.upd l fun _ => some { m with next := r }
        counters := s.stock.counters.upd m.kind fun c => { c with lost := c.lost + (r - m.next) } } ∧
      inMagazines t m.kind + (r - m.next) = inMagazines s m.kind ∧
      (r = m.last + 1 → magSpent t.stock.mags[l] = true) ∧
      Gives [.lost m.kind m.next (r - m.next) l] s t ∧
      t.exch = { s.exch with alerts := t.exch.alerts } ∧ t.host = { s.host with journal := t.host.journal })

/-- R96, R99, R101: the bytes of a frame are sent bit by bit, least significant bit first, and every well-formed report is
read back from the bits in which it is sent. -/
def Obligations.ReportsReadBack : Prop :=
  (∀ (b : Byte) (bs : List Byte), lineBits (b :: bs) =
    [b.getLsbD 0, b.getLsbD 1, b.getLsbD 2, b.getLsbD 3, b.getLsbD 4, b.getLsbD 5, b.getLsbD 6, b.getLsbD 7] ++
      lineBits bs) ∧
  ∀ r : Report, r.wellFormed = true → readLine (lineBits r.bytes) = .report r

/-- R56, R63, R64, R86, R99, R100: an image has one field for each field of the layout, in order, its text cut or padded to
the printable length, a figure that does not fit as asterisks. An IMAGE frame carries the reference, the part, the serial,
the kind, the field count and the fields; the first of two parts carries as many leading fields as fit in 1,000 bytes, the
second the rest. The check is the CRC of the polynomial x^16 + x^12 + x^5 + 1 from all ones, 0x29B1 over "123456789". The
text items of an ISSUE follow one another, each behind its length. A buffer is given for a lane from the shared ones, the
lowest free first, then from the lane's pair. The codes of the characters that the part composes, the space, the asterisk, A
and C, are the model's choice (log entry 44). -/
def Obligations.ImagesAndFrames : Prop :=
  (∀ (d : ImageData) (layout : List LayoutField), (compose d layout).length = layout.length ∧
    ∀ (i : Nat) (f : LayoutField), layout[i]? = some f →
      ∃ (g : ImageField) (n : Nat) (left : Bool) (text : Text), (compose d layout)[i]? = some g ∧
        n = min f.width (if f.double then (64 - f.col) / 2 else 64 - f.col) ∧
        (left, text) = (match f.source with
          | .text k => (true, d.items.getD k.val [])
          | .fareTotal => (false, decimal d.figures.total)
          | .adultFare => (false, decimal d.figures.pAdult)
          | .childFare => (false, decimal d.figures.pChild)
          | .passengers => (true, decimal d.na ++ [0x41, 0x20] ++ decimal d.nc ++ [0x43])
          | .discountName => (true, d.figures.name)
          | .serial => (false, List.replicate n 0x2A)
          | .kindName => (true, d.kindName)
          | .window => (false, fixedDigits 2 d.window.val)
          | .issueDay => (false, decimal d.day)
          | .issueTime => (false, decimal d.time.toNat)) ∧
        g.row = f.row ∧ g.col = f.col ∧ g.double = f.double ∧ (g.serial = true ↔ f.source = .serial) ∧
        g.text = if left then (text ++ List.replicate n 0x20).take n
          else if text.length ≤ n then List.replicate (n - text.length) 0x20 ++ text else List.replicate n 0x2A) ∧
  (∀ n : Nat, n < 10 ^ 20 → (∀ c ∈ decimal n, 48 ≤ c.toNat ∧ c.toNat ≤ 57) ∧
    (decimal n).foldl (fun v c => 10 * v + (c.toNat - 48)) 0 = n ∧ ((decimal n).head? = some 0x30 → decimal n = [0x30])) ∧
  (∀ w n : Nat, (fixedDigits w n).length = w ∧ (∀ c ∈ fixedDigits w n, 48 ≤ c.toNat ∧ c.toNat ≤ 57) ∧
    (fixedDigits w n).foldl (fun v c => 10 * v + (c.toNat - 48)) 0 = n % 10 ^ w) ∧
  (∀ fs : List ImageField, ∃ first rest : List ImageField, splitFields 992 fs = (first, rest) ∧ fs = first ++ rest ∧
    (first.map fun f => 3 + f.text.length).sum ≤ 992 ∧
    ∀ f later, rest = f :: later → 992 < (first.map fun f => 3 + f.text.length).sum + (3 + f.text.length)) ∧
  (∀ (ref : Buffer) (part serial : Nat) (kind : StockKind) (im fs : List ImageField) (payload head : List Byte),
    fs = (if part = 1 then (splitFields 992 im).1 else if part = 2 then (splitFields 992 im).2 else im) →
    payload = [BitVec.ofNat 8 ref.val, BitVec.ofNat 8 part, BitVec.ofNat 8 serial, BitVec.ofNat 8 (serial / 256),
        BitVec.ofNat 8 (serial / 65536), BitVec.ofNat 8 (serial / 16777216), BitVec.ofNat 8 kind.val,
        BitVec.ofNat 8 fs.length] ++
      fs.flatMap (fun f => [BitVec.ofNat 8 (f.row % 16 + if f.double then 16 else 0), BitVec.ofNat 8 f.col,
        BitVec.ofNat 8 f.text.length] ++ f.text) →
    head = [0x02, BitVec.ofNat 8 payload.length, BitVec.ofNat 8 (payload.length / 256)] →
    imageBytes ref part serial kind im = (0x96 : Byte) :: (head ++ payload ++
      [(crc (head ++ payload) >>> 8).setWidth 8, (crc (head ++ payload)).setWidth 8])) ∧
  (crc [] = 0xFFFF ∧ (∀ (bs : List Byte) (b : Byte), crc (bs ++ [b]) = (List.range 8).foldl
      (fun c _ => if c.getLsbD 15 then (c <<< 1) ^^^ 0x1021 else c <<< 1) (crc bs ^^^ (b.setWidth 16 <<< 8))) ∧
    crc [0x31, 0x32, 0x33, 0x34, 0x35, 0x36, 0x37, 0x38, 0x39] = 0x29B1) ∧
  (∀ (n : Nat) (area : List Byte) (items : List Text), textItems n area = some items ↔
    items.length = n ∧ (∀ i ∈ items, i.length ≤ 40) ∧
      ∃ rest, area = (items.flatMap fun i => BitVec.ofNat 8 i.length :: i) ++ rest) ∧
  ∀ (s : State) (l : Lane) (b : Buffer), pickBuffer s l = some b ↔ s.images[b] = none ∧
    (b.val < 32 ∧ (∀ c : Buffer, c < b → s.images[c] ≠ none) ∨
      (∀ c : Buffer, c.val < 32 → s.images[c] ≠ none) ∧ (b.val = 32 + 2 * l.val ∨
        b.val = 33 + 2 * l.val ∧ ∀ c : Buffer, c.val = 32 + 2 * l.val → s.images[c] ≠ none))

/-! ### The journal -/

/-- R163, R164, R165, R168: a written entry has 64 bytes, of which those of the kind fields that are not used are zero (which
of them are used is the free value of log entry 11). An entry given while the exchange runs, with nothing waiting and room
in the ring, is written at the head with the day and time of its event, the sequence number and the pass count; every
other address of the ring reads as before, the head moves on, and the gate closes when the free count falls below 64. An
entry given while the exchange does not run, while no Release Word was read, while entries wait in the holding queue or while
the ring has no room joins the holding queue, as long as it holds fewer than 256 and nothing waits behind it, and the gate
closes if a Release Word was read. -/
def Obligations.EntryIsPlaced : Prop :=
  (∀ (s : State) (b : EntryBody), s.host.busIn = none → s.journal.overflow = [] →
    (∀ r : Nat, s.exch.state = .running → s.journal.holding = [] → s.journal.release = some r →
      (s.journal.head + (s.journal.n - r)) % s.journal.n + 2 ≤ s.journal.n →
      ∃ (t : State) (a : Nat), give b s = t ∧
        a = ((s.exch.areaBase &&& 0xFFFFFFFFFFFFF000).toNat + s.exch.latchedOffset + 64 * s.journal.head) % 2 ^ 64 ∧
        t = { s with journal := t.journal, exch := t.exch, host := t.host } ∧
        Memory.read a t.host.journal = some ⟨⟨s.office.day, s.office.clock, b⟩, s.journal.seq, s.journal.pass⟩ ∧
        (∀ c, c ≠ a → Memory.read c t.host.journal = Memory.read c s.host.journal) ∧
        t.host = { s.host with journal := t.host.journal } ∧
        t.journal = { s.journal with
          seq := s.journal.seq + 1
          head := if s.journal.head + 1 = s.journal.n then 0 else s.journal.head + 1
          pass := if s.journal.head + 1 = s.journal.n then s.journal.pass + 1 else s.journal.pass
          closed := t.journal.closed } ∧
        (t.journal.closed = true ↔ s.journal.closed = true ∨
          s.journal.n - 1 - (t.journal.head + (s.journal.n - r)) % s.journal.n < 64) ∧
        t.exch = { s.exch with
          alerts := { s.exch.alerts with
            pressure := s.exch.alerts.pressure || (t.journal.closed && !s.journal.closed) } }) ∧
    ((s.exch.state ≠ .running ∨ s.journal.holding ≠ [] ∨
        ∀ r : Nat, s.journal.release = some r → s.journal.n < (s.journal.head + (s.journal.n - r)) % s.journal.n + 2) →
      s.journal.holding.length < 256 →
      ∃ t, give b s = t ∧ t = { s with journal := t.journal, exch := t.exch } ∧
        t.journal = { s.journal with
          holding := s.journal.holding ++ [⟨s.office.day, s.office.clock, b⟩]
          closed := s.journal.closed || s.journal.release.isSome } ∧
        t.exch = { s.exch with
          alerts := { s.exch.alerts with
            pressure := s.exch.alerts.pressure || (t.journal.closed && !s.journal.closed) } })) ∧
  ∀ w : Written, (entryBytes w).length = 64 ∧ (entryBytes w).take 16 = entryHeader w ∧
    ∀ i, 16 + (byteAt (entryHeader w) 1).toNat ≤ i → i < 64 → (entryBytes w)[i]? = some 0

/-- R140, R165, R166, R168: an entry that can neither be written nor join the holding queue comes to the overflow line. A
SPOILT entry of cause UNEXPECTED_FEED is folded into the first like entry of the line with a count below 65,535, a RESTART
entry into the first RESTART entry of it, and every other entry, or one with none to be folded into, joins at the back. A
FAULT entry is deferred in its lane's record instead, with the lane's place at the back of the line, and while one is
deferred the lane gives no other. The gate closes while the last Release Word is present. -/
def Obligations.EntriesWait : Prop :=
  ∀ (s : State), (s.journal.overflow ≠ [] ∨ 256 ≤ s.journal.holding.length) →
    (∀ b : EntryBody, ∃ t, give b s = t ∧ t = { s with journal := t.journal, exch := t.exch } ∧
      t.journal = { s.journal with overflow := t.journal.overflow, closed := s.journal.closed || s.journal.release.isSome } ∧
      t.exch = { s.exch with alerts := { s.exch.alerts with
        pressure := s.exch.alerts.pressure || (s.journal.release.isSome && !s.journal.closed) } } ∧
      (∀ (k : StockKind) (n : Nat) (l : Lane) (before later : List OverflowItem) (day first last count : Nat)
        (time : BitVec 32) (w : Option Window),
        b = .spoilt k n n 1 l none .unexpectedFeed →
        s.journal.overflow = before ++ .entry ⟨day, time, .spoilt k first last count l w .unexpectedFeed⟩ :: later →
        count < 65535 →
        (∀ d u f g c v, .entry ⟨d, u, .spoilt k f g c l v .unexpectedFeed⟩ ∈ before → 65535 ≤ c) →
        t.journal.overflow =
          before ++ .entry ⟨day, time, .spoilt k first n (count + 1) l w .unexpectedFeed⟩ :: later) ∧
      (∀ (c cause : ResetKind) (kept q : Bool) (blanks old restarts : Nat) (before later : List OverflowItem) (day : Nat)
        (time : BitVec 32),
        b = .restart cause kept blanks 1 →
        s.journal.overflow = before ++ .entry ⟨day, time, .restart c q old restarts⟩ :: later →
        (∀ d u x y z v, .entry ⟨d, u, .restart x y z v⟩ ∉ before) →
        t.journal.overflow =
          before ++ .entry ⟨day, time, .restart cause kept (old + blanks) (min 255 (restarts + 1))⟩ :: later) ∧
      ((∀ k f n c l w, b = .spoilt k f n c l w .unexpectedFeed →
          ∀ d u g h i v, .entry ⟨d, u, .spoilt k g h i l v .unexpectedFeed⟩ ∈ s.journal.overflow → 65535 ≤ i) →
        (∀ c q n r, b = .restart c q n r → ∀ d u x y z v, .entry ⟨d, u, .restart x y z v⟩ ∉ s.journal.overflow) →
        t.journal.overflow = s.journal.overflow ++ [.entry ⟨s.office.day, s.office.clock, b⟩])) ∧
    ∀ (l : Lane) (k : FaultKind) (recovered : Bool) (repeats : Nat),
      (s.faults.recs[l].deferred ≠ none → giveFault l k recovered repeats s = s) ∧
      (s.faults.recs[l].deferred = none → ∃ t, giveFault l k recovered repeats s = t ∧
        t = { s with faults := t.faults, journal := t.journal, exch := t.exch } ∧
        t.faults = ⟨s.faults.recs.upd l fun r => { r with deferred := some (k, recovered) }, s.faults.deferral ++ [l]⟩ ∧
        t.journal = { s.journal with
          overflow := s.journal.overflow ++ [.place l], closed := s.journal.closed || s.journal.release.isSome } ∧
        t.exch = { s.exch with alerts := { s.exch.alerts with
          pressure := s.exch.alerts.pressure || (s.journal.release.isSome && !s.journal.closed) } })

/-! ### The exchange -/

/-- R36, R38, R39, R50, R51, R53: what a write to each register does, and the writes that the table names on their own; a
write that sets SOFT_RESET is a reset of kind SOFT, an enable bit already held changes nothing, and an offset of no
register ignores the write (log entry 30). A set enable leaves a stop due at the end of the sweep in progress (log entry
20), and an expiry of the sweep timer where none runs or during a sweep changes nothing (log entry 3): the model's
choices. In RUNNING an expiry of the running sweep timer and a write to Sweep Request begin a sweep, a request during a
sweep causes one further sweep, and in the other exchange states both change nothing. -/
def Obligations.RegisterWritesAndSweepStarts : Prop :=
  ∀ (s : State) (v : BitVec 64),
    (∃ t, exec (.areaBaseWrite v) s = .next t ∧ exec (.registerWrite 0x00 v) s = .next t ∧ t = { s with exch := t.exch } ∧
      t.exch = { s.exch with areaBase := if s.exch.state = .stopped then v else s.exch.areaBase }) ∧
    (v.getLsbD 1 = true → exec (.registerWrite 0x08 v) s = exec .softReset s) ∧
    (v.getLsbD 1 = false → ∃ t u, exec (.registerWrite 0x08 v) s = .next t ∧
      exec (if v.getLsbD 0 then .exchangeEnableSet else .exchangeEnableClear) s = .next u ∧
      exec (.noticeEnableWrite (v.getLsbD 4) (v.getLsbD 5) (v.getLsbD 6)) u = .next t) ∧
    (∀ a j n, ∃ t, exec (.noticeEnableWrite a j n) s = .next t ∧
      t = { s with exch := { s.exch with answerNotice := a, journalNotice := j, alertNotice := n } }) ∧
    (∃ t, exec (.registerWrite 0x0C v) s = .next t ∧ t = { s with exch := { s.exch with period := v.setWidth 8 } }) ∧
    (exec (.registerWrite 0x10 v) s = exec (.sweepRequest (v.setWidth 32)) s) ∧
    (∃ t, exec (.registerWrite 0x14 v) s = .next t ∧ exec (.alertClear (v.setWidth 32)) s = .next t ∧
      t = { s with exch := { s.exch with alerts :=
        ⟨s.exch.alerts.lane && !v.getLsbD 16, s.exch.alerts.pressure && !v.getLsbD 17, s.exch.alerts.busFault && !v.getLsbD 18,
          s.exch.alerts.retentionLost && !v.getLsbD 19⟩ } }) ∧
    (∀ off, off ∉ [0x00, 0x08, 0x0C, 0x10, 0x14] → exec (.registerWrite off v) s = .next s) ∧
    (∃ t, exec .exchangeEnableSet s = .next t ∧ t = { s with exch := t.exch } ∧
      t.exch = if s.exch.enable then s.exch else
        { s.exch with enable := true, state := if s.exch.state = .stopped then .starting else s.exch.state }) ∧
    (∃ t, exec .exchangeEnableClear s = .next t ∧ t = { s with exch := t.exch } ∧
      t.exch = if s.exch.enable = false then s.exch
        else if s.exch.sweep.isSome then { s.exch with enable := false, stopAtEnd := true }
        else { s.exch with enable := false, state := .stopped, timer := none, again := false }) ∧
    (∃ t, exec .sweepTimerExpiry s = .next t ∧ t = { s with exch := t.exch } ∧
      t.exch = if s.exch.state = .running ∧ s.exch.sweep = none ∧ s.exch.timer ≠ none then
        { s.exch with sweep := some Sweep.fresh, timer := none, again := false } else s.exch) ∧
    (∀ r : BitVec 32, ∃ t, exec (.sweepRequest r) s = .next t ∧ t = { s with exch := t.exch } ∧
      t.exch = if s.exch.state ≠ .running then s.exch
        else if s.exch.sweep ≠ none then { s.exch with again := true }
        else { s.exch with sweep := some Sweep.fresh, timer := none, again := false })

/-- R47, R50, R51, R53: the attention line is asserted exactly when an enabled notice has its condition: an answered mark, a
head that differs from the last Release Word, an alert flag. A register reads its fields at their places, and an offset of no
register, Sweep Request and the bits not named read 0. After a reset with retention Journal Head reads the retained head and
pass count (log entry 38: the model's choice). -/
def Obligations.AttentionAndRegisters : Prop :=
  (∀ s : State, attention s = true ↔
    (s.exch.answerNotice = true ∧ ∃ i : SlotNo, s.exch.marks[i] = true) ∨
    (s.exch.journalNotice = true ∧ ∃ r, s.journal.release = some r ∧ r ≠ s.journal.head) ∨
    (s.exch.alertNotice = true ∧ (s.exch.alerts.lane = true ∨ s.exch.alerts.pressure = true ∨
      s.exch.alerts.busFault = true ∨ s.exch.alerts.retentionLost = true))) ∧
  ∀ s : State,
    readRegister s 0x00 = s.exch.areaBase.toNat ∧
    (∀ n, (readRegister s 0x08).testBit n = true ↔ n = 0 ∧ s.exch.enable = true ∨ n = 4 ∧ s.exch.answerNotice = true ∨
      n = 5 ∧ s.exch.journalNotice = true ∨ n = 6 ∧ s.exch.alertNotice = true) ∧
    readRegister s 0x0C = s.exch.period.toNat ∧
    (readRegister s 0x14 % 256 = (List.finRange 64).countP (fun i => s.exch.marks[i]) ∧
      readRegister s 0x14 / 256 % 16 = (match s.exch.state with
        | .stopped => 0
        | .starting => 1
        | .running => 2
        | .halted => 3) ∧
      readRegister s 0x14 / 4096 % 16 = (match s.office.cause with
        | .powerOn => 0
        | .resetLine => 1
        | .soft => 2
        | .linkReset => 3) ∧
      ∀ n, 16 ≤ n → ((readRegister s 0x14).testBit n = true ↔ n = 16 ∧ s.exch.alerts.lane = true ∨
        n = 17 ∧ s.exch.alerts.pressure = true ∨ n = 18 ∧ s.exch.alerts.busFault = true ∨
        n = 19 ∧ s.exch.alerts.retentionLost = true)) ∧
    (s.journal.head < 65536 → readRegister s 0x18 % 65536 = s.journal.head ∧
      readRegister s 0x18 / 65536 = s.journal.pass.toNat) ∧
    ∀ off, off ∉ [0x00, 0x08, 0x0C, 0x14, 0x18] → readRegister s off = 0

/-- R36, R38, R52, R177: in STARTING, with no start-up period in progress, a usable Area Header is latched, the exchange runs
and its first sweep begins; a header that is not usable, or an access that ends in an error, halts it with BUS_FAULT. A
retained entry count that differs from the latched one is replaced, with the head at the Release Word; that a last Release
Word held then is replaced too is the model's choice (log entry 17). -/
def Obligations.ExchangeStarts : Prop :=
  ∀ (s : State) (count offset release : BitVec 32) (bus : Option Nat),
    s.exch.state = .starting → s.office.startUp = none → s.host.busIn = none → s.exch.stopAtEnd = false →
    ∃ t, exec (.exchangeStart count offset release bus) s = .next t ∧
      ((∃ e, 8 ≤ e ∧ e ≤ 13 ∧ count.toNat = 2 ^ e) ∧ 20480 ≤ offset.toNat ∧ offset.toNat % 4096 = 0 ∧
          (∀ b, bus = some b → 2 ≤ b) →
        t = { s with journal := t.journal, exch := t.exch } ∧
        t.journal = (if s.journal.n = count.toNat then s.journal else { s.journal with
          n := count.toNat, head := release.toNat % count.toNat
          release := s.journal.release.map fun _ => release.toNat % count.toNat }) ∧
        t.exch = { s.exch with
          latchedCount := count.toNat, latchedOffset := offset.toNat, state := .running, sweep := some Sweep.fresh
          timer := none, again := false }) ∧
      (¬ ((∃ e, 8 ≤ e ∧ e ≤ 13 ∧ count.toNat = 2 ^ e) ∧ 20480 ≤ offset.toNat ∧ offset.toNat % 4096 = 0 ∧
          (∀ b, bus = some b → 2 ≤ b)) →
        t = { s with exch := t.exch } ∧
        t.exch = { s.exch with
          alerts := { s.exch.alerts with busFault := true }, state := .halted, sweep := none, timer := none
          again := false })

/-- R40, R41, R46, R47, R48, R164, R168: the first step of a sweep with nothing to drain takes the Release Word modulo N,
evaluates the gate, and holds the 64 headers with the marks as they stand; the second clears the mark of every slot that the
first read as FREE or POSTED while marked, and of no other; the third writes the pending answers; the fourth, on the first
sweep since a reset, answers RESET_ABORTED every slot that reads TAKEN and whose order the part does not hold, and on every
other sweep does nothing; the fifth answers STALE_TAG every POSTED slot whose tag is behind its source's expected tag and
BAD_FORM every POSTED slot whose source lies above 12. The slots that a step does not answer stand, and so do the expected
tags. A SWEEP of n + 1 steps is its first step and then a SWEEP of n, one of no step does nothing, and so does one of any
number where no sweep is in progress or the sixth step waits for the order it has offered; a reset that comes during the steps
follows those that are made. That a SWEEP carries a number of steps is the model's choice (log entry 5), and so is the form of
the reset (log entry 7). -/
def Obligations.SweepReadsAndAnswers : Prop :=
  (∀ (s : State) (w : Sweep) (release : BitVec 32) (hs : Table 64 Header),
    s.exch.state = .running → s.host.busIn = none → s.exch.sweep = some w →
    (w.step = 1 → s.journal.holding = [] → s.journal.overflow = [] →
      ∃ t, exec (.sweep 1 release hs ⟨none, none⟩) s = .next t ∧
        t = { s with journal := t.journal, exch := t.exch, host := t.host } ∧
        t.journal = { s.journal with
          release := some (release.toNat % s.journal.n)
          closed := decide (s.journal.n - 1 -
            (s.journal.head + (s.journal.n - release.toNat % s.journal.n)) % s.journal.n < 64) } ∧
        t.exch = { s.exch with
          sweep := some { w with step := 2, headers := hs, marksRead := s.exch.marks }
          alerts := { s.exch.alerts with pressure := s.exch.alerts.pressure || t.journal.closed } } ∧
        t.host = { s.host with slots := t.host.slots } ∧
        ∀ i : SlotNo, t.host.slots[i] = { s.host.slots[i] with state := hs[i].state }) ∧
    (w.step = 2 →
      ∃ t, exec (.sweep 1 release hs ⟨none, none⟩) s = .next t ∧ t = { s with exch := t.exch } ∧
        t.exch = { s.exch with sweep := some { w with step := 3 }, marks := t.exch.marks } ∧
        ∀ i : SlotNo, t.exch.marks[i] = true ↔
          s.exch.marks[i] = true ∧ ¬ (w.marksRead[i] = true ∧ (w.headers[i].state = 0 ∨ w.headers[i].state = 1)))) ∧
  (∀ (s : State) (w : Sweep) (release : BitVec 32) (hs : Table 64 Header),
    s.exch.state = .running → s.host.busIn = none → s.exch.sweep = some w →
    (w.step = 3 → (s.exch.pendingAns.map Prod.fst).Nodup →
      ∃ t, exec (.sweep 1 release hs ⟨none, none⟩) s = .next t ∧ t = { s with exch := t.exch, host := t.host } ∧
        (∀ p ∈ s.exch.pendingAns, AnsweredSlot t p.1 p.2) ∧
        (∀ i : SlotNo, i ∉ s.exch.pendingAns.map Prod.fst → SlotKept s t i) ∧
        t.exch.pendingAns = [] ∧ t.exch.tags = s.exch.tags ∧ SameRegisters s.exch t.exch) ∧
    (w.step = 4 → s.exch.abortDue = true →
      ∃ t, exec (.sweep 1 release hs ⟨none, none⟩) s = .next t ∧ t = { s with exch := t.exch, host := t.host } ∧
        (∀ i : SlotNo, w.headers[i].state = 2 → s.exch.contexts[i] = none →
          AnsweredSlot t i ⟨.resetAborted, w.headers[i].kind, w.headers[i].tag, s.office.clock, .none⟩) ∧
        (∀ i : SlotNo, ¬ (w.headers[i].state = 2 ∧ s.exch.contexts[i] = none) → SlotKept s t i) ∧
        t.exch.abortDue = false ∧ t.exch.tags = s.exch.tags ∧ SameRegisters s.exch t.exch) ∧
    (w.step = 4 → s.exch.abortDue = false →
      exec (.sweep 1 release hs ⟨none, none⟩) s = .next { s with exch := { s.exch with sweep := some { w with step := 5 } } })) ∧
  (∀ (s : State) (w : Sweep) (release : BitVec 32) (hs : Table 64 Header),
    s.exch.state = .running → s.host.busIn = none → s.exch.sweep = some w → w.step = 5 →
    ∃ t, exec (.sweep 1 release hs ⟨none, none⟩) s = .next t ∧ t = { s with exch := t.exch, host := t.host } ∧
      (∀ (i : SlotNo) (v : Source), w.headers[i].state = 1 → s.exch.contexts[i] = none →
        w.headers[i].source.toNat = v.val → 32768 ≤ (w.headers[i].tag - s.exch.tags[v]).toNat →
        AnsweredSlot t i ⟨.staleTag, w.headers[i].kind, w.headers[i].tag, s.office.clock, .none⟩) ∧
      (∀ i : SlotNo, w.headers[i].state = 1 → s.exch.contexts[i] = none → 12 < w.headers[i].source.toNat →
        AnsweredSlot t i ⟨.badForm, w.headers[i].kind, w.headers[i].tag, s.office.clock, .none⟩) ∧
      (∀ i : SlotNo, (w.headers[i].state ≠ 1 ∨ s.exch.contexts[i] ≠ none ∨
          ∃ v : Source, w.headers[i].source.toNat = v.val ∧ (w.headers[i].tag - s.exch.tags[v]).toNat < 32768) →
        SlotKept s t i) ∧
      t.exch.tags = s.exch.tags ∧ ExchangeKept s.exch t.exch) ∧
  ∀ (s : State) (n : Nat) (release : BitVec 32) (hs : Table 64 Header), s.host.busIn = none →
    exec (.sweep 0 release hs ⟨none, none⟩) s = .next s ∧
    (∃ t, exec (.sweep 1 release hs ⟨none, none⟩) s = .next t ∧
      exec (.sweep (n + 1) release hs ⟨none, none⟩) s = exec (.sweep n release hs ⟨none, none⟩) t) ∧
    ((∀ w, s.exch.sweep = some w → 7 ≤ w.step) →
      ∀ bus : Option Nat, exec (.sweep n release hs ⟨bus, none⟩) s = .next s) ∧
    ∀ (bus : Option Nat) (k : ResetKind), ∃ t, exec (.sweep n release hs ⟨bus, none⟩) s = .next t ∧
      exec (.sweep n release hs ⟨bus, some k⟩) s = exec (resetCommand k) t

/-- R141, R163, R164, R167, R168, R169: the drain of a sweep's first step. With room for `f` entries, the holding queue is
written from its front; the overflow line then moves behind it while it holds fewer than 256, a lane's place becoming its
deferred FAULT entry with the repeat count and the time of this event, and the writing goes on while room is left. Each entry
is written at the head with the day and time it was given, and the sequence numbers rise by 1. The gate is CLOSED when the
free count is below 64 or an entry waits. A reset that interrupts a write keeps that entry and those behind it, with the head
where it was. That a deferred entry is stamped at the drain (log entry 18), and that the gate is evaluated once, after the last
write (log entry 16), are the model's choices; the form of the reset is log entry 7's. -/
def Obligations.SweepDrainsJournal : Prop :=
  ∀ (s : State) (w : Sweep) (release : BitVec 32) (hs : Table 64 Header) (r f a moved b : Nat) (left line : List Entry),
    s.exch.state = .running → s.host.busIn = none → s.exch.sweep = some w → w.step = 1 → 1 ≤ s.journal.n →
    s.journal.n ≤ 8192 → s.journal.head < s.journal.n → r = release.toNat % s.journal.n →
    (∀ l : Lane, .place l ∈ s.journal.overflow → s.faults.recs[l].deferred ≠ none) →
    (s.journal.overflow.filterMap fun x => match x with
      | .place l => some l
      | .entry _ => none).Nodup →
    f = s.journal.n - 1 - (s.journal.head + (s.journal.n - r)) % s.journal.n →
    line = s.journal.overflow.filterMap (fun x => match x with
      | .entry e => some e
      | .place l => s.faults.recs[l].deferred.map fun d => ⟨s.office.day, s.office.clock, .fault l d.1 d.2
          ((s.faults.recs[l].active.map ActiveFault.repeats).getD 0)⟩) →
    a = min f s.journal.holding.length → left = s.journal.holding.drop a → moved = min (256 - left.length) line.length →
    b = min (f - a) (left.length + moved) →
    (∃ t, exec (.sweep 1 release hs ⟨none, none⟩) s = .next t ∧
      t = { s with faults := t.faults, journal := t.journal, exch := t.exch, host := t.host } ∧
      t.journal = { s.journal with
        release := some r
        holding := (left ++ line.take moved).drop b
        overflow := s.journal.overflow.drop moved
        head := (s.journal.head + a + b) % s.journal.n
        seq := s.journal.seq + BitVec.ofNat 32 (a + b)
        pass := if s.journal.n ≤ s.journal.head + a + b then s.journal.pass + 1 else s.journal.pass
        closed := t.journal.closed } ∧
      (t.journal.closed = true ↔ f - a - b < 64 ∨ t.journal.holding ≠ [] ∨ t.journal.overflow ≠ []) ∧
      (∀ (i : Nat) (e : Entry), ((s.journal.holding.take a ++ (left ++ line.take moved).take b))[i]? = some e →
        Memory.read (((s.exch.areaBase &&& 0xFFFFFFFFFFFFF000).toNat + s.exch.latchedOffset +
            64 * ((s.journal.head + i) % s.journal.n)) % 2 ^ 64) t.host.journal =
          some ⟨e, s.journal.seq + BitVec.ofNat 32 i,
            if s.journal.n ≤ s.journal.head + i then s.journal.pass + 1 else s.journal.pass⟩) ∧
      (∀ l : Lane, t.faults.recs[l] = if .place l ∈ s.journal.overflow.take moved then
          { s.faults.recs[l] with deferred := none } else s.faults.recs[l]) ∧
      t.faults.deferral = (s.faults.deferral.filter fun l => decide (.place l ∉ s.journal.overflow.take moved)) ∧
      t.exch = { s.exch with
        sweep := some { w with step := 2, headers := hs, marksRead := s.exch.marks }
        alerts := { s.exch.alerts with pressure := s.exch.alerts.pressure || t.journal.closed } }) ∧
    ∀ (m : Nat) (k : ResetKind), m < a →
      ∃ t, exec (.sweep 1 release hs ⟨some (1 + m), some k⟩) s = .next t ∧
        t.journal = { s.journal with
          release := none, closed := false
          holding := s.journal.holding.drop m
          head := (s.journal.head + m) % s.journal.n
          seq := s.journal.seq + BitVec.ofNat 32 m
          pass := if s.journal.n ≤ s.journal.head + m then s.journal.pass + 1 else s.journal.pass } ∧
        t.exch.state = .stopped ∧ t.office.startUp ≠ none

/-- R38 to R41: the sixth step of a sweep, with no POSTED slot behind its source's expected tag, offers the lowest slot at the
expected tag of the first source, from the one the sweep begins with and around, that has one; the sources from it on are
still to be served. With none, the sweep ends: the exchange is STOPPED when EXCHANGE_ENABLE was cleared during it, and
goes on to STARTING when it has been set again since (log entry 20); one further sweep begins when one was requested
during it; else the sweep timer starts with the Sweep Period, a period of 0 counting as 1. The rotation moves on by one
source at this step (log entry 26). -/
def Obligations.SweepOffersInRotation : Prop :=
  ∀ (s : State) (w : Sweep) (release : BitVec 32) (hs : Table 64 Header),
    s.exch.state = .running → s.host.busIn = none → s.exch.sweep = some w → w.step = 6 →
    (∀ (i : SlotNo) (h : Header) (v : Source), postedHeader s i = some h → headerSource h = some v →
      behind h.tag s.exch.tags[v] = false) →
    ∃ t, exec (.sweep 1 release hs ⟨none, none⟩) s = .next t ∧
      (∀ (n : Nat) (i : SlotNo) (src : Source), n < 13 → src = s.exch.nextStart + Fin.ofNat 13 n →
        (∀ m, m < n → ∀ j, slotAtTag s (s.exch.nextStart + Fin.ofNat 13 m) j = false) →
        slotAtTag s src i = true → (∀ j, j < i → slotAtTag s src j = false) →
        t = { s with exch := { s.exch with
          nextStart := s.exch.nextStart + 1
          sweep := some { w with
            step := 7, offered := some i
            remaining := (List.range' n (13 - n)).map fun m => s.exch.nextStart + Fin.ofNat 13 m } } }) ∧
      ((∀ v j, slotAtTag s v j = false) →
        t = { s with exch :=
          if s.exch.stopAtEnd = true then
            { s.exch with
              nextStart := s.exch.nextStart + 1, sweep := none, timer := none, again := false, stopAtEnd := false
              state := if s.exch.enable then .starting else .stopped }
          else if s.exch.again = true then
            { s.exch with nextStart := s.exch.nextStart + 1, sweep := some Sweep.fresh, timer := none, again := false }
          else
            { s.exch with
              nextStart := s.exch.nextStart + 1, sweep := none
              timer := some (if s.exch.period = 0 then 1 else s.exch.period.toNat) } })

/-- R43, R46, R48, R52, R164, R173: host-memory accesses that end in an error, and resets inside a take. Where the TAKEN write
fails, the order is not taken and nothing changes but that the exchange is HALTED with BUS_FAULT and the sweep has ended;
an answer whose write fails stays pending, its slot unmarked; a journal entry whose write fails is the front of the
holding queue, with the head, pass count and sequence number where they were; a snapshot whose write fails leaves the
STATUS READ answered ATTACHMENT_FAULT through the pending answers; a Release Word whose read fails leaves the last one. A
reset that falls inside the take of an order that would be accepted finds its slot TAKEN, and either nothing else of it or
all its changes; no pending cash-up has the slot of an order that is offered (StepKeepsSlots). (The form of a reset inside a
take is log entry 7's, of an access error log entry 6's.) -/
def Obligations.AccessErrorsAndResetsInTake : Prop :=
  (∀ (c : Instr) (o : OrderHdr) (code : Byte) (s t : State) (src : Source) (tag : Tag),
    orderParts c = some (o, code, Env.quiet) → Offers s o.slot src tag → s.host.slots[o.slot].state = 1 →
    s.exch.stopAtEnd = false → exec c s = .next t →
    (t.host.slots[o.slot].state = 2 ∨ ∃ a, t.host.slots[o.slot] = ⟨3, some a⟩ ∧ a.outcome.code.toNat < 32) →
    exec (withEnv ⟨some 0, none, []⟩ c) s = .next { s with exch := { s.exch with
      alerts := { s.exch.alerts with busFault := true }, state := .halted, sweep := none, timer := none, again := false } }) ∧
  (∀ (s : State) (i : SlotNo) (kind : Byte) (tag : Tag) (oc : OrderOutcome) (f : AnswerFields), s.exch.stopAtEnd = false →
    (s.exch.state = .running → s.host.busIn = some 0 →
      answer i kind tag oc f s = { s with
        host := { s.host with busIn := none }
        exch := { s.exch with
          alerts := { s.exch.alerts with busFault := true }, state := .halted, sweep := none, timer := none, again := false
          pendingAns := s.exch.pendingAns ++ [(i, ⟨oc, kind, tag, s.office.clock, f⟩)] } }) ∧
    (s.exch.state ≠ .running →
      answer i kind tag oc f s = { s with exch := { s.exch with
        pendingAns := s.exch.pendingAns ++ [(i, ⟨oc, kind, tag, s.office.clock, f⟩)] } })) ∧
  (∀ (s : State) (b : EntryBody) (r : Nat), s.exch.stopAtEnd = false → s.exch.state = .running → s.host.busIn = some 0 →
    s.journal.holding = [] → s.journal.overflow = [] → s.journal.release = some r →
    (s.journal.head + (s.journal.n - r)) % s.journal.n + 2 ≤ s.journal.n →
    give b s = { s with
      host := { s.host with busIn := none }
      journal := { s.journal with holding := [⟨s.office.day, s.office.clock, b⟩], closed := true }
      exch := { s.exch with
        alerts := { s.exch.alerts with
          busFault := true, pressure := s.exch.alerts.pressure || !s.journal.closed }
        state := .halted, sweep := none, timer := none, again := false } }) ∧
  (∀ (s : State) (o : OrderHdr) (dest : BitVec 64) (len : Nat) (src : Source) (tag : Tag), Offers s o.slot src tag →
    s.exch.stopAtEnd = false → 1 ≤ len →
    ∃ t, exec (.statusRead o dest len ⟨some 1, none, []⟩) s = .next t ∧ t = { s with exch := t.exch, host := t.host } ∧
      t.host.slots[o.slot] = ⟨2, s.host.slots[o.slot].answer⟩ ∧ t.host.snapshot = s.host.snapshot ∧
      t.exch.state = .halted ∧ t.exch.alerts = { s.exch.alerts with busFault := true } ∧ t.exch.sweep = none ∧
      t.exch.marks = s.exch.marks ∧ TagTaken s t src ∧
      t.exch.pendingAns = s.exch.pendingAns ++ [(o.slot, ⟨.attachmentFault, 18, tag, s.office.clock, .none⟩)]) ∧
  (∀ (s : State) (w : Sweep) (release : BitVec 32) (hs : Table 64 Header), s.exch.stopAtEnd = false →
    s.host.busIn = none → s.exch.sweep = some w → w.step = 1 →
    exec (.sweep 1 release hs ⟨some 0, none⟩) s = .next { s with exch := { s.exch with
      alerts := { s.exch.alerts with busFault := true }, state := .halted, sweep := none, timer := none, again := false } }) ∧
  ∀ (c : Instr) (o : OrderHdr) (code : Byte) (s t : State) (src : Source) (tag : Tag) (k : ResetKind),
    orderParts c = some (o, code, Env.quiet) → Offers s o.slot src tag → s.host.slots[o.slot].state = 1 →
    exec c s = .next t →
    (t.host.slots[o.slot].state = 2 ∨ ∃ a, t.host.slots[o.slot] = ⟨3, some a⟩ ∧ a.outcome.code.toNat < 32) →
    (∀ (w : Window) (p : PendingCashUp), s.till[w].cashUp = some p → p.slot ≠ o.slot) →
    exec (withEnv ⟨none, some ⟨false, k⟩, []⟩ c) s = exec (resetCommand k) { s with
      host := { s.host with slots := s.host.slots.upd o.slot fun h => { h with state := 2 } } } ∧
    ∃ u v, exec (resetCommand k) t = .next u ∧ exec (withEnv ⟨none, some ⟨true, k⟩, []⟩ c) s = .next v ∧
      v = { u with host := v.host } ∧ v.host.slots[o.slot] = ⟨2, s.host.slots[o.slot].answer⟩ ∧
      v.host.journal = u.host.journal ∧ v.host.snapshot = u.host.snapshot

/-- R40 to R45: while the gate is CLOSED an order of any kind but STATUS READ and CASH-UP WITHDRAW stays POSTED and its
source's expected tag stays; the first source after it, of those still to be served, that has a slot at its expected tag
has the lowest such slot offered, where no slot of theirs is behind, and where none has one the sweep ends, or begins
again. With the gate OPEN, or an order kind that the gate does not stop, an order whose attachment cannot be used or read
is answered BAD_FORM or ATTACHMENT_FAULT, one of no kind BAD_FORM, one from a source that may not post it WRONG_SOURCE,
and one for the CLOSED office OFFICE_CLOSED; the order counts as taken and nothing else changes. -/
def Obligations.DecidedBeforeOwner : Prop :=
  (∀ (c : Instr) (o : OrderHdr) (code : Byte) (s : State) (src : Source) (tag : Tag) (w : Sweep),
    orderParts c = some (o, code, Env.quiet) → Offers s o.slot src tag → s.journal.closed = true →
    code ≠ 17 → code ≠ 18 → (∀ k, c = .unknownOrderKind o k Env.quiet → ¬ (1 ≤ k.toNat ∧ k.toNat ≤ 18)) →
    s.exch.sweep = some w → src ∉ w.remaining.tail →
    ∃ t, exec c s = .next t ∧ t = { s with exch := t.exch, host := t.host } ∧ SlotKept s t o.slot ∧
      t.exch.tags = s.exch.tags ∧ OtherSlots [o.slot] s t ∧ GivesNothing s t ∧ ExchangeKept s.exch t.exch ∧
      ((∀ (i : SlotNo) (h : Header) (v : Source), postedHeader s i = some h → headerSource h = some v →
          v ∈ w.remaining.tail → behind h.tag s.exch.tags[v] = false) →
        (∀ (before later : List Source) (v : Source) (i : SlotNo), w.remaining.tail = before ++ v :: later →
          (∀ x ∈ before, ∀ j, slotAtTag s x j = false) → slotAtTag s v i = true → (∀ j, j < i → slotAtTag s v j = false) →
          t = { s with exch := { s.exch with sweep := some { w with remaining := v :: later, offered := some i } } }) ∧
        ((∀ x ∈ w.remaining.tail, ∀ j, slotAtTag s x j = false) →
          t.exch.sweep = none ∨ t.exch.sweep = some Sweep.fresh))) ∧
  ∀ (c : Instr) (o : OrderHdr) (code : Byte) (s : State) (src : Source) (tag : Tag) (oc : OrderOutcome),
    orderParts c = some (o, code, Env.quiet) → Offers s o.slot src tag →
    (s.journal.closed = false ∨ code = 17 ∨ code = 18) →
    ((∃ k, c = .unknownOrderKind o k Env.quiet ∧ ¬ (1 ≤ k.toNat ∧ k.toNat ≤ 18)) ∧ oc = .badForm ∨
      (∀ k, c ≠ .unknownOrderKind o k Env.quiet) ∧
        (((code = 3 ∨ code = 5 ∨ code = 13) ∧ o.attached = true ∧ (o.attLen = 0 ∨ 1024 < o.attLen) ∧ oc = .badForm) ∨
        ((code = 3 ∨ code = 5 ∨ code = 13) ∧ o.attached = true ∧ 1 ≤ o.attLen ∧ o.attLen ≤ 1024 ∧ o.att = .error ∧
          oc = .attachmentFault) ∨
        ((code = 3 ∨ code = 5 ∨ code = 13) → o.attached = false ∨ 1 ≤ o.attLen ∧ o.attLen ≤ 1024 ∧ o.att ≠ .error) ∧
          (mayPost code src = false ∧ oc = .wrongSource ∨
            mayPost code src = true ∧ s.office.opened = false ∧ code ≠ 1 ∧ code ≠ 18 ∧ oc = .officeClosed))) →
    ∃ t, exec c s = .next t ∧ t = { s with exch := t.exch, host := t.host } ∧ GivesNothing s t ∧
      Answers s t o.slot src ⟨oc, code, tag, s.office.clock, .none⟩

/-- R43, R46, 03 Outcome codes: an order that is answered at its take with a code of 32 or above has changed nothing: the
answer has no fields, no entry is given, and the order counts as taken. -/
def Obligations.RefusedOrderChangesNothing : Prop :=
  ∀ (c : Instr) (o : OrderHdr) (code : Byte) (s t : State) (src : Source) (tag : Tag) (w : Sweep) (a : Answer),
    orderParts c = some (o, code, Env.quiet) → Offers s o.slot src tag → s.host.slots[o.slot].state = 1 →
    s.exch.sweep = some w → src ∉ w.remaining.tail → exec c s = .next t → t.host.slots[o.slot] = ⟨3, some a⟩ →
    32 ≤ a.outcome.code.toNat →
    t = { s with exch := t.exch, host := t.host } ∧ GivesNothing s t ∧ a.fields = .none ∧ a.kind = code ∧ a.tag = tag ∧
      a.time = s.office.clock ∧ Answers s t o.slot src a

/-! ### The Lane Link -/

/-- R100, R102, R103, R104, R105, R106, R108: the expiry of a running poll timer begins an exchange: a GREET during the link
start, the repeat IMAGE of a job still out or the repeat FLUSH as it was, and in every other case a POLL with the
acknowledgement bit as it stands; it begins with the busy wait, the stuck-line check or the frame, by the levels of the input
lines. LBY released during the busy wait leads to the stuck-line check; LDI idle after one of the first nine clear pulses
raises LINK_STUCK as a recovered fault and the frame is sent; the frame's end starts the response timer; the first low bit of
a report stops it. A stretch limit met in the busy wait raises STRETCH_LIMIT, and an LDI that the clear pulses do not free in
time LINK_STUCK, as holding faults, with the engine DOWN, the exchange abandoned and no failure counted; that this is so of
an exchange that a FAULT CLEAR has overtaken too is the model's choice (log entry 35). -/
def Obligations.ExchangeBeginsAndGoesOn : Prop :=
  (∀ (s : State) (l : Lane) (pins : Pins) (p : Nat) (a : Bool) (c : Carried),
    s.lanes[l].link.poll = some p →
    (s.lanes[l].link.phase = .greeting ∧ c = ⟨.greet, greetBytes⟩ ∨
      s.lanes[l].link.phase = .running ∧ s.lanes[l].link.ack = some a ∧
        ((s.lanes[l].link.repeatFrame = none ∨ (∃ b bs, s.lanes[l].link.repeatFrame = some ⟨.poll b, bs⟩) ∨
            ∃ b n bs, s.lanes[l].link.repeatFrame = some ⟨.image b n, bs⟩ ∧ ∀ j ∈ s.lanes[l].out, j.buffer ≠ b) ∧
          c = ⟨.poll a, pollBytes a⟩ ∨
        s.lanes[l].link.repeatFrame = some c ∧
          (c.frame = .flush ∨ ∃ b n, c.frame = .image b n ∧ ∃ j ∈ s.lanes[l].out, j.buffer = b))) →
    ∃ t, exec (.pollTimerExpiry l pins) s = .next t ∧ t = { s with lanes := t.lanes } ∧ OtherLanes l s t ∧
      t.lanes[l] = { s.lanes[l] with
        pins := pins
        out := match c.frame with
          | .image b _ => s.lanes[l].out.map fun j =>
              if j.buffer = b ∧ j.delivery = .carrying false then { j with delivery := .carrying true } else j
          | _ => s.lanes[l].out
        link := { s.lanes[l].link with
          poll := none, repeatFrame := none
          exchange := some ⟨c, if pins.lby then .busyWait else if pins.ldiLow then .clearing else .sending,
            if pins.lby then some s.office.settings.stretch else none⟩ } }) ∧
  ∀ (s : State) (l : Lane) (x : Exchange), s.lanes[l].link.exchange = some x →
    (∀ low : Bool, x.step = .busyWait →
      ∃ t, exec (.lbyRelease l low) s = .next t ∧ t = { s with lanes := t.lanes } ∧ OtherLanes l s t ∧
        t.lanes[l] = { s.lanes[l] with
          pins := ⟨false, low⟩
          link := { s.lanes[l].link with
            exchange := some ⟨x.carried, if low then .clearing else .sending, none⟩ } }) ∧
    (∀ pulse : Nat, x.step = .clearing → 1 ≤ pulse → pulse ≤ 9 → s.host.busIn = none →
      s.faults.recs[l].deferred = none → s.journal.overflow = [] → s.journal.holding.length < 256 →
      (∀ p, s.lanes[l].state ≠ .parked p) →
      ∃ t, exec (.ldiIdleAfterPulse l pulse none) s = .next t ∧
        t = { s with lanes := t.lanes, journal := t.journal, exch := t.exch, host := t.host } ∧ OtherLanes l s t ∧
        t.lanes[l] = { s.lanes[l] with
          pins := { s.lanes[l].pins with ldiLow := false }
          act := { s.lanes[l].act with faults := min 4294967295 (s.lanes[l].act.faults + 1) }
          link := { s.lanes[l].link with exchange := some ⟨x.carried, .sending, none⟩ } } ∧
        Gives [.fault l .linkStuck true 0] s t) ∧
    (x.step = .sending →
      ∃ t, exec (.frameSent l) s = .next t ∧ t = { s with lanes := t.lanes } ∧ OtherLanes l s t ∧
        t.lanes[l] = { s.lanes[l] with
          link := { s.lanes[l].link with exchange := some ⟨x.carried, .awaiting, some s.office.settings.response⟩ } }) ∧
    (x.step = .awaiting →
      ∃ t, exec (.reportStart l) s = .next t ∧ t = { s with lanes := t.lanes } ∧ OtherLanes l s t ∧
        t.lanes[l] = { s.lanes[l] with
          link := { s.lanes[l].link with exchange := some ⟨x.carried, .reporting, none⟩ } }) ∧
    (x.step = .busyWait → s.host.busIn = none →
      exec (.stretchLimit l none) s = .next (raiseHolding l .stretchLimit { s with lanes := s.lanes.upd l downLane })) ∧
    (x.step = .clearing → s.host.busIn = none →
      exec (.clearPulseLimit l none) s = .next (raiseHolding l .linkStuck { s with lanes := s.lanes.upd l downLane }) ∧
      exec (.ldiIdleAfterPulse l 10 none) s = .next (raiseHolding l .linkStuck { s with
        lanes := s.lanes.upd l fun r => downLane { r with pins := { r.pins with ldiLow := false } } }))

/-- R96, R103, R104: an exchange that an order or an expiry of the patience timer begins examines the levels that the lines of
its lane have then: LBY asserted starts the busy wait, LDI low the stuck-line check. (How a command brings the levels is
log entry 8's.) LCK is held low but from the clear pulses to the end of the report; LDO is high but in the frame, whose
bytes it carries least significant bit first, one bit to a period. -/
def Obligations.LinesOfALane : Prop :=
  (∀ (c : Instr) (o : OrderHdr) (code : Byte) (s : State) (src : Source) (tag : Tag) (bus : Option Nat) (cut : Option Cut)
      (lines : Lines),
    orderParts c = some (o, code, Env.quiet) → Offers s o.slot src tag →
    (∀ k, c = .unknownOrderKind o k Env.quiet → ¬ (1 ≤ k.toNat ∧ k.toNat ≤ 18)) →
    exec (withEnv ⟨bus, cut, lines⟩ c) s = exec (withEnv ⟨bus, cut, []⟩ c)
      (lines.foldl (fun u p => { u with lanes := u.lanes.upd p.1 fun r => { r with pins := p.2 } }) s)) ∧
  (∀ (s : State) (l : Lane) (lines : Lines), exec (.patienceExpiry ⟨l, lines⟩) s = exec (.patienceExpiry ⟨l, []⟩)
    (lines.foldl (fun u p => { u with lanes := u.lanes.upd p.1 fun r => { r with pins := p.2 } }) s)) ∧
  (∀ (s : State) (o : OrderHdr) (l : Lane) (tag : Tag) (p : Pins), Takeable s o.slot 12 tag →
    (s.lanes[l].state = .off ∨ ∃ w, s.lanes[l].state = .parked w) → s.lanes[l].link.exchange = none →
    ∃ t, exec (.laneStart o l.val ⟨none, none, [(l, p)]⟩) s = .next t ∧ t.lanes[l].state = .starting ∧ t.lanes[l].pins = p ∧
      t.lanes[l].link.exchange = some ⟨⟨.greet, greetBytes⟩,
        if p.lby then .busyWait else if p.ldiLow then .clearing else .sending,
        if p.lby then some s.office.settings.stretch else none⟩) ∧
  ∀ r : LinkEngine,
    (lckLow r = true ↔ ∀ x, r.exchange = some x → x.step = .busyWait) ∧
    (∀ period, (∀ x, r.exchange = some x → x.step ≠ .sending ∨ 8 * x.carried.bytes.length ≤ period) →
      ldoHigh r period = true) ∧
    ∀ (x : Exchange) (i k : Nat) (b : Byte), r.exchange = some x → x.step = .sending → x.carried.bytes[i]? = some b → k < 8 →
      ldoHigh r (8 * i + k) = b.getLsbD k

/-- R105, R106, R108, R109: a response timeout and a bad report fail the exchange: below three in a row its frame is kept for
repetition (none during the link start) and the poll timer starts; the third raises LINK_LOST with the engine DOWN. During the
link start a malformed report, another report type and a CAPACITY with fewer than 64 columns fail the greeting in the same way.
Of an exchange that a FAULT CLEAR has overtaken nothing counts, whatever ends it, a report of any type and form among it, and
the link start begins. -/
def Obligations.FailedExchanges : Prop :=
  ∀ (s : State) (l : Lane) (x : Exchange) (pins : Pins) (c : Instr), s.host.busIn = none → s.lanes[l].link.exchange = some x →
    (c = .responseTimeout l pins none ∧ x.step = .awaiting ∨ c = .reportBad l pins none ∧ x.step = .reporting ∨
      x.step = .reporting ∧ (s.lanes[l].link.restartDue = true ∨ s.lanes[l].link.phase = .greeting) ∧
        (c = .malformedReport l pins none ∨ ∃ r : Report, c = reportCommand l r pins none ∧
          (s.lanes[l].link.restartDue = true ∨
            ∀ q k w i, r = .capacity q k w i → r.wellFormed = true → w.toNat < 64))) →
    ∃ t, exec c s = .next t ∧
      (s.lanes[l].link.restartDue = false → (s.lanes[l].link.phase = .running ∨ s.lanes[l].link.phase = .greeting) →
        s.lanes[l].link.fails < 2 →
        t = { s with lanes := t.lanes } ∧ OtherLanes l s t ∧
        t.lanes[l] = { s.lanes[l] with
          pins := pins
          link := { s.lanes[l].link with
            exchange := none, fails := s.lanes[l].link.fails + 1, poll := some s.office.settings.poll
            repeatFrame := if s.lanes[l].link.phase = .running then some x.carried else s.lanes[l].link.repeatFrame } }) ∧
      (s.lanes[l].link.restartDue = false → (s.lanes[l].link.phase = .running ∨ s.lanes[l].link.phase = .greeting) →
        2 ≤ s.lanes[l].link.fails →
        t = raiseHolding l .linkLost { s with
          lanes := s.lanes.upd l fun r => downLane { r with pins := pins, link := { r.link with fails := r.link.fails + 1 } } }) ∧
      (s.lanes[l].link.restartDue = true →
        t = { s with lanes := t.lanes } ∧ OtherLanes l s t ∧
        t.lanes[l] = { s.lanes[l] with
          pins := pins, repairRefs := []
          link := { phase := .greeting, rate := s.office.settings.rate, ack := none, fails := 0, poll := none
                    repeatFrame := none, waiting := none, awaited := none, flushCarried := false, headFault := false
                    exchange := some (startExchange pins s.office.settings.stretch ⟨.greet, greetBytes⟩)
                    restartDue := false } })

/-- R17, R78, R94, R130, R136, R137: a holding fault is recorded; a lane in STARTING, READY or PRINTING then moves to HOLDING,
where each FED or PRINTED job's blank is in doubt, its total in its window's suspense, and each SENT job is back in the
queue, its serial in the magazine, with every credit returned and every flight entry of the lane's jobs gone; a lane
already HOLDING keeps its state. -/
def Obligations.HoldingFaultHoldsLane : Prop :=
  ∀ (s : State) (l : Lane) (k : FaultKind),
    (∀ j ∈ s.lanes[l].out, j.state = .sent ∨ (j.state = .fed ∨ j.state = .printed) ∧ j.serial ≠ none) →
    (s.lanes[l].out.map Job.buffer).Nodup →
    ∃ t, raiseHolding l k s = t ∧
      t = { s with
        stock := t.stock, images := t.images, lanes := t.lanes, faults := t.faults, till := t.till, journal := t.journal
        office := t.office, exch := t.exch, host := t.host } ∧
      OtherLanes l s t ∧ (∀ m, m ≠ l → t.faults.recs[m] = s.faults.recs[m]) ∧
      (t.faults.recs[l].active = match s.faults.recs[l].active with
        | none => some ⟨k, s.office.clock, [], 0⟩
        | some a => some { a with
            repeats := min 255 (a.repeats + 1)
            further := if k = a.first ∨ k ∈ a.further ∨ 3 ≤ a.further.length then a.further else a.further ++ [k] }) ∧
      (t.exch.alerts.lane = (s.exch.alerts.lane || s.faults.recs[l].active.isNone)) ∧
      (s.lanes[l].state = .holding → t.stock = s.stock ∧ t.images = s.images ∧ t.till = s.till ∧ t.office = s.office ∧
        t.lanes[l] = { s.lanes[l] with
          act := { s.lanes[l].act with faults := min 4294967295 (s.lanes[l].act.faults + 1) } }) ∧
      (s.lanes[l].state = .starting ∨ Working s l →
        t.lanes[l].state = .holding ∧ t.lanes[l].out = [] ∧ t.lanes[l].cap = s.lanes[l].cap ∧
        t.lanes[l].credits = s.lanes[l].credits + s.lanes[l].out.length ∧
        t.lanes[l].queue.Perm (s.lanes[l].queue ++
          (s.lanes[l].out.filter fun j => decide (j.state = .sent)).map Job.requeue) ∧
        t.lanes[l].act = { s.lanes[l].act with faults := min 4294967295 (s.lanes[l].act.faults + 1) } ∧
        t.lanes[l].patience = (if stalled s l then s.lanes[l].patience
          else if s.office.settings.patience = 0 then none else some s.office.settings.patience) ∧
        t.stock = { s.stock with
          mags := t.stock.mags
          doubts := s.stock.doubts ++
            (s.lanes[l].out.filter fun j => decide (j.state = .fed ∨ j.state = .printed)).filterMap fun j =>
              j.serial.map fun n => ⟨j.kind, n, l, j.window, j.shift, j.total, j.tender, j.tag, .fault k⟩ } ∧
        (∀ m, m ≠ l → t.stock.mags[m] = s.stock.mags[m]) ∧
        t.stock.mags[l] = (s.stock.mags[l].map fun m => { m with
          next := ((s.lanes[l].out.filter fun j => decide (j.state = .sent)).filterMap Job.serial).min?.getD m.next }) ∧
        (∀ w : Window, t.till[w].suspense = s.till[w].suspense + ((s.lanes[l].out.filter fun j =>
            decide ((j.state = .fed ∨ j.state = .printed) ∧ j.window = w)).map Job.total).sum ∧
          t.till[w].live = s.till[w].live - s.lanes[l].out.countP fun j =>
            decide ((j.state = .fed ∨ j.state = .printed) ∧ j.window = w)) ∧
        t.office = { s.office with flight := s.office.flight.filter fun e =>
          !(s.lanes[l].out.any fun j => decide (j.kind = e.kind ∧ j.serial = some e.serial)) })

/-- R67, R68, R83, R85, R110, R127, R130, R136, R137: what a holding fault gives the journal, and what the move to HOLDING
does with the jobs out: the FAULT entry, unless the record holds the kind; the LANE entry; an IN_DOUBT entry for each FED
or PRINTED job, oldest first. Each of those is answered IN_DOUBT, or the answer is held pending while the exchange does
not run, and its buffer is freed. The SENT jobs return to the front of the queue in the order in which they joined, and a
FLUSH is requested with the number of them whose IMAGE had begun to be carried. That no FLUSH is requested when no job was
out is the model's choice (log entry 13); a job whose total is 0 could complete a cash-up (log entry 19) and is left to
DeclarationSettles. -/
def Obligations.HoldingFaultIsJournalled : Prop :=
  ∀ (s s' : State) (l : Lane) (k : FaultKind) (doubtful sent : List Job) (faultEntry : List EntryBody),
    s.host.busIn = none → s.faults.recs[l].deferred = none → s.journal.overflow = [] → s.journal.holding.length < 256 →
    s' = { s with exch := { s.exch with alerts := { s.exch.alerts with
      lane := s.exch.alerts.lane || s.faults.recs[l].active.isNone } } } →
    faultEntry = (match s.faults.recs[l].active with
      | none => [.fault l k false 0]
      | some a => if k = a.first ∨ k ∈ a.further then [] else [.fault l k false (min 255 (a.repeats + 1))]) →
    (s.lanes[l].state = .holding → Gives faultEntry s' (raiseHolding l k s)) ∧
    (s.lanes[l].state = .starting ∨ Working s l →
      (∀ j ∈ s.lanes[l].out, j.state = .sent ∨ (j.state = .fed ∨ j.state = .printed) ∧ j.serial ≠ none) →
      (s.lanes[l].out.map Job.buffer).Nodup → (s.lanes[l].out.map Job.slot).Nodup →
      doubtful = (s.lanes[l].out.filter fun j => decide (j.state = .fed ∨ j.state = .printed)) →
      sent = (s.lanes[l].out.filter fun j => decide (j.state = .sent)) →
      (∀ j ∈ doubtful, 0 < j.total ∨ s.till[j.window].cashUp = none ∨ s.till[j.window].state ≠ .closing) →
      ∃ t, raiseHolding l k s = t ∧
        Gives (faultEntry ++ [.lane l .holding .fault] ++ doubtful.filterMap fun j => j.serial.map fun n =>
          .inDoubt j.kind n l j.window j.total (.fault k) j.tag) s' t ∧
        (∀ j ∈ doubtful, s.exch.state = .running → AnsweredSlot t j.slot ⟨.inDoubt, 13, j.tag, s.office.clock,
          .issue j.serial j.kind l j.pAdult j.pChild j.total j.attempt j.spoilt (some (.fault k))⟩) ∧
        (t.exch.pendingAns = if s.exch.state = .running then s.exch.pendingAns else s.exch.pendingAns ++ doubtful.map fun j =>
          (j.slot, ⟨.inDoubt, 13, j.tag, s.office.clock,
            .issue j.serial j.kind l j.pAdult j.pChild j.total j.attempt j.spoilt (some (.fault k))⟩)) ∧
        (∀ i : SlotNo, i ∉ doubtful.map Job.slot → SlotKept s t i) ∧ t.exch.tags = s.exch.tags ∧
        SameRegisters s.exch t.exch ∧ t.host.snapshot = s.host.snapshot ∧
        (∀ b : Buffer, t.images[b] = if b ∈ doubtful.map Job.buffer then none else s.images[b]) ∧
        t.lanes[l].queue = sent.foldl (fun q j => insertJob j.requeue q) s.lanes[l].queue ∧
        ((sent ++ s.lanes[l].queue).Pairwise (fun i j => i.joinNo ≠ j.joinNo ∧ i.joined j = true) →
          t.lanes[l].queue = sent.map Job.requeue ++ s.lanes[l].queue) ∧
        t.lanes[l].link = (if s.lanes[l].out = [] then s.lanes[l].link
          else (flushLane s.office.settings (sent.countP fun j => decide (j.delivery ≠ .carrying false)) s.lanes[l]).link))

/-- R101, R105, R115, R116, R117: on a READY, PRINTING or HOLDING lane that reads the answer to a POLL, a malformed report
raises PROTOCOL, JAMMED raises JAM, and OUT_OF_STOCK raises STOCK_MISMATCH unless the magazine is spent and no job out is
SENT; on a READY or PRINTING lane a CAPACITY raises PROTOCOL (on a HOLDING one it does not: ReportsWithoutEffect). The exchange
has ended good. -/
def Obligations.ReportsThatHoldTheLane : Prop :=
  ∀ (s : State) (l : Lane) (ack b : Bool) (pins : Pins), Reporting s l ack b → (Working s l ∨ s.lanes[l].state = .holding) →
    exec (.malformedReport l pins none) s = .next (afterExchange l false (.poll b) (raiseHolding l .protocol
      (s.onLane l fun r => { r with pins := pins, link := { r.link with fails := 0 } }))) ∧
    (∀ (k width : Byte) (i : Text), Working s l → 1 ≤ k.toNat → k.toNat ≤ 4 → i.length ≤ 32 →
      exec (.capacity l (newBit ack) k width i pins none) s =
        .next (afterExchange l true (.poll b) (raiseHolding l .protocol (heard s l ack pins)))) ∧
    exec (.jammed l (newBit ack) pins none) s =
      .next (afterExchange l true (.poll b) (raiseHolding l .jam (heard s l ack pins))) ∧
    exec (.outOfStock l (newBit ack) pins none) s = .next (afterExchange l true (.poll b)
      (if magSpent s.stock.mags[l] = true ∧ (s.lanes[l].out.all fun j => decide (j.state ≠ .sent)) = true
        then heard s l ack pins else raiseHolding l .stockMismatch (heard s l ack pins)))

/-- R99, R101, R105, R111, R112: a well-formed report other than NOTHING, not a repeat, that answers an IMAGE or a FLUSH, and
a malformed report that does, raise PROTOCOL: the frame has reached the printer, the exchange has ended good, and the
acknowledgement bit stands. On a READY or PRINTING lane a PRINTED, EJECTED or SPOILED that answers a POLL and names
another job than the oldest one out with its mark ACCEPTED, or none, and a second PRINTED of a job, raise PROTOCOL and
have no effect on any job. (That a repeat is taken as NOTHING here too is log entry 14, that the acknowledgement bit stands
where a new report answers an IMAGE or a FLUSH log entry 43: the model's choices.) -/
def Obligations.ReportsOutOfOrder : Prop :=
  (∀ (s : State) (l : Lane) (ack : Bool) (f : Frame) (bytes : List Byte) (c : Instr) (pins : Pins),
    s.host.busIn = none → s.lanes[l].link.phase = .running → s.lanes[l].link.restartDue = false →
    s.lanes[l].link.ack = some ack → s.lanes[l].link.exchange = some ⟨⟨f, bytes⟩, .reporting, none⟩ →
    (f = .flush ∨ ∃ b p, f = .image b p) →
    (c = .malformedReport l pins none ∨
      ∃ r : Report, r.wellFormed = true ∧ r.seq = some (newBit ack) ∧ c = reportCommand l r pins none) →
    exec c s = .next (afterExchange l false f (raiseHolding l .protocol (s.onLane l fun q => { q with
      pins := pins
      out := match f with
        | .image b p => q.out.map fun j => if j.buffer = b ∧ p ≠ 1 ∧ (j.delivery = .carrying false ∨ j.delivery = .carrying true)
            then { j with delivery := .delivered } else j
        | _ => q.out
      link := { q.link with
        fails := 0, flushCarried := if f = .flush then q.link.awaited.isSome else q.link.flushCarried } })))) ∧
  ∀ (s : State) (l : Lane) (ack b : Bool) (pins : Pins) (ref : Byte) (r : Report), Reporting s l ack b → Working s l →
    ref.toNat < 48 → (∀ q ∈ s.lanes[l].repairRefs, q.val ≠ ref.toNat) →
    ((r = .printed (newBit ack) ref ∨ r = .ejected (newBit ack) ref ∨ r = .spoiled (newBit ack) ref 1) ∧
        (∀ j, s.lanes[l].out.head? = some j → j.delivery ≠ .accepted ∨ j.buffer.val ≠ ref.toNat) ∨
      r = .printed (newBit ack) ref ∧ ∃ j, s.lanes[l].out.head? = some j ∧ j.state = .printed) →
    exec (reportCommand l r pins none) s =
      .next (afterExchange l true (.poll b) (raiseHolding l .protocol (heard s l ack pins)))

/-- R77, R83, R108, R119: a well-formed CAPACITY that answers a GREET is accepted when the stock is 64 columns wide or more: K
and the credits are set, the engine is RUNNING with the report's bit, the capture is removed, and the lane is READY, or
HOLDING with a stall begun when its record is ACTIVE or it holds a blank in doubt; a narrower stock fails the greeting.
What follows is that of an exchange that ended good; that a send is tested before the POLL is the model's choice (log
entry 15). -/
def Obligations.CapacityEndsLinkStart : Prop :=
  ∀ (s : State) (l : Lane) (seq k width : Byte) (i : Text) (pins : Pins) (bytes : List Byte) (st : LaneState),
    s.host.busIn = none → s.lanes[l].link.phase = .greeting → s.lanes[l].link.restartDue = false →
    s.lanes[l].link.exchange = some ⟨⟨.greet, bytes⟩, .reporting, none⟩ → s.lanes[l].state = .starting →
    seq.toNat ≤ 1 → 1 ≤ k.toNat → k.toNat ≤ 4 → i.length ≤ 32 →
    st = (if s.faults.recs[l].active = none ∧ ∀ d ∈ s.stock.doubts, d.lane ≠ l then .ready else .holding) →
    (64 ≤ width.toNat →
      ∃ t u, exec (.capacity l seq k width i pins none) s = .next t ∧ t = afterExchange l true .greet u ∧
        u = { s with lanes := u.lanes, journal := u.journal, exch := u.exch, host := u.host } ∧ OtherLanes l s u ∧
        u.lanes[l] = { s.lanes[l] with
          state := st, cap := some k.toNat, credits := k.toNat, pins := pins
          patience := if st = .holding ∧ ¬ (s.lanes[l].queue ≠ [] ∧ magSpent s.stock.mags[l] = true) then
              (if s.office.settings.patience = 0 then none else some s.office.settings.patience)
            else s.lanes[l].patience
          link := { s.lanes[l].link with phase := .running, ack := some (decide (seq = 1)), fails := 0 }
          feed := { s.lanes[l].feed with last := none, since := 0 } } ∧
        Gives [.lane l st .capacity] s u) ∧
    (width.toNat < 64 → s.lanes[l].link.fails < 2 →
      ∃ t, exec (.capacity l seq k width i pins none) s = .next t ∧ t = { s with lanes := t.lanes } ∧ OtherLanes l s t ∧
        t.lanes[l] = { s.lanes[l] with
          pins := pins
          link := { s.lanes[l].link with
            exchange := none, fails := s.lanes[l].link.fails + 1, poll := some s.office.settings.poll } })

/-- R105, R107, R116, R117: NOTHING, and a report whose bit is the acknowledgement bit, end the exchange good and are acted on
no further, with an IMAGE then DELIVERED and a FLUSH carried (that this holds of a repeat too is the model's choice, log
entry 14); on a HOLDING lane a report that names a job, or CAPACITY, acknowledges its bit and nothing more, and FLUSHED
clears the awaited flush. -/
def Obligations.ReportsWithoutEffect : Prop :=
  (∀ (s : State) (l : Lane) (ack : Bool) (f : Frame) (bytes : List Byte) (r : Report) (pins : Pins),
    s.host.busIn = none → s.lanes[l].link.phase = .running → s.lanes[l].link.restartDue = false →
    s.lanes[l].link.ack = some ack → s.lanes[l].link.exchange = some ⟨⟨f, bytes⟩, .reporting, none⟩ →
    r.wellFormed = true → (r = .nothing ∨ r.seq = some (if ack then 1 else 0)) →
    exec (reportCommand l r pins none) s = .next (afterExchange l false f (s.onLane l fun q => { q with
      pins := pins
      out := match f with
        | .image b p => q.out.map fun j => if j.buffer = b ∧ p ≠ 1 ∧ (j.delivery = .carrying false ∨ j.delivery = .carrying true)
            then { j with delivery := .delivered } else j
        | _ => q.out
      link := { q.link with
        fails := 0, flushCarried := if f = .flush then q.link.awaited.isSome else q.link.flushCarried } }))) ∧
  ∀ (s : State) (l : Lane) (ack b : Bool) (pins : Pins), Reporting s l ack b → s.lanes[l].state = .holding →
    (∀ r : Report, r.wellFormed = true →
      (∃ n k w i, r = .accepted (newBit ack) n ∨ r = .printed (newBit ack) n ∨ r = .ejected (newBit ack) n ∨
        r = .spoiled (newBit ack) n 1 ∨ r = .capacity (newBit ack) k w i) →
      exec (reportCommand l r pins none) s = .next (afterExchange l true (.poll b) (heard s l ack pins))) ∧
    ∀ c : Byte, c.toNat ≤ 4 → exec (.flushed l (newBit ack) c pins none) s = .next (afterExchange l true (.poll b)
      ((heard s l ack pins).onLane l fun q => { q with
        repairRefs := [], link := { q.link with awaited := none, flushCarried := false } }))

/-- R111, R112, R116, R128: on a READY or PRINTING lane ACCEPTED marks the oldest DELIVERED job, PRINTED makes the oldest job
out PRINTED if it is FED and raises MARK_MISSED if it is SENT, and FLUSHED within its limit clears the awaited flush; a
report of the four that name a job is discarded when it names a repair reference, and ACCEPTED of any other job, FLUSHED
past its limit, and FLUSHED with none awaited raise PROTOCOL. -/
def Obligations.ReportsOfJobsAccepted : Prop :=
  ∀ (s : State) (l : Lane) (ack b : Bool) (pins : Pins) (ref count : Byte), Reporting s l ack b → Working s l →
    ref.toNat < 48 → count.toNat ≤ 4 →
    ((∃ q ∈ s.lanes[l].repairRefs, q.val = ref.toNat) → ∀ r : Report,
      (r = .accepted (newBit ack) ref ∨ r = .printed (newBit ack) ref ∨ r = .ejected (newBit ack) ref ∨
        r = .spoiled (newBit ack) ref 1) →
      exec (reportCommand l r pins none) s = .next (afterExchange l true (.poll b) (heard s l ack pins))) ∧
    ((∀ q ∈ s.lanes[l].repairRefs, q.val ≠ ref.toNat) →
      (∀ j, s.lanes[l].out.find? (fun j => decide (j.delivery = .delivered)) = some j → j.buffer.val = ref.toNat →
        exec (.accepted l (newBit ack) ref pins none) s = .next (afterExchange l true (.poll b)
          ((heard s l ack pins).onLane l fun q => { q with
            out := q.out.map fun i => if i.buffer = j.buffer then { i with delivery := .accepted } else i }))) ∧
      ((∀ j, s.lanes[l].out.find? (fun j => decide (j.delivery = .delivered)) = some j → j.buffer.val ≠ ref.toNat) →
        exec (.accepted l (newBit ack) ref pins none) s =
          .next (afterExchange l true (.poll b) (raiseHolding l .protocol (heard s l ack pins)))) ∧
      ∀ j, s.lanes[l].out.head? = some j → j.delivery = .accepted → j.buffer.val = ref.toNat →
        (j.state = .fed → exec (.printed l (newBit ack) ref pins none) s = .next (afterExchange l true (.poll b)
          ((heard s l ack pins).onLane l fun q => { q with
            out := q.out.map fun i => if i.buffer = j.buffer then { i with state := .printed } else i }))) ∧
        (j.state = .sent → exec (.printed l (newBit ack) ref pins none) s =
          .next (afterExchange l true (.poll b) (raiseHolding l .markMissed (heard s l ack pins))))) ∧
    (∀ limit u, s.lanes[l].link.awaited = some limit →
      u = ((heard s l ack pins).onLane l fun q => { q with
        repairRefs := [], link := { q.link with awaited := none, flushCarried := false } }) →
      exec (.flushed l (newBit ack) count pins none) s = .next (afterExchange l true (.poll b)
        (if count.toNat ≤ limit then u else raiseHolding l .protocol u))) ∧
    (s.lanes[l].link.awaited = none → exec (.flushed l (newBit ack) count pins none) s =
      .next (afterExchange l true (.poll b) (raiseHolding l .protocol (heard s l ack pins))))

/-- R46, R65, R68, R88, R113, R151, R155, R174: EJECTED of the oldest job out, whose mark is ACCEPTED, ends it ISSUED: its ticket
enters the Issue Table in its reservation's place, issued of the kind rises, its total is posted to its window's sales,
its entry is given, its buffer and credit return and its ISSUE is answered, or the answer is held pending while the exchange
does not run (R46). Its end may settle its window's cash-up (PendingCashUpSettles); MARK_MISSED follows if it was SENT. -/
def Obligations.EjectedEndsJobIssued : Prop :=
  ∀ (s : State) (l : Lane) (ack b : Bool) (pins : Pins) (ref : Byte) (j : Job) (n : Nat), Reporting s l ack b → Working s l →
    (∀ q ∈ s.lanes[l].repairRefs, q.val ≠ ref.toNat) → s.lanes[l].out.head? = some j → j.delivery = .accepted →
    j.buffer.val = ref.toNat → j.serial = some n →
    ∃ (t u v : State) (a : Answer), exec (.ejected l (newBit ack) ref pins none) s = .next t ∧ v = testCashUp j.window u ∧
      t = afterExchange l true (.poll b) (if j.state = .sent then raiseHolding l .markMissed v else v) ∧
      u = { s with
        stock := u.stock, issue := u.issue, images := u.images, lanes := u.lanes, till := u.till, journal := u.journal
        office := u.office, exch := u.exch, host := u.host } ∧
      u.stock = { s.stock with counters := s.stock.counters.upd j.kind fun c => { c with issued := c.issued + 1 } } ∧
      u.issue = { s.issue with
        table := s.issue.table ++ [⟨j.kind, n, j.window, j.shift, j.tender, j.total, .issued⟩]
        reserved := s.issue.reserved - 1 } ∧
      u.images = s.images.upd j.buffer (fun _ => none) ∧
      u.office = { s.office with flight := s.office.flight.filter fun e => !decide (e.kind = j.kind ∧ e.serial = n) } ∧
      OtherDrawers j.window s u ∧
      u.till[j.window] = { s.till[j.window] with
        acc := s.till[j.window].acc.upd j.tender fun a => { a with sales := min 99999999999 (a.sales + j.total) }
        counts := { s.till[j.window].counts with issued := min 4294967295 (s.till[j.window].counts.issued + 1) }
        saturated := s.till[j.window].saturated ||
          decide (99999999999 < (s.till[j.window].acc.get j.tender).sales + j.total)
        live := s.till[j.window].live - 1 } ∧
      OtherLanes l s u ∧
      (∃ out, out = (s.lanes[l].out.filter fun i => decide (i.buffer ≠ j.buffer)) ∧
        u.lanes[l] = { s.lanes[l] with
          pins := pins, out := out, credits := s.lanes[l].credits + 1
          state := if out = [] then .ready else s.lanes[l].state
          link := { s.lanes[l].link with fails := 0, ack := some !ack, headFault := false } }) ∧
      Gives [.issued j.kind n l j.window j.shift j.tender j.total j.attempt] s u ∧
      a = ⟨.issued, 13, j.tag, s.office.clock,
        .issue (some n) j.kind l j.pAdult j.pChild j.total j.attempt j.spoilt none⟩ ∧
      (s.exch.state = .running → AnsweredSlot u j.slot a ∧ ExchangeKept s.exch u.exch) ∧
      (s.exch.state ≠ .running → u.exch = { s.exch with
        pendingAns := s.exch.pendingAns ++ [(j.slot, a)], alerts := u.exch.alerts }) ∧
      (∀ i, (s.exch.state ≠ .running ∨ i ≠ j.slot) → SlotKept s u i) ∧ u.exch.tags = s.exch.tags ∧
      u.host.snapshot = s.host.snapshot

/-- R16, R46, R66, R68, R94, R114, R129, R138, R155: SPOILED of the oldest job out, whose mark is ACCEPTED, spoils its serial;
the job returns to the queue with attempt 2 when its order carried RETRY and its attempt is 1, and otherwise ends SPOILT, its
answer held pending while the exchange does not run, which may settle its window's cash-up. HEAD_FAULT follows: a recovered fault that sets the head-fault mark while that is
clear, a holding fault while it is set. MARK_MISSED follows if the job was SENT. -/
def Obligations.SpoiledRetriesOrEndsJob : Prop :=
  ∀ (s : State) (l : Lane) (ack b : Bool) (pins : Pins) (ref : Byte) (j : Job) (n : Nat), Reporting s l ack b → Working s l →
    (∀ q ∈ s.lanes[l].repairRefs, q.val ≠ ref.toNat) → s.lanes[l].out.head? = some j → j.delivery = .accepted →
    j.buffer.val = ref.toNat → j.serial = some n →
    s.faults.recs[l].deferred = none → s.journal.overflow = [] → s.journal.holding.length < 254 →
    ∃ (t u v w : State) (again : Bool) (a : Answer), exec (.spoiled l (newBit ack) ref 1 pins none) s = .next t ∧
      again = (j.retry && decide (j.attempt = 1)) ∧
      u = { s with
        stock := u.stock, issue := u.issue, images := u.images, lanes := u.lanes, till := u.till, journal := u.journal
        office := u.office, exch := u.exch, host := u.host } ∧
      u.stock = { s.stock with counters := s.stock.counters.upd j.kind fun c => { c with spoilt := c.spoilt + 1 } } ∧
      u.issue = (if again then s.issue else { s.issue with reserved := s.issue.reserved - 1 }) ∧
      u.images = (if again then s.images else s.images.upd j.buffer fun _ => none) ∧
      u.office = { s.office with flight := s.office.flight.filter fun e => !decide (e.kind = j.kind ∧ e.serial = n) } ∧
      OtherDrawers j.window s u ∧
      u.till[j.window] = { s.till[j.window] with
        counts := { s.till[j.window].counts with spoilt := min 4294967295 (s.till[j.window].counts.spoilt + 1) }
        live := if again then s.till[j.window].live else s.till[j.window].live - 1 } ∧
      OtherLanes l s u ∧
      (∃ out queue, out = (s.lanes[l].out.filter fun i => decide (i.buffer ≠ j.buffer)) ∧
        queue = (if again then insertJob { j with
            spoilt := j.spoilt ++ [n], serial := none, state := .queued, attempt := 2, delivery := .carrying false }
          s.lanes[l].queue else s.lanes[l].queue) ∧
        u.lanes[l] = { s.lanes[l] with
          pins := pins, out := out, queue := queue, credits := s.lanes[l].credits + 1
          state := if out = [] then .ready else s.lanes[l].state
          act := { s.lanes[l].act with blanksSpoilt := min 4294967295 (s.lanes[l].act.blanksSpoilt + 1) }
          link := { s.lanes[l].link with fails := 0, ack := some !ack } }) ∧
      Gives [.spoilt j.kind n n 1 l (some j.window) .headFault] s u ∧
      a = ⟨.spoilt, 13, j.tag, s.office.clock,
        .issue none j.kind l j.pAdult j.pChild j.total j.attempt (j.spoilt ++ [n]) none⟩ ∧
      (again = true → u.exch = { s.exch with alerts := u.exch.alerts }) ∧
      (again = false → s.exch.state = .running → AnsweredSlot u j.slot a ∧ ExchangeKept s.exch u.exch) ∧
      (again = false → s.exch.state ≠ .running → u.exch = { s.exch with
        pendingAns := s.exch.pendingAns ++ [(j.slot, a)], alerts := u.exch.alerts }) ∧
      (∀ i, (again = true ∨ s.exch.state ≠ .running ∨ i ≠ j.slot) → SlotKept s u i) ∧ u.exch.tags = s.exch.tags ∧
      u.host.snapshot = s.host.snapshot ∧
      v = (if again then u else testCashUp j.window u) ∧
      (s.lanes[l].link.headFault = false →
        w = { v with
          journal := w.journal, exch := { v.exch with alerts := w.exch.alerts }
          host := { v.host with journal := w.host.journal }
          lanes := v.lanes.upd l fun r => { r with
            act := { r.act with faults := min 4294967295 (r.act.faults + 1) }
            link := { r.link with headFault := true } } } ∧
        Gives [.fault l .headFault true 0] v w) ∧
      (s.lanes[l].link.headFault = true → w = raiseHolding l .headFault v) ∧
      t = afterExchange l true (.poll b) (stallEdged l s (if j.state = .sent then raiseHolding l .markMissed w else w))

/-- R100, R102, R105, R106: after an exchange that ended good, the second part of an IMAGE whose job is out is carried; else
the waiting frame, where an IMAGE whose job has left the lane is dropped; else the front job is sent when it can be; else a
POLL follows at once if a report other than NOTHING was accepted; else the poll timer starts. That a send is tested before that
POLL, and so goes first, is the model's choice (log entry 15). -/
def Obligations.NextExchange : Prop :=
  ∀ (s u : State) (l : Lane) (other ack : Bool) (f : Frame),
    s.lanes[l].link.phase = .running → s.lanes[l].link.repeatFrame = none → s.lanes[l].link.ack = some ack →
    u = { s with lanes := s.lanes.upd l fun r => { r with link := { r.link with exchange := none, waiting := none } } } →
    ∃ t, afterExchange l other f s = t ∧
      (∀ b, f = .image b 1 → (∃ j ∈ s.lanes[l].out, j.buffer = b) →
        t = { s with lanes := t.lanes } ∧ OtherLanes l s t ∧ t.lanes[l].queue = s.lanes[l].queue ∧
        ∃ x, t.lanes[l].link.exchange = some x ∧ x.carried.frame = .image b 2) ∧
      ((∀ b, f = .image b 1 → ∀ j ∈ s.lanes[l].out, j.buffer ≠ b) →
        (∀ g, s.lanes[l].link.waiting = some g → (∀ b p, g = .image b p → ∃ j ∈ s.lanes[l].out, j.buffer = b) →
          t = { s with lanes := t.lanes } ∧ OtherLanes l s t ∧ t.lanes[l].queue = s.lanes[l].queue ∧
          t.lanes[l].link.waiting = none ∧ ∃ x, t.lanes[l].link.exchange = some x ∧ x.carried.frame = g) ∧
        ((s.lanes[l].link.waiting = none ∨
            ∃ b p, s.lanes[l].link.waiting = some (.image b p) ∧ ∀ j ∈ s.lanes[l].out, j.buffer ≠ b) →
          (canSend u l = true → t = trySend l u) ∧
          (canSend u l = false → other = true → t = { u with lanes := u.lanes.upd l fun r => { r with link := { r.link with
            poll := none
            exchange := some (startExchange r.pins s.office.settings.stretch ⟨.poll ack, pollBytes ack⟩) } } }) ∧
          (canSend u l = false → other = false → t = { u with lanes := u.lanes.upd l fun r => { r with link := { r.link with
            poll := some s.office.settings.poll } } })))

/-- R15, R64, R79, R85, R89, R90, R94, R100, R174: when the sending condition holds, the front job takes the magazine's next
serial, which is written into its image and into the Flight List; it stands SENT at the back of the out-list, the credits
fall by 1, a READY lane is PRINTING, and its IMAGE exchange begins; a send that exhausts the magazine under a queue begins
a stall. When the condition fails in any part, the test sends nothing. A job that joins a lane does so at the back of its
queue with the lane's join number; it counts as a job queued, unless the lane is PARKED; it may begin a stall; and the
sending condition is tested. -/
def Obligations.SendTakesNextSerial : Prop :=
  (∀ (s : State) (l : Lane) (j : Job) (q : List Job) (m : Loaded), Working s l → s.lanes[l].queue = j :: q →
    0 < s.lanes[l].credits → s.stock.mags[l] = some m → m.kind = j.kind → m.next ≤ m.last →
    s.lanes[l].link.awaited = none → s.lanes[l].link.phase = .running → s.lanes[l].link.exchange = none →
    s.lanes[l].link.repeatFrame = none → (∀ i ∈ s.lanes[l].out, i.buffer ≠ j.buffer) →
    ∃ t im part, trySend l s = t ∧
      im = (s.images[j.buffer].getD []).map (fun f =>
        if f.serial then { f with text := alignRight f.text.length (fixedDigits 8 m.next) } else f) ∧
      part = (if 1000 < 8 + (im.map fun f => 3 + f.text.length).sum then 1 else 0) ∧
      t = { s with stock := t.stock, images := t.images, lanes := t.lanes, office := t.office } ∧
      t.stock = { s.stock with mags := s.stock.mags.upd l fun _ => some { m with next := m.next + 1 } } ∧
      t.images = s.images.upd j.buffer (fun _ => some im) ∧
      t.office = { s.office with flight := s.office.flight ++
        [⟨j.kind, m.next, j.lane, j.window, j.shift, j.tender, j.total, j.tag⟩] } ∧
      OtherLanes l s t ∧
      t.lanes[l] = { s.lanes[l] with
        queue := q, credits := s.lanes[l].credits - 1, state := .printing
        out := s.lanes[l].out ++ [{ j with serial := some m.next, state := .sent, delivery := .carrying true }]
        patience := if q ≠ [] ∧ m.next = m.last then
            (if s.office.settings.patience = 0 then none else some s.office.settings.patience)
          else s.lanes[l].patience
        link := { s.lanes[l].link with
          waiting := none, poll := none
          exchange := some (startExchange s.lanes[l].pins s.office.settings.stretch
            ⟨.image j.buffer part, imageBytes j.buffer part m.next j.kind im⟩) } }) ∧
  (∀ (s : State) (l : Lane),
    ¬ (Working s l ∧ 0 < s.lanes[l].credits ∧ s.lanes[l].link.awaited = none ∧ s.lanes[l].link.phase = .running ∧
      s.lanes[l].link.exchange = none ∧ s.lanes[l].link.repeatFrame = none ∧
      ∃ j q m, s.lanes[l].queue = j :: q ∧ s.stock.mags[l] = some m ∧ m.kind = j.kind ∧ m.next ≤ m.last) →
    trySend l s = s) ∧
  ∀ (s : State) (l : Lane) (j : Job) (w : State),
    w = { s with lanes := s.lanes.upd l fun r => { r with
      queue := r.queue ++ [{ j with lane := l, joinNo := r.joinNo }], joinNo := r.joinNo + 1
      act := match r.state with
        | .parked _ => r.act
        | _ => { r.act with jobsQueued := min 4294967295 (r.act.jobsQueued + 1) } } } →
    joinLane l j s = trySend l (stallEdged l s w)

/-! ### Feed supervision and hold patience -/

/-- R81, R118, R119, R126, R132: a STEP pulse on a lane whose Feed Monitor counts raises the step counter and steps since
mark, and raises MARK_MISSED on a READY or PRINTING lane when steps since mark then exceed floor(5N/2) while a job awaits
its mark; no job awaits one on a lane whose magazine is EMPTY. On an OFF or PARKED lane the pulse is ignored. The
missed-mark limit is such a pulse that raises the fault, and where a pulse would raise none it does nothing: the model's
choice (log entry 22). That the line is ignored in the start-up period is the model's reading (log entry 23), and so is
that the command brings the levels of the lane's input lines (log entry 8). -/
def Obligations.StepCountsAndWatches : Prop :=
  ∀ (s : State) (l : Lane) (pins : Pins), s.host.busIn = none →
    (∀ (u : State) (N : Nat), s.office.startUp = none →
      (s.lanes[l].state = .starting ∨ s.lanes[l].state = .holding ∨ Working s l) →
      ((∃ m, s.stock.mags[l] = some m ∧ N = s.stock.kinds[m.kind].pitch) ∨
        s.stock.mags[l] = none ∧ ∀ j ∈ s.lanes[l].out, j.state ≠ .sent) →
      u = { s with lanes := s.lanes.upd l fun r => { r with
        pins := pins
        feed := { r.feed with
          counter := r.feed.counter + 1, since := if r.feed.since < 65535 then r.feed.since + 1 else r.feed.since } } } →
      ((Working s l ∧ (∃ j ∈ s.lanes[l].out, j.state = .sent) ∧ 5 * N / 2 < u.lanes[l].feed.since) →
        exec (.step l ⟨pins, none⟩) s = .next (raiseHolding l .markMissed u) ∧
        exec (.missedMarkLimit l ⟨pins, none⟩) s = .next (raiseHolding l .markMissed u)) ∧
      (¬ (Working s l ∧ (∃ j ∈ s.lanes[l].out, j.state = .sent) ∧ 5 * N / 2 < u.lanes[l].feed.since) →
        exec (.step l ⟨pins, none⟩) s = .next u ∧ exec (.missedMarkLimit l ⟨pins, none⟩) s = .next s)) ∧
    ((s.office.startUp ≠ none ∨ s.lanes[l].state = .off ∨ ∃ p, s.lanes[l].state = .parked p) →
      exec (.step l ⟨pins, none⟩) s = .next { s with lanes := s.lanes.upd l fun r => { r with pins := pins } } ∧
      exec (.missedMarkLimit l ⟨pins, none⟩) s = .next s)

/-- R119 to R122: the mark of the oldest SENT job, unclassified without a predecessor, SINGLE within t of N, or PITCH_WRONG,
makes it FED, counts a blank fed and becomes the last capture; PITCH_WRONG is then raised as a holding fault. (The DOUBLE
mark is DoubleFeedRepairs.) -/
def Obligations.MarkFeedsJob : Prop :=
  ∀ (s : State) (l : Lane) (pins : Pins) (m : Loaded) (j : Job) (k : KindRec) (p : Nat), s.host.busIn = none →
    s.office.startUp = none → Working s l → s.stock.mags[l] = some m → k = s.stock.kinds[m.kind] →
    s.lanes[l].out.find? (fun i => decide (i.state = .sent)) = some j →
    ∃ u, u = { s with lanes := s.lanes.upd l fun r => { r with
        pins := pins
        feed := { r.feed with last := some r.feed.counter, since := 0 }
        out := r.out.map fun i => if i.buffer = j.buffer then { i with state := .fed } else i
        act := { r.act with blanksFed := min 4294967295 (r.act.blanksFed + 1) } } } ∧
      (s.lanes[l].feed.last = none → exec (.mark l ⟨pins, none⟩) s = .next u) ∧
      (∀ c, s.lanes[l].feed.last = some c → p = (s.lanes[l].feed.counter - c).toNat →
        (s.lanes[l].feed.since < 65535 → k.pitch ≤ p + k.tol → p ≤ k.pitch + k.tol →
          exec (.mark l ⟨pins, none⟩) s = .next u) ∧
        (s.lanes[l].feed.since = 65535 ∨ ¬ (k.pitch ≤ p + k.tol ∧ p ≤ k.pitch + k.tol) ∧
            ¬ (2 * k.pitch ≤ p + k.tol ∧ p ≤ 2 * k.pitch + k.tol) →
          exec (.mark l ⟨pins, none⟩) s = .next (raiseHolding l .pitchWrong u)))

/-- R16, R110, R122, R124, R127, R128, R129, R138: a DOUBLE mark. The job's serial n is spoilt, and n + 1 with it, from the
later SENT job that holds it or else at next, both against the job whose mark it was. The job goes back to the queue with
attempt 2, or ends SPOILT, which may settle a cash-up. The sequence repair recalls every later SENT job, so that the
returned jobs stand at the front of the queue in the order in which they joined; next is the serial after the spoilt ones;
a FLUSH is awaited with the number of recalled jobs whose IMAGE had begun to be carried, unless one is already; the repair
references are the buffers of all these jobs; and DOUBLE_FEED is recorded as a recovered fault. -/
def Obligations.DoubleFeedRepairs : Prop :=
  ∀ (s : State) (l : Lane) (pins : Pins) (m : Loaded) (fed rest : List Job) (j : Job) (n p : Nat) (c : BitVec 16) (k : KindRec),
    s.host.busIn = none → s.office.startUp = none → Working s l → s.stock.mags[l] = some m → k = s.stock.kinds[m.kind] →
    s.lanes[l].out = fed ++ j :: rest → (∀ i ∈ fed, i.state ≠ .sent) → (∀ i ∈ j :: rest, i.state = .sent ∧ i.kind = m.kind) →
    (j :: rest).map Job.serial = (List.range' n (rest.length + 1)).map some → m.next = n + rest.length + 1 →
    (s.lanes[l].out.map Job.buffer).Nodup → s.lanes[l].feed.last = some c → s.lanes[l].feed.since < 65535 →
    p = (s.lanes[l].feed.counter - c).toNat → 2 * k.pitch ≤ p + k.tol → p ≤ 2 * k.pitch + k.tol →
    ¬ (k.pitch ≤ p + k.tol ∧ p ≤ k.pitch + k.tol) → s.faults.recs[l].deferred = none → s.journal.overflow = [] →
    s.journal.holding.length < 253 →
    ∃ (t v u : State) (lost : List Nat) (again : Bool) (j' : Job) (queue : List Job) (a : Answer),
      exec (.mark l ⟨pins, none⟩) s = .next t ∧
      lost = (if rest = [] ∧ m.last < m.next then [n] else [n, n + 1]) ∧ again = (j.retry && decide (j.attempt = 1)) ∧
      j' = { j with
        spoilt := j.spoilt ++ lost, serial := none, state := .queued, attempt := 2, delivery := .carrying false } ∧
      queue = rest.foldl (fun q i => insertJob i.requeue q)
        (if again then insertJob j' s.lanes[l].queue else s.lanes[l].queue) ∧
      ((j :: rest ++ s.lanes[l].queue).Pairwise (fun x y => x.joinNo ≠ y.joinNo ∧ x.joined y = true) →
        queue = (if again then [j'] else []) ++ rest.map Job.requeue ++ s.lanes[l].queue) ∧
      u = { s with
        stock := u.stock, issue := u.issue, images := u.images, lanes := u.lanes, till := u.till, journal := u.journal
        office := u.office, exch := u.exch, host := u.host } ∧
      u.stock = { s.stock with
        mags := s.stock.mags.upd l fun _ => some { m with next := n + lost.length }
        counters := s.stock.counters.upd m.kind fun x => { x with spoilt := x.spoilt + lost.length } } ∧
      u.issue = (if again then s.issue else { s.issue with reserved := s.issue.reserved - 1 }) ∧
      u.images = (if again then s.images else s.images.upd j.buffer fun _ => none) ∧
      u.office = { s.office with flight := s.office.flight.filter fun e =>
        !(decide (e.kind = m.kind ∧ n ≤ e.serial ∧ e.serial ≤ n + rest.length)) } ∧
      OtherDrawers j.window s u ∧
      u.till[j.window] = { s.till[j.window] with
        counts := { s.till[j.window].counts with
          spoilt := min 4294967295 (s.till[j.window].counts.spoilt + lost.length) }
        live := if again then s.till[j.window].live else s.till[j.window].live - 1 } ∧
      u.lanes = (stallEdged l s { s with stock := u.stock, lanes := s.lanes.upd l fun r =>
        (flushLane s.office.settings (rest.countP fun i => decide (i.delivery ≠ .carrying false)) { r with
          pins := pins, queue := queue, out := fed, credits := r.credits + 1 + rest.length
          feed := { r.feed with last := some r.feed.counter, since := 0 }
          act := { r.act with
            blanksFed := min 4294967295 (r.act.blanksFed + 2)
            blanksSpoilt := min 4294967295 (r.act.blanksSpoilt + lost.length)
            faults := min 4294967295 (r.act.faults + 1) }
          state := if fed = [] then .ready else r.state
          repairRefs := r.repairRefs ++ j.buffer :: rest.map Job.buffer }) }).lanes ∧
      Gives (lost.map fun x => .spoilt m.kind x x 1 l (some j.window) .doubleFeed) s u ∧
      a = ⟨.spoilt, 13, j.tag, s.office.clock,
        .issue none j.kind l j.pAdult j.pChild j.total j.attempt (j.spoilt ++ lost) none⟩ ∧
      (again = false → s.exch.state = .running → AnsweredSlot u j.slot a) ∧
      (again = true ∨ s.exch.state = .running → ExchangeKept s.exch u.exch) ∧
      (again = false → s.exch.state ≠ .running → u.exch.pendingAns = s.exch.pendingAns ++ [(j.slot, a)] ∧
        SameRegisters s.exch u.exch) ∧
      (∀ i, (again = true ∨ s.exch.state ≠ .running ∨ i ≠ j.slot) → SlotKept s u i) ∧ u.exch.tags = s.exch.tags ∧
      u.host.snapshot = s.host.snapshot ∧
      v = (if again then u else testCashUp j.window u) ∧
      t = { v with
        journal := t.journal, exch := { v.exch with alerts := t.exch.alerts }
        host := { v.host with journal := t.host.journal } } ∧
      Gives [.fault l .doubleFeed true 0] v t

/-- R16, R81, R110, R118, R119, R123, R125, R127, R138: a mark on a STARTING or HOLDING lane is recorded as a recovered UNEXPECTED_FEED
and takes no serial. On a READY or PRINTING lane with no job SENT it also spoils the magazine's next serial, if there is
one, and a FLUSH is awaited with limit 0 unless one is already; the jobs out stay. On an OFF or PARKED lane the edge is ignored
(R81, R118), and so it is in the start-up period, which is the model's reading (log entry 23). That the command brings the
levels of the lane's input lines is log entry 8's. -/
def Obligations.UnexpectedMark : Prop :=
  (∀ (s : State) (l : Lane) (pins : Pins), s.host.busIn = none →
    (s.office.startUp ≠ none ∨ s.lanes[l].state = .off ∨ ∃ p, s.lanes[l].state = .parked p) →
    exec (.mark l ⟨pins, none⟩) s = .next { s with lanes := s.lanes.upd l fun r => { r with pins := pins } }) ∧
  ∀ (s : State) (l : Lane) (pins : Pins), s.host.busIn = none → s.office.startUp = none →
    s.faults.recs[l].deferred = none → s.journal.overflow = [] → s.journal.holding.length < 255 →
    ((s.lanes[l].state = .starting ∨ s.lanes[l].state = .holding) →
      ∃ t, exec (.mark l ⟨pins, none⟩) s = .next t ∧
        t = { s with
          lanes := t.lanes, journal := t.journal, exch := { s.exch with alerts := t.exch.alerts }
          host := { s.host with journal := t.host.journal } } ∧
        t.lanes = (s.lanes.upd l fun r => { r with
          pins := pins
          feed := { r.feed with last := some r.feed.counter, since := 0 }
          act := { r.act with
            blanksFed := min 4294967295 (r.act.blanksFed + 1), faults := min 4294967295 (r.act.faults + 1) } }) ∧
        Gives [.fault l .unexpectedFeed true 0] s t) ∧
    (Working s l → (∀ j ∈ s.lanes[l].out, j.state ≠ .sent) →
      ∃ (t : State) (lost : List Loaded), exec (.mark l ⟨pins, none⟩) s = .next t ∧
        lost = (match s.stock.mags[l] with
          | none => []
          | some m => if m.next ≤ m.last then [m] else []) ∧
        t = { s with
          stock := t.stock, lanes := t.lanes, journal := t.journal, exch := { s.exch with alerts := t.exch.alerts }
          host := { s.host with journal := t.host.journal } } ∧
        t.stock = (match lost with
          | [] => s.stock
          | m :: _ => { s.stock with
              mags := s.stock.mags.upd l fun _ => some { m with next := m.next + 1 }
              counters := s.stock.counters.upd m.kind fun c => { c with spoilt := c.spoilt + 1 } }) ∧
        t.lanes = (stallEdged l s { s with stock := t.stock, lanes := s.lanes.upd l fun r =>
          (flushLane s.office.settings 0 { r with
            pins := pins
            feed := { r.feed with last := some r.feed.counter, since := 0 }
            act := { r.act with
              blanksFed := min 4294967295 (r.act.blanksFed + 1)
              blanksSpoilt := if lost = [] then r.act.blanksSpoilt else min 4294967295 (r.act.blanksSpoilt + 1)
              faults := min 4294967295 (r.act.faults + 1) }
            state := if r.out = [] then .ready else r.state }) }).lanes ∧
        Gives (lost.map (fun m => .spoilt m.kind m.next m.next 1 l none .unexpectedFeed) ++
          [.fault l .unexpectedFeed true 0]) s t)

/-- R85, R86, R90, R91, R92: at the expiry of a running patience timer the lane's queued jobs are considered from the front to
the back, and the timer starts again while the lane is still stalled: with the hold patience as it then stands, which is
the model's choice (log entry 40). A MOVABLE job whose window's alternate lane is another lane, READY or PRINTING, with
stock of its kind, leaves the queue and joins that lane with its shared buffer, or with a buffer given for that lane, into
which its image is copied while its reserved buffer is freed; any other job stays. That each move joins, and may send,
before the next job is considered is the model's reading (log entry 25); a timer that is not running cannot expire (log
entry 3). -/
def Obligations.PatienceMovesJobs : Prop :=
  ∀ (s : State) (l : Lane),
    (s.lanes[l].patience = none → exec (.patienceExpiry ⟨l, []⟩) s = .next s) ∧
    (∀ p, s.lanes[l].patience = some p → ∃ t v, exec (.patienceExpiry ⟨l, []⟩) s = .next t ∧
      v = s.lanes[l].queue.foldl (considerJob l)
        { s with lanes := s.lanes.upd l fun r => { r with patience := none } } ∧
      t = if v.lanes[l].state = .holding ∨ v.lanes[l].queue ≠ [] ∧ magSpent v.stock.mags[l] = true then
          { v with lanes := v.lanes.upd l fun r => { r with
            patience := if v.office.settings.patience = 0 then none else some v.office.settings.patience } }
        else v) ∧
    ∀ j : Job,
      ((j.movable = false ∨ ∀ a : Lane, s.till[j.window].alt = some a → a = l ∨ ¬ Working s a ∨
          (∀ m, s.stock.mags[a] = some m → m.kind ≠ j.kind ∨ m.last < m.next) ∨
          32 ≤ j.buffer.val ∧ pickBuffer s a = none) →
        considerJob l s j = s) ∧
      ∀ (a : Lane) (m : Loaded) (left : State), j.movable = true → s.till[j.window].alt = some a → a ≠ l → Working s a →
        s.stock.mags[a] = some m → m.kind = j.kind → m.next ≤ m.last →
        left = { s with lanes := s.lanes.upd l fun r => { r with
          queue := r.queue.filter fun q => decide (q.buffer ≠ j.buffer) } } →
        (j.buffer.val < 32 → considerJob l s j = joinLane a j left) ∧
        ∀ b, 32 ≤ j.buffer.val → pickBuffer s a = some b →
          considerJob l s j = joinLane a { j with buffer := b }
            { left with images := (s.images.upd b fun _ => s.images[j.buffer]).upd j.buffer fun _ => none }
end

