-- ==== Sys2Proof/Laws/State.lean ====
section
/-! SUPPORT. One lemma for each field of State under each of its updates, all true by definition, so that no proof unfolds
a record update; and the rows of a table that has one row changed. -/

namespace Sys2Proof

/-! ### Tables -/

/-- The changed row of a table. -/
@[simp] theorem Table.upd_same {n : Nat} {α : Type} (t : Table n α) (i : Fin n) (f : α → α) : (t.upd i f)[i] = f t[i] := by
  simp [Table.upd]

/-- Every other row of a table that has one row changed. -/
theorem Table.upd_ne {n : Nat} {α : Type} (t : Table n α) (i j : Fin n) (f : α → α) (h : j ≠ i) : (t.upd i f)[j] = t[j] := by
  have : i.val ≠ j.val := fun e => h (Fin.ext e.symm)
  simp [Table.upd, this]

/-- A row of a table that has one row changed. -/
theorem Table.upd_get {n : Nat} {α : Type} (t : Table n α) (i j : Fin n) (f : α → α) :
    (t.upd i f)[j] = if j = i then f t[j] else t[j] := by
  by_cases h : j = i
  · subst h; rw [if_pos rfl]; exact Table.upd_same t j f
  · rw [if_neg h]; exact Table.upd_ne t i j f h

end Sys2Proof

namespace Sys2Proof.Machine

/-! ### State.onStock -/

@[simp] theorem State.onStock_pending (s : State) (f : StockRegister → StockRegister) : (s.onStock f).pending = s.pending := rfl
@[simp] theorem State.onStock_stock (s : State) (f : StockRegister → StockRegister) : (s.onStock f).stock = f s.stock := rfl
@[simp] theorem State.onStock_fare (s : State) (f : StockRegister → StockRegister) : (s.onStock f).fare = s.fare := rfl
@[simp] theorem State.onStock_issue (s : State) (f : StockRegister → StockRegister) : (s.onStock f).issue = s.issue := rfl
@[simp] theorem State.onStock_images (s : State) (f : StockRegister → StockRegister) : (s.onStock f).images = s.images := rfl
@[simp] theorem State.onStock_lanes (s : State) (f : StockRegister → StockRegister) : (s.onStock f).lanes = s.lanes := rfl
@[simp] theorem State.onStock_faults (s : State) (f : StockRegister → StockRegister) : (s.onStock f).faults = s.faults := rfl
@[simp] theorem State.onStock_till (s : State) (f : StockRegister → StockRegister) : (s.onStock f).till = s.till := rfl
@[simp] theorem State.onStock_journal (s : State) (f : StockRegister → StockRegister) : (s.onStock f).journal = s.journal := rfl
@[simp] theorem State.onStock_office (s : State) (f : StockRegister → StockRegister) : (s.onStock f).office = s.office := rfl
@[simp] theorem State.onStock_exch (s : State) (f : StockRegister → StockRegister) : (s.onStock f).exch = s.exch := rfl
@[simp] theorem State.onStock_host (s : State) (f : StockRegister → StockRegister) : (s.onStock f).host = s.host := rfl

/-! ### State.onIssue -/

@[simp] theorem State.onIssue_pending (s : State) (f : IssueController → IssueController) : (s.onIssue f).pending = s.pending := rfl
@[simp] theorem State.onIssue_stock (s : State) (f : IssueController → IssueController) : (s.onIssue f).stock = s.stock := rfl
@[simp] theorem State.onIssue_fare (s : State) (f : IssueController → IssueController) : (s.onIssue f).fare = s.fare := rfl
@[simp] theorem State.onIssue_issue (s : State) (f : IssueController → IssueController) : (s.onIssue f).issue = f s.issue := rfl
@[simp] theorem State.onIssue_images (s : State) (f : IssueController → IssueController) : (s.onIssue f).images = s.images := rfl
@[simp] theorem State.onIssue_lanes (s : State) (f : IssueController → IssueController) : (s.onIssue f).lanes = s.lanes := rfl
@[simp] theorem State.onIssue_faults (s : State) (f : IssueController → IssueController) : (s.onIssue f).faults = s.faults := rfl
@[simp] theorem State.onIssue_till (s : State) (f : IssueController → IssueController) : (s.onIssue f).till = s.till := rfl
@[simp] theorem State.onIssue_journal (s : State) (f : IssueController → IssueController) : (s.onIssue f).journal = s.journal := rfl
@[simp] theorem State.onIssue_office (s : State) (f : IssueController → IssueController) : (s.onIssue f).office = s.office := rfl
@[simp] theorem State.onIssue_exch (s : State) (f : IssueController → IssueController) : (s.onIssue f).exch = s.exch := rfl
@[simp] theorem State.onIssue_host (s : State) (f : IssueController → IssueController) : (s.onIssue f).host = s.host := rfl

/-! ### State.onFaults -/

@[simp] theorem State.onFaults_pending (s : State) (f : FaultTable → FaultTable) : (s.onFaults f).pending = s.pending := rfl
@[simp] theorem State.onFaults_stock (s : State) (f : FaultTable → FaultTable) : (s.onFaults f).stock = s.stock := rfl
@[simp] theorem State.onFaults_fare (s : State) (f : FaultTable → FaultTable) : (s.onFaults f).fare = s.fare := rfl
@[simp] theorem State.onFaults_issue (s : State) (f : FaultTable → FaultTable) : (s.onFaults f).issue = s.issue := rfl
@[simp] theorem State.onFaults_images (s : State) (f : FaultTable → FaultTable) : (s.onFaults f).images = s.images := rfl
@[simp] theorem State.onFaults_lanes (s : State) (f : FaultTable → FaultTable) : (s.onFaults f).lanes = s.lanes := rfl
@[simp] theorem State.onFaults_faults (s : State) (f : FaultTable → FaultTable) : (s.onFaults f).faults = f s.faults := rfl
@[simp] theorem State.onFaults_till (s : State) (f : FaultTable → FaultTable) : (s.onFaults f).till = s.till := rfl
@[simp] theorem State.onFaults_journal (s : State) (f : FaultTable → FaultTable) : (s.onFaults f).journal = s.journal := rfl
@[simp] theorem State.onFaults_office (s : State) (f : FaultTable → FaultTable) : (s.onFaults f).office = s.office := rfl
@[simp] theorem State.onFaults_exch (s : State) (f : FaultTable → FaultTable) : (s.onFaults f).exch = s.exch := rfl
@[simp] theorem State.onFaults_host (s : State) (f : FaultTable → FaultTable) : (s.onFaults f).host = s.host := rfl

/-! ### State.onJournal -/

@[simp] theorem State.onJournal_pending (s : State) (f : JournalWriter → JournalWriter) : (s.onJournal f).pending = s.pending := rfl
@[simp] theorem State.onJournal_stock (s : State) (f : JournalWriter → JournalWriter) : (s.onJournal f).stock = s.stock := rfl
@[simp] theorem State.onJournal_fare (s : State) (f : JournalWriter → JournalWriter) : (s.onJournal f).fare = s.fare := rfl
@[simp] theorem State.onJournal_issue (s : State) (f : JournalWriter → JournalWriter) : (s.onJournal f).issue = s.issue := rfl
@[simp] theorem State.onJournal_images (s : State) (f : JournalWriter → JournalWriter) : (s.onJournal f).images = s.images := rfl
@[simp] theorem State.onJournal_lanes (s : State) (f : JournalWriter → JournalWriter) : (s.onJournal f).lanes = s.lanes := rfl
@[simp] theorem State.onJournal_faults (s : State) (f : JournalWriter → JournalWriter) : (s.onJournal f).faults = s.faults := rfl
@[simp] theorem State.onJournal_till (s : State) (f : JournalWriter → JournalWriter) : (s.onJournal f).till = s.till := rfl
@[simp] theorem State.onJournal_journal (s : State) (f : JournalWriter → JournalWriter) : (s.onJournal f).journal = f s.journal := rfl
@[simp] theorem State.onJournal_office (s : State) (f : JournalWriter → JournalWriter) : (s.onJournal f).office = s.office := rfl
@[simp] theorem State.onJournal_exch (s : State) (f : JournalWriter → JournalWriter) : (s.onJournal f).exch = s.exch := rfl
@[simp] theorem State.onJournal_host (s : State) (f : JournalWriter → JournalWriter) : (s.onJournal f).host = s.host := rfl

/-! ### State.onOffice -/

@[simp] theorem State.onOffice_pending (s : State) (f : OfficeControl → OfficeControl) : (s.onOffice f).pending = s.pending := rfl
@[simp] theorem State.onOffice_stock (s : State) (f : OfficeControl → OfficeControl) : (s.onOffice f).stock = s.stock := rfl
@[simp] theorem State.onOffice_fare (s : State) (f : OfficeControl → OfficeControl) : (s.onOffice f).fare = s.fare := rfl
@[simp] theorem State.onOffice_issue (s : State) (f : OfficeControl → OfficeControl) : (s.onOffice f).issue = s.issue := rfl
@[simp] theorem State.onOffice_images (s : State) (f : OfficeControl → OfficeControl) : (s.onOffice f).images = s.images := rfl
@[simp] theorem State.onOffice_lanes (s : State) (f : OfficeControl → OfficeControl) : (s.onOffice f).lanes = s.lanes := rfl
@[simp] theorem State.onOffice_faults (s : State) (f : OfficeControl → OfficeControl) : (s.onOffice f).faults = s.faults := rfl
@[simp] theorem State.onOffice_till (s : State) (f : OfficeControl → OfficeControl) : (s.onOffice f).till = s.till := rfl
@[simp] theorem State.onOffice_journal (s : State) (f : OfficeControl → OfficeControl) : (s.onOffice f).journal = s.journal := rfl
@[simp] theorem State.onOffice_office (s : State) (f : OfficeControl → OfficeControl) : (s.onOffice f).office = f s.office := rfl
@[simp] theorem State.onOffice_exch (s : State) (f : OfficeControl → OfficeControl) : (s.onOffice f).exch = s.exch := rfl
@[simp] theorem State.onOffice_host (s : State) (f : OfficeControl → OfficeControl) : (s.onOffice f).host = s.host := rfl

/-! ### State.onExch -/

@[simp] theorem State.onExch_pending (s : State) (f : ExchangeController → ExchangeController) : (s.onExch f).pending = s.pending := rfl
@[simp] theorem State.onExch_stock (s : State) (f : ExchangeController → ExchangeController) : (s.onExch f).stock = s.stock := rfl
@[simp] theorem State.onExch_fare (s : State) (f : ExchangeController → ExchangeController) : (s.onExch f).fare = s.fare := rfl
@[simp] theorem State.onExch_issue (s : State) (f : ExchangeController → ExchangeController) : (s.onExch f).issue = s.issue := rfl
@[simp] theorem State.onExch_images (s : State) (f : ExchangeController → ExchangeController) : (s.onExch f).images = s.images := rfl
@[simp] theorem State.onExch_lanes (s : State) (f : ExchangeController → ExchangeController) : (s.onExch f).lanes = s.lanes := rfl
@[simp] theorem State.onExch_faults (s : State) (f : ExchangeController → ExchangeController) : (s.onExch f).faults = s.faults := rfl
@[simp] theorem State.onExch_till (s : State) (f : ExchangeController → ExchangeController) : (s.onExch f).till = s.till := rfl
@[simp] theorem State.onExch_journal (s : State) (f : ExchangeController → ExchangeController) : (s.onExch f).journal = s.journal := rfl
@[simp] theorem State.onExch_office (s : State) (f : ExchangeController → ExchangeController) : (s.onExch f).office = s.office := rfl
@[simp] theorem State.onExch_exch (s : State) (f : ExchangeController → ExchangeController) : (s.onExch f).exch = f s.exch := rfl
@[simp] theorem State.onExch_host (s : State) (f : ExchangeController → ExchangeController) : (s.onExch f).host = s.host := rfl

/-! ### State.onHost -/

@[simp] theorem State.onHost_pending (s : State) (f : HostMem → HostMem) : (s.onHost f).pending = s.pending := rfl
@[simp] theorem State.onHost_stock (s : State) (f : HostMem → HostMem) : (s.onHost f).stock = s.stock := rfl
@[simp] theorem State.onHost_fare (s : State) (f : HostMem → HostMem) : (s.onHost f).fare = s.fare := rfl
@[simp] theorem State.onHost_issue (s : State) (f : HostMem → HostMem) : (s.onHost f).issue = s.issue := rfl
@[simp] theorem State.onHost_images (s : State) (f : HostMem → HostMem) : (s.onHost f).images = s.images := rfl
@[simp] theorem State.onHost_lanes (s : State) (f : HostMem → HostMem) : (s.onHost f).lanes = s.lanes := rfl
@[simp] theorem State.onHost_faults (s : State) (f : HostMem → HostMem) : (s.onHost f).faults = s.faults := rfl
@[simp] theorem State.onHost_till (s : State) (f : HostMem → HostMem) : (s.onHost f).till = s.till := rfl
@[simp] theorem State.onHost_journal (s : State) (f : HostMem → HostMem) : (s.onHost f).journal = s.journal := rfl
@[simp] theorem State.onHost_office (s : State) (f : HostMem → HostMem) : (s.onHost f).office = s.office := rfl
@[simp] theorem State.onHost_exch (s : State) (f : HostMem → HostMem) : (s.onHost f).exch = s.exch := rfl
@[simp] theorem State.onHost_host (s : State) (f : HostMem → HostMem) : (s.onHost f).host = f s.host := rfl

/-! ### State.onLane -/

@[simp] theorem State.onLane_pending (s : State) (l : Lane) (f : LaneRec → LaneRec) : (s.onLane l f).pending = s.pending := rfl
@[simp] theorem State.onLane_stock (s : State) (l : Lane) (f : LaneRec → LaneRec) : (s.onLane l f).stock = s.stock := rfl
@[simp] theorem State.onLane_fare (s : State) (l : Lane) (f : LaneRec → LaneRec) : (s.onLane l f).fare = s.fare := rfl
@[simp] theorem State.onLane_issue (s : State) (l : Lane) (f : LaneRec → LaneRec) : (s.onLane l f).issue = s.issue := rfl
@[simp] theorem State.onLane_images (s : State) (l : Lane) (f : LaneRec → LaneRec) : (s.onLane l f).images = s.images := rfl
@[simp] theorem State.onLane_lanes (s : State) (l : Lane) (f : LaneRec → LaneRec) : (s.onLane l f).lanes = s.lanes.upd l f := rfl
@[simp] theorem State.onLane_faults (s : State) (l : Lane) (f : LaneRec → LaneRec) : (s.onLane l f).faults = s.faults := rfl
@[simp] theorem State.onLane_till (s : State) (l : Lane) (f : LaneRec → LaneRec) : (s.onLane l f).till = s.till := rfl
@[simp] theorem State.onLane_journal (s : State) (l : Lane) (f : LaneRec → LaneRec) : (s.onLane l f).journal = s.journal := rfl
@[simp] theorem State.onLane_office (s : State) (l : Lane) (f : LaneRec → LaneRec) : (s.onLane l f).office = s.office := rfl
@[simp] theorem State.onLane_exch (s : State) (l : Lane) (f : LaneRec → LaneRec) : (s.onLane l f).exch = s.exch := rfl
@[simp] theorem State.onLane_host (s : State) (l : Lane) (f : LaneRec → LaneRec) : (s.onLane l f).host = s.host := rfl

/-! ### State.onLink -/

@[simp] theorem State.onLink_pending (s : State) (l : Lane) (f : LinkEngine → LinkEngine) : (s.onLink l f).pending = s.pending := rfl
@[simp] theorem State.onLink_stock (s : State) (l : Lane) (f : LinkEngine → LinkEngine) : (s.onLink l f).stock = s.stock := rfl
@[simp] theorem State.onLink_fare (s : State) (l : Lane) (f : LinkEngine → LinkEngine) : (s.onLink l f).fare = s.fare := rfl
@[simp] theorem State.onLink_issue (s : State) (l : Lane) (f : LinkEngine → LinkEngine) : (s.onLink l f).issue = s.issue := rfl
@[simp] theorem State.onLink_images (s : State) (l : Lane) (f : LinkEngine → LinkEngine) : (s.onLink l f).images = s.images := rfl
@[simp] theorem State.onLink_lanes (s : State) (l : Lane) (f : LinkEngine → LinkEngine) : (s.onLink l f).lanes = s.lanes.upd l fun r => { r with link := f r.link } := rfl
@[simp] theorem State.onLink_faults (s : State) (l : Lane) (f : LinkEngine → LinkEngine) : (s.onLink l f).faults = s.faults := rfl
@[simp] theorem State.onLink_till (s : State) (l : Lane) (f : LinkEngine → LinkEngine) : (s.onLink l f).till = s.till := rfl
@[simp] theorem State.onLink_journal (s : State) (l : Lane) (f : LinkEngine → LinkEngine) : (s.onLink l f).journal = s.journal := rfl
@[simp] theorem State.onLink_office (s : State) (l : Lane) (f : LinkEngine → LinkEngine) : (s.onLink l f).office = s.office := rfl
@[simp] theorem State.onLink_exch (s : State) (l : Lane) (f : LinkEngine → LinkEngine) : (s.onLink l f).exch = s.exch := rfl
@[simp] theorem State.onLink_host (s : State) (l : Lane) (f : LinkEngine → LinkEngine) : (s.onLink l f).host = s.host := rfl

/-! ### State.onFeed -/

@[simp] theorem State.onFeed_pending (s : State) (l : Lane) (f : FeedMonitor → FeedMonitor) : (s.onFeed l f).pending = s.pending := rfl
@[simp] theorem State.onFeed_stock (s : State) (l : Lane) (f : FeedMonitor → FeedMonitor) : (s.onFeed l f).stock = s.stock := rfl
@[simp] theorem State.onFeed_fare (s : State) (l : Lane) (f : FeedMonitor → FeedMonitor) : (s.onFeed l f).fare = s.fare := rfl
@[simp] theorem State.onFeed_issue (s : State) (l : Lane) (f : FeedMonitor → FeedMonitor) : (s.onFeed l f).issue = s.issue := rfl
@[simp] theorem State.onFeed_images (s : State) (l : Lane) (f : FeedMonitor → FeedMonitor) : (s.onFeed l f).images = s.images := rfl
@[simp] theorem State.onFeed_lanes (s : State) (l : Lane) (f : FeedMonitor → FeedMonitor) : (s.onFeed l f).lanes = s.lanes.upd l fun r => { r with feed := f r.feed } := rfl
@[simp] theorem State.onFeed_faults (s : State) (l : Lane) (f : FeedMonitor → FeedMonitor) : (s.onFeed l f).faults = s.faults := rfl
@[simp] theorem State.onFeed_till (s : State) (l : Lane) (f : FeedMonitor → FeedMonitor) : (s.onFeed l f).till = s.till := rfl
@[simp] theorem State.onFeed_journal (s : State) (l : Lane) (f : FeedMonitor → FeedMonitor) : (s.onFeed l f).journal = s.journal := rfl
@[simp] theorem State.onFeed_office (s : State) (l : Lane) (f : FeedMonitor → FeedMonitor) : (s.onFeed l f).office = s.office := rfl
@[simp] theorem State.onFeed_exch (s : State) (l : Lane) (f : FeedMonitor → FeedMonitor) : (s.onFeed l f).exch = s.exch := rfl
@[simp] theorem State.onFeed_host (s : State) (l : Lane) (f : FeedMonitor → FeedMonitor) : (s.onFeed l f).host = s.host := rfl

/-! ### State.onAct -/

@[simp] theorem State.onAct_pending (s : State) (l : Lane) (f : Activity → Activity) : (s.onAct l f).pending = s.pending := rfl
@[simp] theorem State.onAct_stock (s : State) (l : Lane) (f : Activity → Activity) : (s.onAct l f).stock = s.stock := rfl
@[simp] theorem State.onAct_fare (s : State) (l : Lane) (f : Activity → Activity) : (s.onAct l f).fare = s.fare := rfl
@[simp] theorem State.onAct_issue (s : State) (l : Lane) (f : Activity → Activity) : (s.onAct l f).issue = s.issue := rfl
@[simp] theorem State.onAct_images (s : State) (l : Lane) (f : Activity → Activity) : (s.onAct l f).images = s.images := rfl
@[simp] theorem State.onAct_faults (s : State) (l : Lane) (f : Activity → Activity) : (s.onAct l f).faults = s.faults := rfl
@[simp] theorem State.onAct_till (s : State) (l : Lane) (f : Activity → Activity) : (s.onAct l f).till = s.till := rfl
@[simp] theorem State.onAct_journal (s : State) (l : Lane) (f : Activity → Activity) : (s.onAct l f).journal = s.journal := rfl
@[simp] theorem State.onAct_office (s : State) (l : Lane) (f : Activity → Activity) : (s.onAct l f).office = s.office := rfl
@[simp] theorem State.onAct_exch (s : State) (l : Lane) (f : Activity → Activity) : (s.onAct l f).exch = s.exch := rfl
@[simp] theorem State.onAct_host (s : State) (l : Lane) (f : Activity → Activity) : (s.onAct l f).host = s.host := rfl

/-! ### State.onDrawer -/

@[simp] theorem State.onDrawer_pending (s : State) (w : Window) (f : Drawer → Drawer) : (s.onDrawer w f).pending = s.pending := rfl
@[simp] theorem State.onDrawer_stock (s : State) (w : Window) (f : Drawer → Drawer) : (s.onDrawer w f).stock = s.stock := rfl
@[simp] theorem State.onDrawer_fare (s : State) (w : Window) (f : Drawer → Drawer) : (s.onDrawer w f).fare = s.fare := rfl
@[simp] theorem State.onDrawer_issue (s : State) (w : Window) (f : Drawer → Drawer) : (s.onDrawer w f).issue = s.issue := rfl
@[simp] theorem State.onDrawer_images (s : State) (w : Window) (f : Drawer → Drawer) : (s.onDrawer w f).images = s.images := rfl
@[simp] theorem State.onDrawer_lanes (s : State) (w : Window) (f : Drawer → Drawer) : (s.onDrawer w f).lanes = s.lanes := rfl
@[simp] theorem State.onDrawer_faults (s : State) (w : Window) (f : Drawer → Drawer) : (s.onDrawer w f).faults = s.faults := rfl
@[simp] theorem State.onDrawer_till (s : State) (w : Window) (f : Drawer → Drawer) : (s.onDrawer w f).till = s.till.upd w f := rfl
@[simp] theorem State.onDrawer_journal (s : State) (w : Window) (f : Drawer → Drawer) : (s.onDrawer w f).journal = s.journal := rfl
@[simp] theorem State.onDrawer_office (s : State) (w : Window) (f : Drawer → Drawer) : (s.onDrawer w f).office = s.office := rfl
@[simp] theorem State.onDrawer_exch (s : State) (w : Window) (f : Drawer → Drawer) : (s.onDrawer w f).exch = s.exch := rfl
@[simp] theorem State.onDrawer_host (s : State) (w : Window) (f : Drawer → Drawer) : (s.onDrawer w f).host = s.host := rfl

/-! ### State.setMag -/

@[simp] theorem State.setMag_pending (s : State) (l : Lane) (m : Option Loaded) : (s.setMag l m).pending = s.pending := rfl
@[simp] theorem State.setMag_stock (s : State) (l : Lane) (m : Option Loaded) : (s.setMag l m).stock = { s.stock with mags := s.stock.mags.upd l fun _ => m } := rfl
@[simp] theorem State.setMag_fare (s : State) (l : Lane) (m : Option Loaded) : (s.setMag l m).fare = s.fare := rfl
@[simp] theorem State.setMag_issue (s : State) (l : Lane) (m : Option Loaded) : (s.setMag l m).issue = s.issue := rfl
@[simp] theorem State.setMag_images (s : State) (l : Lane) (m : Option Loaded) : (s.setMag l m).images = s.images := rfl
@[simp] theorem State.setMag_lanes (s : State) (l : Lane) (m : Option Loaded) : (s.setMag l m).lanes = s.lanes := rfl
@[simp] theorem State.setMag_faults (s : State) (l : Lane) (m : Option Loaded) : (s.setMag l m).faults = s.faults := rfl
@[simp] theorem State.setMag_till (s : State) (l : Lane) (m : Option Loaded) : (s.setMag l m).till = s.till := rfl
@[simp] theorem State.setMag_journal (s : State) (l : Lane) (m : Option Loaded) : (s.setMag l m).journal = s.journal := rfl
@[simp] theorem State.setMag_office (s : State) (l : Lane) (m : Option Loaded) : (s.setMag l m).office = s.office := rfl
@[simp] theorem State.setMag_exch (s : State) (l : Lane) (m : Option Loaded) : (s.setMag l m).exch = s.exch := rfl
@[simp] theorem State.setMag_host (s : State) (l : Lane) (m : Option Loaded) : (s.setMag l m).host = s.host := rfl

/-! ### State.onCounters -/

@[simp] theorem State.onCounters_pending (s : State) (k : StockKind) (f : Counters → Counters) : (s.onCounters k f).pending = s.pending := rfl
@[simp] theorem State.onCounters_stock (s : State) (k : StockKind) (f : Counters → Counters) : (s.onCounters k f).stock = { s.stock with counters := s.stock.counters.upd k f } := rfl
@[simp] theorem State.onCounters_fare (s : State) (k : StockKind) (f : Counters → Counters) : (s.onCounters k f).fare = s.fare := rfl
@[simp] theorem State.onCounters_issue (s : State) (k : StockKind) (f : Counters → Counters) : (s.onCounters k f).issue = s.issue := rfl
@[simp] theorem State.onCounters_images (s : State) (k : StockKind) (f : Counters → Counters) : (s.onCounters k f).images = s.images := rfl
@[simp] theorem State.onCounters_lanes (s : State) (k : StockKind) (f : Counters → Counters) : (s.onCounters k f).lanes = s.lanes := rfl
@[simp] theorem State.onCounters_faults (s : State) (k : StockKind) (f : Counters → Counters) : (s.onCounters k f).faults = s.faults := rfl
@[simp] theorem State.onCounters_till (s : State) (k : StockKind) (f : Counters → Counters) : (s.onCounters k f).till = s.till := rfl
@[simp] theorem State.onCounters_journal (s : State) (k : StockKind) (f : Counters → Counters) : (s.onCounters k f).journal = s.journal := rfl
@[simp] theorem State.onCounters_office (s : State) (k : StockKind) (f : Counters → Counters) : (s.onCounters k f).office = s.office := rfl
@[simp] theorem State.onCounters_exch (s : State) (k : StockKind) (f : Counters → Counters) : (s.onCounters k f).exch = s.exch := rfl
@[simp] theorem State.onCounters_host (s : State) (k : StockKind) (f : Counters → Counters) : (s.onCounters k f).host = s.host := rfl

/-! ### State.onAlerts -/

@[simp] theorem State.onAlerts_pending (s : State) (f : Alerts → Alerts) : (s.onAlerts f).pending = s.pending := rfl
@[simp] theorem State.onAlerts_stock (s : State) (f : Alerts → Alerts) : (s.onAlerts f).stock = s.stock := rfl
@[simp] theorem State.onAlerts_fare (s : State) (f : Alerts → Alerts) : (s.onAlerts f).fare = s.fare := rfl
@[simp] theorem State.onAlerts_issue (s : State) (f : Alerts → Alerts) : (s.onAlerts f).issue = s.issue := rfl
@[simp] theorem State.onAlerts_images (s : State) (f : Alerts → Alerts) : (s.onAlerts f).images = s.images := rfl
@[simp] theorem State.onAlerts_lanes (s : State) (f : Alerts → Alerts) : (s.onAlerts f).lanes = s.lanes := rfl
@[simp] theorem State.onAlerts_faults (s : State) (f : Alerts → Alerts) : (s.onAlerts f).faults = s.faults := rfl
@[simp] theorem State.onAlerts_till (s : State) (f : Alerts → Alerts) : (s.onAlerts f).till = s.till := rfl
@[simp] theorem State.onAlerts_journal (s : State) (f : Alerts → Alerts) : (s.onAlerts f).journal = s.journal := rfl
@[simp] theorem State.onAlerts_office (s : State) (f : Alerts → Alerts) : (s.onAlerts f).office = s.office := rfl
@[simp] theorem State.onAlerts_exch (s : State) (f : Alerts → Alerts) : (s.onAlerts f).exch = { s.exch with alerts := f s.exch.alerts } := rfl
@[simp] theorem State.onAlerts_host (s : State) (f : Alerts → Alerts) : (s.onAlerts f).host = s.host := rfl

/-! ### State.onSweep -/

@[simp] theorem State.onSweep_pending (s : State) (f : Sweep → Sweep) : (s.onSweep f).pending = s.pending := rfl
@[simp] theorem State.onSweep_stock (s : State) (f : Sweep → Sweep) : (s.onSweep f).stock = s.stock := rfl
@[simp] theorem State.onSweep_fare (s : State) (f : Sweep → Sweep) : (s.onSweep f).fare = s.fare := rfl
@[simp] theorem State.onSweep_issue (s : State) (f : Sweep → Sweep) : (s.onSweep f).issue = s.issue := rfl
@[simp] theorem State.onSweep_images (s : State) (f : Sweep → Sweep) : (s.onSweep f).images = s.images := rfl
@[simp] theorem State.onSweep_lanes (s : State) (f : Sweep → Sweep) : (s.onSweep f).lanes = s.lanes := rfl
@[simp] theorem State.onSweep_faults (s : State) (f : Sweep → Sweep) : (s.onSweep f).faults = s.faults := rfl
@[simp] theorem State.onSweep_till (s : State) (f : Sweep → Sweep) : (s.onSweep f).till = s.till := rfl
@[simp] theorem State.onSweep_journal (s : State) (f : Sweep → Sweep) : (s.onSweep f).journal = s.journal := rfl
@[simp] theorem State.onSweep_office (s : State) (f : Sweep → Sweep) : (s.onSweep f).office = s.office := rfl
@[simp] theorem State.onSweep_exch (s : State) (f : Sweep → Sweep) : (s.onSweep f).exch = { s.exch with sweep := s.exch.sweep.map f } := rfl
@[simp] theorem State.onSweep_host (s : State) (f : Sweep → Sweep) : (s.onSweep f).host = s.host := rfl

/-! ### State.setBus -/

@[simp] theorem State.setBus_pending (s : State) (b : Option Nat) : (s.setBus b).pending = s.pending := rfl
@[simp] theorem State.setBus_stock (s : State) (b : Option Nat) : (s.setBus b).stock = s.stock := rfl
@[simp] theorem State.setBus_fare (s : State) (b : Option Nat) : (s.setBus b).fare = s.fare := rfl
@[simp] theorem State.setBus_issue (s : State) (b : Option Nat) : (s.setBus b).issue = s.issue := rfl
@[simp] theorem State.setBus_images (s : State) (b : Option Nat) : (s.setBus b).images = s.images := rfl
@[simp] theorem State.setBus_lanes (s : State) (b : Option Nat) : (s.setBus b).lanes = s.lanes := rfl
@[simp] theorem State.setBus_faults (s : State) (b : Option Nat) : (s.setBus b).faults = s.faults := rfl
@[simp] theorem State.setBus_till (s : State) (b : Option Nat) : (s.setBus b).till = s.till := rfl
@[simp] theorem State.setBus_journal (s : State) (b : Option Nat) : (s.setBus b).journal = s.journal := rfl
@[simp] theorem State.setBus_office (s : State) (b : Option Nat) : (s.setBus b).office = s.office := rfl
@[simp] theorem State.setBus_exch (s : State) (b : Option Nat) : (s.setBus b).exch = s.exch := rfl
@[simp] theorem State.setBus_host (s : State) (b : Option Nat) : (s.setBus b).host = { s.host with busIn := b } := rfl

/-! ### State.setImage -/

@[simp] theorem State.setImage_pending (s : State) (b : Buffer) (im : Option (List ImageField)) : (s.setImage b im).pending = s.pending := rfl
@[simp] theorem State.setImage_stock (s : State) (b : Buffer) (im : Option (List ImageField)) : (s.setImage b im).stock = s.stock := rfl
@[simp] theorem State.setImage_fare (s : State) (b : Buffer) (im : Option (List ImageField)) : (s.setImage b im).fare = s.fare := rfl
@[simp] theorem State.setImage_issue (s : State) (b : Buffer) (im : Option (List ImageField)) : (s.setImage b im).issue = s.issue := rfl
@[simp] theorem State.setImage_images (s : State) (b : Buffer) (im : Option (List ImageField)) : (s.setImage b im).images = s.images.set b.val im b.isLt := rfl
@[simp] theorem State.setImage_lanes (s : State) (b : Buffer) (im : Option (List ImageField)) : (s.setImage b im).lanes = s.lanes := rfl
@[simp] theorem State.setImage_faults (s : State) (b : Buffer) (im : Option (List ImageField)) : (s.setImage b im).faults = s.faults := rfl
@[simp] theorem State.setImage_till (s : State) (b : Buffer) (im : Option (List ImageField)) : (s.setImage b im).till = s.till := rfl
@[simp] theorem State.setImage_journal (s : State) (b : Buffer) (im : Option (List ImageField)) : (s.setImage b im).journal = s.journal := rfl
@[simp] theorem State.setImage_office (s : State) (b : Buffer) (im : Option (List ImageField)) : (s.setImage b im).office = s.office := rfl
@[simp] theorem State.setImage_exch (s : State) (b : Buffer) (im : Option (List ImageField)) : (s.setImage b im).exch = s.exch := rfl
@[simp] theorem State.setImage_host (s : State) (b : Buffer) (im : Option (List ImageField)) : (s.setImage b im).host = s.host := rfl

/-! ### The input lines of the lanes -/

/-- An event that brings no level leaves them all. -/
@[simp] theorem setLines_nil (s : State) : setLines [] s = s := rfl

/-- The levels of the first lane are set, then those of the rest. -/
theorem setLines_cons (p : Lane × Pins) (ps : Lines) (s : State) : setLines (p :: ps) s = setLines ps (setPins p.1 p.2 s) := rfl

/-- Levels change nothing but the lanes. -/
theorem setLines_rest (ps : Lines) (s : State) : setLines ps s = { s with lanes := (setLines ps s).lanes } := by
  induction ps generalizing s with
  | nil => rfl
  | cons p ps ih => rw [setLines_cons, ih (setPins p.1 p.2 s)]; rfl

end Sys2Proof.Machine
end

