-- ==== Sys2Proof/Laws/Exchange.lean ====
section
/-! SUPPORT. What a host-memory access, an answer and the service of the sources can do, each said once. -/

namespace Sys2Proof.Machine

/-! ### Accesses (R52) -/

/-- While no access error is under way an access changes nothing and succeeds. -/
theorem access_quiet {s : State} (h : s.host.busIn = none) : s.access = (s, true) := by
  simp [State.access, h]

/-- An access changes no more than what is left of the error under way. -/
theorem access_fst (s : State) : s.access.1 = s.setBus (s.host.busIn.bind fun n => if n = 0 then none else some (n - 1)) := by
  unfold State.access
  rcases h : s.host.busIn with _ | _ | n
  · simp only [State.setBus, State.onHost, Option.bind_none]; rw [← h]
  · simp
  · simp

/-- Ending an error that is not under way changes nothing. -/
theorem setBus_quiet {s : State} (h : s.host.busIn = none) : s.setBus none = s := by
  simp only [State.setBus, State.onHost]; rw [← h]

/-! ### Answers (R37, R46) -/

/-- The answer written and the slot ANSWERED, marked and released. -/
def written (i : SlotNo) (a : Answer) (s : State) : State :=
  ((s.onHost fun h => { h with slots := h.slots.upd i fun _ => ⟨3, some a⟩ }).onExch fun x =>
    { x with contexts := x.contexts.upd i fun _ => none, marks := x.marks.upd i fun _ => true }).onSweep fun w => w.setByte i 3

/-- An answer produced while RUNNING is written at once (R46). -/
theorem answer_running {s : State} (hb : s.host.busIn = none) (hr : s.exch.state = .running) (i : SlotNo) (k : Byte) (t : Tag)
    (oc : OrderOutcome) (f : AnswerFields) :
    answer i k t oc f s = written i ⟨oc, k, t, s.office.clock, f⟩ s := by
  simp [answer, hr, tryAnswer, access_quiet hb, written]

/-- An answer produced while the exchange is not RUNNING is held behind those produced before it (R46). -/
theorem answer_held {s : State} (hr : s.exch.state ≠ .running) (i : SlotNo) (k : Byte) (t : Tag) (oc : OrderOutcome)
    (f : AnswerFields) :
    answer i k t oc f s = holdAnswer i ⟨oc, k, t, s.office.clock, f⟩ s := by
  simp [answer, hr]

/-! ### What the service of the sources leaves as it was -/

/-- None of the sources has slot `i` POSTED. -/
def Clear (srcs : List Source) (i : SlotNo) (s : State) : Prop :=
  ∀ h, postedHeader s i = some h → ∀ v ∈ srcs, headerSource h ≠ some v

/-- A slot that is not POSTED is clear of every source. -/
theorem Clear.of_none {srcs : List Source} {i : SlotNo} {s : State} (h : postedHeader s i = none) : Clear srcs i s :=
  fun _ e => by rw [h] at e; cases e

/-- Nothing but the sweep's own bookkeeping and the slots that it answers differs; slot `i`, which is clear of the sources
served, is not one of them. -/
structure Served (srcs : List Source) (i : SlotNo) (s t : State) : Prop where
  rest      : t = { s with exch := t.exch, host := t.host }
  quiet     : t.host.busIn = none
  ring      : t.host.journal = s.host.journal
  snapshot  : t.host.snapshot = s.host.snapshot
  slot      : t.host.slots[i] = s.host.slots[i]
  mark      : t.exch.marks[i] = s.exch.marks[i]
  context   : t.exch.contexts[i] = s.exch.contexts[i]
  clear     : Clear srcs i t
  others    : ∀ j, SlotKept s t j ∨ StaleAnswered s t j
  posted    : ∀ j h, postedHeader t j = some h → postedHeader s j = some h
  tags      : t.exch.tags = s.exch.tags
  alerts    : t.exch.alerts = s.exch.alerts
  kept      : ExchangeKept s.exch t.exch

/-- The registers stand as they were when the exchange does. -/
theorem SameRegisters.refl (x : ExchangeController) : SameRegisters x x := ⟨rfl, rfl, rfl, rfl, rfl, rfl, rfl, rfl⟩

/-- Two changes that leave the registers leave them together. -/
theorem SameRegisters.trans {x y z : ExchangeController} (h : SameRegisters x y) (g : SameRegisters y z) : SameRegisters x z :=
  ⟨g.1.trans h.1, g.2.trans h.2, g.3.trans h.3, g.4.trans h.4, g.5.trans h.5, g.6.trans h.6, g.7.trans h.7, g.8.trans h.8⟩

/-- The exchange stands as it was when nothing is done. -/
theorem ExchangeKept.refl (x : ExchangeController) : ExchangeKept x x := ⟨SameRegisters.refl x, rfl, rfl, rfl⟩

/-- Two changes that leave the exchange as it was leave it together. -/
theorem ExchangeKept.trans {x y z : ExchangeController} (h : ExchangeKept x y) (g : ExchangeKept y z) : ExchangeKept x z :=
  ⟨h.1.trans g.1, g.2.trans h.2, g.3.trans h.3, g.4.trans h.4⟩

/-- A slot that stands as it was in two changes stands as it was in both. -/
theorem SlotKept.trans {s t u : State} {j : SlotNo} (h : SlotKept s t j) (g : SlotKept t u j) : SlotKept s u j :=
  ⟨g.1.trans h.1, g.2.trans h.2, g.3.trans h.3⟩

/-- Doing nothing serves nothing. -/
theorem Served.refl {srcs : List Source} {i : SlotNo} {s : State} (hb : s.host.busIn = none) (hp : Clear srcs i s) :
    Served srcs i s s :=
  ⟨rfl, hb, rfl, rfl, rfl, rfl, rfl, hp, fun _ => .inl ⟨rfl, rfl, rfl⟩, fun _ _ h => h, rfl, rfl, ExchangeKept.refl _⟩

/-- One service after another. -/
theorem Served.trans {srcs : List Source} {i : SlotNo} {s t u : State} (h : Served srcs i s t) (g : Served srcs i t u) :
    Served srcs i s u where
  rest     := by rw [g.rest, h.rest]
  quiet    := g.quiet
  ring     := g.ring.trans h.ring
  snapshot := g.snapshot.trans h.snapshot
  slot     := g.slot.trans h.slot
  mark     := g.mark.trans h.mark
  context  := g.context.trans h.context
  clear    := g.clear
  others   := fun j => by
    have ho : u.office = t.office := by rw [g.rest]
    rcases g.others j with hk | ⟨⟨hd, src, e1, e2, e3, e4⟩, e5, e6⟩
    · rcases h.others j with hk' | ⟨⟨hd, src, e1, e2, e3, e4⟩, e5, e6⟩
      · exact .inl (hk'.trans hk)
      · exact .inr ⟨⟨hd, src, e1, e2, by rw [g.tags]; exact e3, by rw [hk.slot, e4, ho]⟩, hk.mark.trans e5, hk.context.trans e6⟩
    · exact .inr ⟨⟨hd, src, h.posted j hd e1, e2, e3, e4⟩, e5, e6⟩
  posted   := fun j hd e => h.posted j hd (g.posted j hd e)
  tags     := g.tags.trans h.tags
  alerts   := g.alerts.trans h.alerts
  kept     := h.kept.trans g.kept

/-- What is left clear after an answer to another slot. -/
theorem postedHeader_answerDirect {i j : SlotNo} {s : State} (hb : s.host.busIn = none) (hr : s.exch.state = .running)
    (hij : i ≠ j) (h : Header) (c : Option OrderCopy) (oc : OrderOutcome) :
    postedHeader (answerDirect j h c oc s) i = postedHeader s i := by
  have e : answerDirect j h c oc s = written j ⟨oc, h.kind, h.tag, s.office.clock, .none⟩ (openContext j h c s) :=
    answer_running (s := openContext j h c s) hb hr j h.kind h.tag oc .none
  rw [e]
  unfold postedHeader
  simp only [written, openContext, State.onSweep_exch, State.onExch_exch, State.onHost_exch]
  rcases s.exch.sweep with _ | w
  · rfl
  · simp only [Option.map_some, Sweep.setByte, Table.upd_ne _ _ _ _ hij]

/-- A slot that has just been answered is not POSTED. -/
theorem written_unposted (i : SlotNo) (a : Answer) (s : State) : postedHeader (written i a s) i = none := by
  unfold postedHeader written
  simp only [State.onSweep_exch, State.onExch_exch, State.onHost_exch]
  rcases s.exch.sweep with _ | w
  · rfl
  · simp only [Option.map_some, Sweep.setByte, Table.upd_same]
    exact if_neg fun h => absurd h.1 (by decide)

/-- A slot answered STALE_TAG while the sweep goes on: another slot is left as it was, and the exchange stays RUNNING. -/
theorem answerDirect_served {srcs : List Source} {i j : SlotNo} {s : State} (hb : s.host.busIn = none)
    (hr : s.exch.state = .running) (hp : Clear srcs i s) (hij : i ≠ j) {h : Header} {src : Source}
    (hj : postedHeader s j = some h) (hs : headerSource h = some src) (ht : behind h.tag s.exch.tags[src] = true) :
    Served srcs i s (answerDirect j h none .staleTag s) ∧ (answerDirect j h none .staleTag s).exch.state = .running := by
  have e : answerDirect j h none .staleTag s = written j ⟨.staleTag, h.kind, h.tag, s.office.clock, .none⟩ (openContext j h none s) :=
    answer_running (s := openContext j h none s) hb hr j h.kind h.tag .staleTag .none
  have hk : ∀ k, k ≠ j → postedHeader (answerDirect j h none .staleTag s) k = postedHeader s k := fun k hk =>
    postedHeader_answerDirect hb hr hk h none .staleTag
  have hc : Clear srcs i (answerDirect j h none .staleTag s) := by
    unfold Clear
    rw [hk i hij]
    exact hp
  refine ⟨⟨?_, ?_, ?_, ?_, ?_, ?_, ?_, hc, ?_, ?_, ?_, ?_, ?_⟩, ?_⟩
  · rw [e]; rfl
  · rw [e]; exact hb
  · rw [e]; rfl
  · rw [e]; rfl
  · rw [e]; exact Table.upd_ne _ _ _ _ hij
  · rw [e]; exact Table.upd_ne _ _ _ _ hij
  · rw [e]; simp only [written, openContext, State.onSweep_exch, State.onExch_exch, State.onHost_exch, Table.upd_ne _ _ _ _ hij]
  · intro k
    by_cases hkj : k = j
    · subst hkj
      refine .inr ⟨⟨h, src, hj, hs, ?_, ?_⟩, ?_, ?_⟩ <;> rw [e]
      · exact ht
      · exact Table.upd_same _ _ _
      · exact Table.upd_same _ _ _
      · exact Table.upd_same _ _ _
    · refine .inl ⟨?_, ?_, ?_⟩ <;> rw [e]
      · exact Table.upd_ne _ _ _ _ hkj
      · exact Table.upd_ne _ _ _ _ hkj
      · simp only [written, openContext, State.onSweep_exch, State.onExch_exch, State.onHost_exch, Table.upd_ne _ _ _ _ hkj]
  · intro k hd hp
    by_cases hkj : k = j
    · subst hkj; rw [e, written_unposted] at hp; cases hp
    · rwa [hk k hkj] at hp
  · rw [e]; rfl
  · rw [e]; rfl
  · rw [e]; exact ⟨by constructor <;> rfl, rfl, rfl, rfl⟩
  · rw [e]; exact hr

/-- A function that, slot by slot, either leaves the state or answers another slot without a take. -/
theorem forSlots_served {srcs : List Source} {i : SlotNo} {f : SlotNo → State → State}
    (hf : ∀ j s, s.host.busIn = none → s.exch.state = .running → Clear srcs i s →
      Served srcs i s (f j s) ∧ (f j s).exch.state = .running)
    {s : State} (hb : s.host.busIn = none) (hr : s.exch.state = .running) (hp : Clear srcs i s) :
    Served srcs i s (forSlots f s) ∧ (forSlots f s).exch.state = .running := by
  unfold forSlots
  generalize List.finRange 64 = js
  induction js generalizing s with
  | nil => exact ⟨Served.refl hb hp, hr⟩
  | cons j js ih =>
    have h := hf j s hb hr hp
    have g := ih h.1.quiet h.2 h.1.clear
    exact ⟨h.1.trans g.1, g.2⟩

/-- Answering the slots of a source that are behind (R41). -/
theorem answerStale_served {srcs : List Source} {i : SlotNo} {src : Source} (hm : src ∈ srcs) {s : State}
    (hb : s.host.busIn = none) (hr : s.exch.state = .running) (hp : Clear srcs i s) :
    Served srcs i s (answerStale src s) ∧ (answerStale src s).exch.state = .running := by
  unfold answerStale
  refine forSlots_served (fun j s hb hr hp => ?_) hb hr hp
  by_cases hs : slotBehind s src j
  · rw [if_pos hs]
    unfold answerPosted
    rcases hj : postedHeader s j with _ | h
    · exact ⟨Served.refl hb hp, hr⟩
    · simp only [slotBehind, hj, Option.any_some, Bool.and_eq_true, decide_eq_true_eq] at hs
      exact answerDirect_served hb hr hp (fun e => hp h (e ▸ hj) src hm hs.1) hj hs.1 hs.2
  · rw [if_neg hs]
    exact ⟨Served.refl hb hp, hr⟩

/-- The end of a sweep changes nothing but the sweep's own bookkeeping (R38, R39). -/
theorem endSweep_served {srcs : List Source} {i : SlotNo} {s : State} (hb : s.host.busIn = none) :
    Served srcs i s (s.onExch ExchangeController.endSweep) := by
  have hc : ∀ x : ExchangeController, x.endSweep.sweep = none ∨ x.endSweep.sweep = some Sweep.fresh := by
    intro x
    unfold ExchangeController.endSweep
    split
    · exact .inl rfl
    · split
      · exact .inr rfl
      · exact .inl rfl
  have he : ∀ x : ExchangeController, x.endSweep.marks = x.marks ∧ x.endSweep.contexts = x.contexts ∧
      x.endSweep.tags = x.tags ∧ x.endSweep.alerts = x.alerts ∧ ExchangeKept x x.endSweep := by
    intro x
    unfold ExchangeController.endSweep
    split
    · exact ⟨rfl, rfl, rfl, rfl, by constructor <;> rfl, rfl, rfl, rfl⟩
    · split <;> exact ⟨rfl, rfl, rfl, rfl, by constructor <;> rfl, rfl, rfl, rfl⟩
  obtain ⟨h1, h2, h3, h4, h5⟩ := he s.exch
  have hn : ∀ j, postedHeader (s.onExch ExchangeController.endSweep) j = none := by
    intro j
    unfold postedHeader
    rw [State.onExch_exch]
    rcases hc s.exch with h | h <;> rw [h]
    simp [Sweep.fresh, Header.zero]
  refine ⟨rfl, hb, rfl, rfl, rfl, ?_, ?_, Clear.of_none (hn i), fun j => .inl ⟨rfl, ?_, ?_⟩, ?_, h3, h4, h5⟩
  · simp only [State.onExch_exch, h1]
  · simp only [State.onExch_exch, h2]
  · simp only [State.onExch_exch, h1]
  · simp only [State.onExch_exch, h2]
  · intro j h e; rw [hn j] at e; cases e

/-- A change of the sweep's own list and offer. -/
theorem onSweep_served {srcs : List Source} {i : SlotNo} {s : State} {f : Sweep → Sweep} (hf : ∀ w, (f w).headers = w.headers)
    (hb : s.host.busIn = none) (hp : Clear srcs i s) : Served srcs i s (s.onSweep f) := by
  have hn : ∀ j, postedHeader (s.onSweep f) j = postedHeader s j := by
    intro j
    unfold postedHeader
    simp only [State.onSweep_exch]
    rcases s.exch.sweep with _ | w
    · rfl
    · simp only [Option.map_some, hf]
  refine ⟨rfl, hb, rfl, rfl, rfl, rfl, rfl, ?_, fun j => .inl ⟨rfl, rfl, rfl⟩, ?_, rfl, rfl, ⟨by constructor <;> rfl, rfl, rfl, rfl⟩⟩
  · unfold Clear; rw [hn]; exact hp
  · intro j h e; rwa [hn] at e

/-- The offer of the next order, or the service of the sources after it (R41, R42). -/
theorem offerNext_served {srcs : List Source} {i : SlotNo} {src : Source} {rest : List Source} {next : State → State}
    {s : State} (hb : s.host.busIn = none) (hp : Clear srcs i s) (hn : Served srcs i s (next s)) :
    Served srcs i s (offerNext src rest next s) := by
  unfold offerNext
  split
  · exact Served.refl hb hp
  · split
    · exact onSweep_served (fun _ => rfl) hb hp
    · exact hn

/-- The service of some of the sources leaves everything but the sweep's bookkeeping and the slots it answers (R40,
R41). -/
theorem serve_served {srcs : List Source} {i : SlotNo} : ∀ (vs : List Source), (∀ v ∈ vs, v ∈ srcs) → ∀ {s : State},
    s.host.busIn = none → s.exch.state = .running → Clear srcs i s → Served srcs i s (serve vs s)
  | [], _, s, hb, _, _ => by rw [serve]; exact endSweep_served hb
  | v :: vs, hm, s, hb, hr, hp => by
    rw [serve]
    have h := answerStale_served (hm v (by simp)) hb hr hp
    exact h.1.trans (offerNext_served h.1.quiet h.1.clear
      (serve_served vs (fun u hu => hm u (by simp [hu])) h.1.quiet h.2 h.1.clear))

/-- The service going on after a take (R41): a slot that is not POSTED is left as it was. -/
theorem serveOn_served {i : SlotNo} {s : State} (hb : s.host.busIn = none) (hr : s.exch.state = .running)
    (hp : postedHeader s i = none) : ∃ srcs, Served srcs i s (serveOn s) := by
  unfold serveOn
  rcases hw : s.exch.sweep with _ | w
  · exact ⟨[], Served.refl hb (Clear.of_none hp)⟩
  · have h0 : Served w.remaining i s (s.onSweep fun w => { w with offered := none }) :=
      onSweep_served (fun _ => rfl) hb (Clear.of_none hp)
    exact ⟨w.remaining, h0.trans (serve_served _ (fun _ h => h) h0.quiet hr h0.clear)⟩

/-- The service going on past an order that is not takeable now (R42): its slot is left as it was when its source is not
served again. -/
theorem servePast_served {i : SlotNo} {s : State} {w : Sweep} (hw : s.exch.sweep = some w) (hb : s.host.busIn = none)
    (hr : s.exch.state = .running) (hp : Clear w.remaining.tail i s) : Served w.remaining.tail i s (servePast s) := by
  unfold servePast
  rw [hw]
  have h0 : Served w.remaining.tail i s (s.onSweep fun w => { w with offered := none }) := onSweep_served (fun _ => rfl) hb hp
  exact h0.trans (serve_served _ (fun _ h => h) h0.quiet hr h0.clear)

end Sys2Proof.Machine
end

