-- ==== Sys2Proof/Laws/Journal.lean ====
section
/-! SUPPORT. The journal ring as written (read after write, and the canonical form that every write keeps), and what
giving an entry can change. -/

namespace Sys2Proof.Machine

/-! ### The ring in host memory -/

/-- Reading an address that has just been written. -/
theorem Memory.read_put_same (a : Nat) (w : Written) : ∀ m, Memory.read a (Memory.put a w m) = some w
  | [] => by simp [Memory.put, Memory.read]
  | (b, v) :: r => by
    rw [Memory.put]
    split
    · simp [Memory.read]
    · split
      · simp [Memory.read]
      · rename_i h
        rw [Memory.read, if_neg h]
        exact Memory.read_put_same a w r

/-- Reading any other address. -/
theorem Memory.read_put_ne {a b : Nat} (h : b ≠ a) (w : Written) : ∀ m, Memory.read b (Memory.put a w m) = Memory.read b m
  | [] => by simp [Memory.put, Memory.read, h]
  | (c, v) :: r => by
    rw [Memory.put]
    split
    · rw [Memory.read, if_neg h]
    · split
      · rename_i e
        subst e
        rw [Memory.read, if_neg h, Memory.read, if_neg h]
      · rw [Memory.read, Memory.read, Memory.read_put_ne h w r]

/-- Every address of the ring after a write is the one written or one that was there. -/
theorem Memory.mem_put {a : Nat} {w : Written} {c : Nat × Written} : ∀ {m}, c ∈ Memory.put a w m → c.1 = a ∨ c ∈ m
  | [], h => by simp only [Memory.put, List.mem_singleton] at h; exact .inl (by rw [h])
  | (b, v) :: r, h => by
    rw [Memory.put] at h
    split at h
    · rcases List.mem_cons.1 h with h | h
      · exact .inl (by rw [h])
      · exact .inr h
    · split at h
      · rcases List.mem_cons.1 h with h | h
        · exact .inl (by rw [h])
        · exact .inr (List.mem_cons_of_mem _ h)
      · rcases List.mem_cons.1 h with h | h
        · exact .inr (by rw [h]; exact List.mem_cons_self)
        · rcases Memory.mem_put h with h | h
          · exact .inl h
          · exact .inr (List.mem_cons_of_mem _ h)

/-- A write keeps the canonical form of the ring. -/
theorem Memory.put_wf (a : Nat) (w : Written) : ∀ {m}, Memory.wf m = true → Memory.wf (Memory.put a w m) = true
  | [], _ => by simp [Memory.put, Memory.wf]
  | (b, v) :: r, h => by
    simp only [Memory.wf, Bool.and_eq_true, List.all_eq_true, decide_eq_true_eq] at h
    rw [Memory.put]
    split
    · rename_i hab
      simp only [Memory.wf, Bool.and_eq_true, List.all_eq_true, decide_eq_true_eq, List.mem_cons, forall_eq_or_imp]
      exact ⟨⟨hab, fun c hc => lt_trans hab (h.1 c hc)⟩, h.1, h.2⟩
    · split
      · rename_i e
        subst e
        simp only [Memory.wf, Bool.and_eq_true, List.all_eq_true, decide_eq_true_eq]
        exact h
      · simp only [Memory.wf, Bool.and_eq_true, List.all_eq_true, decide_eq_true_eq]
        refine ⟨fun c hc => ?_, Memory.put_wf a w h.2⟩
        rcases Memory.mem_put hc with e | hm
        · omega
        · exact h.1 c hm

/-- The ring of the state after reset is in canonical form. -/
theorem reset_ring_wf : Memory.wf State.reset.host.journal = true := rfl

/-! ### Giving an entry -/

/-- Only the journal, the ring and the alert flags differ. -/
structure Journalled (s t : State) : Prop where
  rest  : t = { s with journal := t.journal, exch := t.exch, host := t.host }
  exch  : t.exch = { s.exch with alerts := t.exch.alerts }
  host  : t.host = { s.host with journal := t.host.journal }

/-- Nothing differs. -/
theorem Journalled.refl (s : State) : Journalled s s := ⟨rfl, rfl, rfl⟩

/-- One change of the journal after another. -/
theorem Journalled.trans {s t u : State} (h : Journalled s t) (g : Journalled t u) : Journalled s u := by
  refine ⟨?_, ?_, ?_⟩
  · rw [g.rest, h.rest]
  · rw [g.exch, h.exch]
  · rw [g.host, h.host]

/-- The journal after an entry's write or placement, with the gate evaluated (R168). -/
theorem closeGate_journalled (s : State) : Journalled s (closeGate s) := by
  unfold closeGate
  split
  · exact ⟨rfl, rfl, rfl⟩
  · exact Journalled.refl s

/-- Giving an entry while no access error is under way changes the journal, the ring and the alert flags alone (R165). -/
theorem give_journalled {s : State} (h : s.host.busIn = none) (b : EntryBody) : Journalled s (give b s) := by
  unfold give place
  split
  · simp only [writeEntry, access_quiet h, if_true]
    exact Journalled.trans (t := _) (by constructor <;> rfl) (closeGate_journalled _)
  · split
    · exact Journalled.trans (t := _) (by constructor <;> rfl) (closeGate_journalled _)
    · exact Journalled.trans (t := _) (by constructor <;> rfl) (closeGate_journalled _)

/-- No error is under way after an entry has been given. -/
theorem Journalled.quiet {s t : State} (h : Journalled s t) (hb : s.host.busIn = none) : t.host.busIn = none := by
  rw [h.host]; exact hb

/-- Giving entries changes the journal, the ring and the alert flags alone. -/
theorem giveAll_journalled {s : State} (h : s.host.busIn = none) (bs : List EntryBody) : Journalled s (giveAll bs s) := by
  unfold giveAll
  induction bs generalizing s with
  | nil => exact Journalled.refl s
  | cons b bs ih => exact (give_journalled h b).trans (ih ((give_journalled h b).quiet h))

/-- Two states in which the Journal Writer stands alike: its record, the ring, the alert flags, and what a write and a
stamp depend on. -/
structure SameJournal (s t : State) : Prop where
  journal : t.journal = s.journal
  ring    : t.host.journal = s.host.journal
  alerts  : t.exch.alerts = s.exch.alerts
  state   : t.exch.state = s.exch.state
  base    : t.exch.areaBase = s.exch.areaBase
  offset  : t.exch.latchedOffset = s.exch.latchedOffset
  day     : t.office.day = s.office.day
  clock   : t.office.clock = s.office.clock

/-- A state stands as itself. -/
theorem SameJournal.refl (s : State) : SameJournal s s := ⟨rfl, rfl, rfl, rfl, rfl, rfl, rfl, rfl⟩

/-- The gate closes alike. -/
theorem closeGate_same {s t : State} (h : SameJournal s t) : SameJournal (closeGate s) (closeGate t) := by
  unfold closeGate
  rw [h.journal]
  split
  · exact ⟨by simp [h.journal], h.ring, by simp [h.alerts], h.state, h.base, h.offset, h.day, h.clock⟩
  · exact h

/-- An entry given in two states in which the Journal Writer stands alike leaves it alike. -/
theorem give_same {s t : State} (h : SameJournal s t) (hs : s.host.busIn = none) (ht : t.host.busIn = none) (b : EntryBody) :
    SameJournal (give b s) (give b t) := by
  have e1 : canWriteNow t = canWriteNow s := by simp only [canWriteNow, h.journal, h.state]
  have e2 : canQueue t = canQueue s := by simp only [canQueue, h.journal]
  have e3 : stamp t b = stamp s b := by simp only [stamp, h.day, h.clock]
  unfold give place
  rw [e1, e2, e3]
  split
  · simp only [writeEntry, access_quiet hs, access_quiet ht, if_true]
    refine closeGate_same ⟨?_, ?_, h.alerts, h.state, h.base, h.offset, h.day, h.clock⟩
    · simp [h.journal]
    · simp [h.journal, h.ring, journalAddress, areaAddress, h.base, h.offset]
  · split
    · exact closeGate_same ⟨by simp [h.journal], h.ring, h.alerts, h.state, h.base, h.offset, h.day, h.clock⟩
    · exact closeGate_same ⟨by simp [h.journal], h.ring, h.alerts, h.state, h.base, h.offset, h.day, h.clock⟩

/-- Entries given in two states in which the Journal Writer stands alike leave it alike. -/
theorem giveAll_same {s t : State} (h : SameJournal s t) (hs : s.host.busIn = none) (ht : t.host.busIn = none)
    (bs : List EntryBody) : SameJournal (giveAll bs s) (giveAll bs t) := by
  unfold giveAll
  induction bs generalizing s t with
  | nil => exact h
  | cons b bs ih =>
    exact ih (give_same h hs ht b) ((give_journalled hs b).quiet hs) ((give_journalled ht b).quiet ht)

/-- What stands alike with the state after the entries has been given them. -/
theorem Gives.of_same {bs : List EntryBody} {s t u : State} (h : SameJournal s u) (hs : s.host.busIn = none)
    (hu : u.host.busIn = none) (hj : t.journal = (giveAll bs u).journal) (hr : t.host.journal = (giveAll bs u).host.journal)
    (ha : t.exch.alerts = (giveAll bs u).exch.alerts) : Gives bs s t :=
  have g := giveAll_same h hs hu bs
  ⟨hj.trans g.journal, hr.trans g.ring, ha.trans g.alerts⟩

end Sys2Proof.Machine
end

