-- ==== Sys2Proof/Laws/Take.lean ====
section
/-! SUPPORT. What the take of an offered order comes to, by the owner's verdict: each law gives the whole take as an answer
written to a known state and a service of the sources after it. -/

namespace Sys2Proof.Machine

/-- An index that lies in range is found. -/
theorem toIdx_val {n : Nat} (i : Fin n) : toIdx n i.val = some i := by simp [toIdx]

/-- The header that a sweep holds for a slot, with the kind code of an order (R40). -/
def orderHeader (s : State) (i : SlotNo) (code : Byte) : Header :=
  match s.exch.sweep with
  | none => { Header.zero with kind := code }
  | some w => { w.headers[i] with kind := code }

/-- The state in which an accepted order makes its changes: TAKEN written, the context opened, the expected tag advanced
(R37, R41, R43). -/
def takenState (s : State) (r : OrderRule) (o : OrderHdr) (b : OrderBody) (src : Source) : State :=
  advanceTag src (markTaken o.slot (orderHeader s o.slot r.code) (orderCopy r.attaches o b) s)

/-- The state in which an order refused at its take is answered: the context opened, the expected tag advanced (R37, R41,
R43). -/
def refusedState (s : State) (r : OrderRule) (o : OrderHdr) (b : OrderBody) (src : Source) : State :=
  openContext o.slot (orderHeader s o.slot r.code) (some (orderCopy r.attaches o b)) (advanceTag src s)

/-- The offered order's header and source. -/
theorem Offers.header {s : State} {i : SlotNo} {src : Source} {tag : Tag} (h : Offers s i src tag) (code : Byte) :
    offeredHeader s i code = some (orderHeader s i code, src) ∧ (orderHeader s i code).tag = tag ∧
      (orderHeader s i code).kind = code := by
  obtain ⟨w, hw, ho, hs, ht⟩ := h.offered
  have e : headerSource w.headers[i] = some src := by rw [headerSource, hs, toIdx_val]
  refine ⟨?_, ?_, ?_⟩ <;> simp only [offeredHeader, orderHeader, hw, ho, if_true]
  · rw [e]; rfl
  · exact ht

/-- An accepted order that is answered within its take (R43): the changes, then its answer, then the service of the
sources. -/
theorem takeOrder_done {r : OrderRule} {o : OrderHdr} {b : OrderBody} {owner : Source → Tag → Option (List Byte) → State → Verdict} {s : State}
    {src : Source} {tag : Tag} {change : State → State} {f : State → OrderOutcome × AnswerFields}
    (ho : Offers s o.slot src tag) (hv : verdictOf r o src (owner src tag) s = .accept change (some f))
    (hb : (change (takenState s r o b src)).host.busIn = none)
    (hr : (change (takenState s r o b src)).exch.state = .running) {j : SlotNo}
    (hp : ∀ a, postedHeader (written o.slot a (change (takenState s r o b src))) j = none) :
    ∃ srcs, Served srcs j
      (written o.slot ⟨(f (change (takenState s r o b src))).1, r.code, tag,
        (change (takenState s r o b src)).office.clock, (f (change (takenState s r o b src))).2⟩
        (change (takenState s r o b src)))
      (takeOrder r o b Env.quiet owner s) := by
  obtain ⟨hh, htag, hk⟩ := ho.header r.code
  have e : takeOrder r o b Env.quiet owner s =
      (serveOn (answer o.slot (orderHeader s o.slot r.code).kind (orderHeader s o.slot r.code).tag
        (f (change (takenState s r o b src))).1 (f (change (takenState s r o b src))).2
        (change (takenState s r o b src)))).setBus none := by
    unfold takeOrder
    rw [hh]
    simp only [withBus, Env.quiet, setLines_nil, setBus_quiet ho.quiet, htag, hv, settleVerdict, acceptOrder, access_quiet ho.quiet,
      finishTake, Bool.not_true, Bool.false_eq_true, if_false, takenState]
  rw [e, answer_running hb hr, hk, htag]
  obtain ⟨srcs, h⟩ := serveOn_served (i := j) (s := written o.slot ⟨(f (change (takenState s r o b src))).1, r.code,
    tag, (change (takenState s r o b src)).office.clock, (f (change (takenState s r o b src))).2⟩
    (change (takenState s r o b src))) hb hr (hp _)
  refine ⟨srcs, ?_⟩
  rw [setBus_quiet h.quiet]
  exact h

/-- An accepted order that is answered later (R43): the changes, then the service of the sources. -/
theorem takeOrder_begun {r : OrderRule} {o : OrderHdr} {b : OrderBody} {owner : Source → Tag → Option (List Byte) → State → Verdict} {s : State}
    {src : Source} {tag : Tag} {change : State → State}
    (ho : Offers s o.slot src tag) (hv : verdictOf r o src (owner src tag) s = .accept change none)
    (hb : (change (takenState s r o b src)).host.busIn = none)
    (hr : (change (takenState s r o b src)).exch.state = .running)
    {j : SlotNo} (hp : postedHeader (change (takenState s r o b src)) j = none) :
    ∃ srcs, Served srcs j (change (takenState s r o b src)) (takeOrder r o b Env.quiet owner s) := by
  obtain ⟨hh, htag, hk⟩ := ho.header r.code
  have e : takeOrder r o b Env.quiet owner s = (serveOn (change (takenState s r o b src))).setBus none := by
    unfold takeOrder
    rw [hh]
    simp only [withBus, Env.quiet, setLines_nil, setBus_quiet ho.quiet, htag, hv, settleVerdict, acceptOrder, access_quiet ho.quiet,
      finishTake, Bool.not_true, Bool.false_eq_true, if_false, takenState]
  obtain ⟨srcs, h⟩ := serveOn_served hb hr hp
  exact ⟨srcs, by rw [e, setBus_quiet h.quiet]; exact h⟩

/-- An order refused at its take (R43): its answer, then the service of the sources. -/
theorem takeOrder_refused {r : OrderRule} {o : OrderHdr} {b : OrderBody} {owner : Source → Tag → Option (List Byte) → State → Verdict} {s : State}
    {src : Source} {tag : Tag} {oc : OrderOutcome} (c : Option Cut)
    (ho : Offers s o.slot src tag) (hv : verdictOf r o src (owner src tag) s = .refuse oc) :
    ∃ srcs, Served srcs o.slot
      (written o.slot ⟨oc, r.code, tag, s.office.clock, .none⟩ (refusedState s r o b src))
      (takeOrder r o b ⟨none, c, []⟩ owner s) := by
  obtain ⟨hh, htag, hk⟩ := ho.header r.code
  have e : takeOrder r o b ⟨none, c, []⟩ owner s =
      (serveOn (answerDirect o.slot (orderHeader s o.slot r.code) (some (orderCopy r.attaches o b)) oc (advanceTag src s))).setBus none := by
    unfold takeOrder
    rw [hh]
    simp only [withBus, setLines_nil, setBus_quiet ho.quiet, htag, hv, settleVerdict]
  have ha : answer o.slot r.code tag oc .none (refusedState s r o b src) =
      written o.slot ⟨oc, r.code, tag, s.office.clock, .none⟩
        (refusedState s r o b src) :=
    answer_running (s := refusedState s r o b src) ho.quiet ho.running o.slot
      r.code tag oc .none
  rw [e, answerDirect, hk, htag, ← refusedState, ha]
  obtain ⟨srcs, h⟩ := serveOn_served (i := o.slot)
    (s := written o.slot ⟨oc, r.code, tag, s.office.clock, .none⟩
      (refusedState s r o b src)) ho.quiet ho.running (written_unposted _ _ _)
  exact ⟨srcs, by rw [setBus_quiet h.quiet]; exact h⟩

/-! ### What the take leaves, in the terms of Safety.lean -/

/-- Beside an order's own effect nothing of the exchange differs but the alert flags, and nothing of host memory but the
ring. -/
structure OwnEffect (k u : State) : Prop where
  exch : u.exch = { k.exch with alerts := u.exch.alerts }
  host : u.host = { k.host with journal := u.host.journal }

/-- Entries given after an own effect. -/
theorem OwnEffect.journalled {k u v : State} (h : OwnEffect k u) (g : Journalled u v) : OwnEffect k v :=
  ⟨by rw [g.exch, h.exch], by rw [g.host, h.host]⟩

/-- Slots that were not touched read as they did at the offer. -/
theorem taken_posted (s : State) (r : OrderRule) (o : OrderHdr) (b : OrderBody) (src : Source) {j : SlotNo}
    (h : j ≠ o.slot) : postedHeader (takenState s r o b src) j = postedHeader s j := by
  unfold postedHeader
  simp only [takenState, advanceTag, markTaken, openContext, State.onExch_exch, State.onSweep_exch, State.onHost_exch]
  rcases s.exch.sweep with _ | w
  · rfl
  · simp only [Option.map_some, Sweep.setByte, Table.upd_ne _ _ _ _ h]

/-- The posted headers that a state holds, by its exchange alone. -/
theorem postedHeader_congr {s t : State} (hs : t.exch.sweep = s.exch.sweep) (hc : t.exch.contexts = s.exch.contexts)
    (j : SlotNo) : postedHeader t j = postedHeader s j := by
  unfold postedHeader; rw [hs, hc]

/-- A served state after an answer, in terms of the state before the take: the answer's slot, and the other slots. -/
theorem Served.answers {s u t : State} {srcs : List Source} {i : SlotNo} {src : Source} {a : Answer}
    (h : Served srcs i (written i a u) t)
    (hslots : ∀ j, j ≠ i → SlotKept s u j ∧ postedHeader u j = postedHeader s j)
    (htags : TagTaken s u src) (hkept : ExchangeKept s.exch u.exch) (hsnap : u.host.snapshot = s.host.snapshot) :
    Answers s t i src a where
  answered := ⟨by rw [h.slot]; exact Table.upd_same _ _ _, by rw [h.mark]; exact Table.upd_same _ _ _,
    by rw [h.context]; exact Table.upd_same _ _ _⟩
  taken := ⟨by rw [h.tags]; exact htags.tag, fun v hv => by rw [h.tags]; exact htags.tags v hv⟩
  others := fun j hj => by
    have hj : j ≠ i := by simpa using hj
    obtain ⟨hk, hp⟩ := hslots j hj
    have hw : SlotKept u (written i a u) j :=
      ⟨Table.upd_ne _ _ _ _ hj, Table.upd_ne _ _ _ _ hj, by
        simp only [written, State.onSweep_exch, State.onExch_exch, State.onHost_exch, Table.upd_ne _ _ _ _ hj]⟩
    have hpw : postedHeader (written i a u) j = postedHeader u j := by
      unfold postedHeader
      simp only [written, State.onSweep_exch, State.onExch_exch, State.onHost_exch]
      rcases u.exch.sweep with _ | w
      · rfl
      · simp only [Option.map_some, Sweep.setByte, Table.upd_ne _ _ _ _ hj]
    rcases h.others j with g | ⟨⟨hd, v, e1, e2, e3, e4⟩, e5, e6⟩
    · exact .inl ((hk.trans hw).trans g)
    · exact .inr ⟨⟨hd, v, by rw [← hp, ← hpw]; exact e1, e2, e3, e4⟩, e5, e6⟩
  kept := hkept.trans (ExchangeKept.trans (y := (written i a u).exch) ⟨by constructor <;> rfl, rfl, rfl, rfl⟩ h.kept)
  snapshot := h.snapshot.trans hsnap

/-- What the take leaves of the exchange before an accepted order's changes. -/
theorem takenState_kept (s : State) (r : OrderRule) (o : OrderHdr) (b : OrderBody) (src : Source) :
    (∀ j, j ≠ o.slot → SlotKept s (takenState s r o b src) j) ∧ TagTaken s (takenState s r o b src) src ∧
      ExchangeKept s.exch (takenState s r o b src).exch :=
  ⟨fun _ hj => ⟨Table.upd_ne _ _ _ _ hj, rfl, Table.upd_ne _ _ _ _ hj⟩,
    ⟨Table.upd_same _ _ _, fun _ hv => Table.upd_ne _ _ _ _ hv⟩, ⟨by constructor <;> rfl, rfl, rfl, rfl⟩⟩

/-- An accepted order that is answered within its take (R41, R43, R46): the state that its changes leave, with the answer
written and the sources served. -/
theorem takeOrder_answers {r : OrderRule} {o : OrderHdr} {b : OrderBody} {owner : Source → Tag → Option (List Byte) → State → Verdict}
    {s : State} {src : Source} {tag : Tag} {change : State → State} {f : State → OrderOutcome × AnswerFields}
    (ho : Offers s o.slot src tag) (hv : verdictOf r o src (owner src tag) s = .accept change (some f))
    (he : OwnEffect (takenState s r o b src) (change (takenState s r o b src))) :
    ∃ t, takeOrder r o b Env.quiet owner s = t ∧
      t = { change (takenState s r o b src) with exch := t.exch, host := t.host } ∧
      Answers s t o.slot src ⟨(f (change (takenState s r o b src))).1, r.code, tag,
        (change (takenState s r o b src)).office.clock, (f (change (takenState s r o b src))).2⟩ ∧
      t.host.journal = (change (takenState s r o b src)).host.journal ∧
      t.exch.alerts = (change (takenState s r o b src)).exch.alerts := by
  obtain ⟨k1, k2, k3⟩ := takenState_kept s r o b src
  obtain ⟨srcs, h⟩ := takeOrder_done (r := r) (owner := owner) ho hv (by rw [he.host]; exact ho.quiet)
    (by rw [he.exch]; exact ho.running) (fun _ => written_unposted _ _ _)
  refine ⟨_, rfl, ?_, h.answers (fun j hj => ⟨?_, ?_⟩) ⟨?_, ?_⟩ ?_ ?_, h.ring, h.alerts⟩
  · rw [h.rest]; rfl
  · exact ⟨by rw [he.host]; exact (k1 j hj).slot, by rw [he.exch]; exact (k1 j hj).mark, by rw [he.exch]; exact (k1 j hj).context⟩
  · rw [postedHeader_congr (s := takenState s r o b src) (by rw [he.exch]) (by rw [he.exch]), taken_posted s r o b src hj]
  · rw [he.exch]; exact k2.tag
  · intro v hv; rw [he.exch]; exact k2.tags v hv
  · rw [he.exch]; exact k3.trans ⟨by constructor <;> rfl, rfl, rfl, rfl⟩
  · rw [he.host]; rfl

/-- An accepted order that is answered within its take, when its changes end with entries given: `u` is the state before
them (R43, R165). -/
theorem takeOrder_gives {r : OrderRule} {o : OrderHdr} {b : OrderBody} {owner : Source → Tag → Option (List Byte) → State → Verdict}
    {s : State} {src : Source} {tag : Tag} {change : State → State} {f : State → OrderOutcome × AnswerFields} {u v : State}
    {es : List EntryBody} (ho : Offers s o.slot src tag)
    (hv : verdictOf r o src (owner src tag) s = .accept change (some f))
    (hc : change (takenState s r o b src) = giveAll es u) (he : OwnEffect (takenState s r o b src) u)
    (hs : SameJournal v u) (hq : v.host.busIn = none) :
    ∃ t, takeOrder r o b Env.quiet owner s = t ∧ t = { u with journal := t.journal, exch := t.exch, host := t.host } ∧
      Gives es v t ∧
      Answers s t o.slot src ⟨(f (giveAll es u)).1, r.code, tag, u.office.clock, (f (giveAll es u)).2⟩ := by
  have hu : u.host.busIn = none := by rw [he.host]; exact ho.quiet
  have hj := giveAll_journalled hu es
  obtain ⟨t, h1, h2, h3, h4, h5⟩ := takeOrder_answers ho hv (by rw [hc]; exact he.journalled hj)
  rw [hc] at h2 h3 h4 h5
  refine ⟨t, h1, ?_, Gives.of_same hs hq hu ?_ h4 h5, ?_⟩
  · rw [h2, hj.rest]
  · rw [h2]
  · have e : (giveAll es u).office.clock = u.office.clock := by rw [hj.rest]
    rw [e] at h3
    exact h3

/-- The verdict on an order that the gate, its attachment, its source and the office let through (R43). -/
theorem Takeable.verdict {s : State} {o : OrderHdr} {src : Source} {tag : Tag} (h : Takeable s o.slot src tag) {r : OrderRule}
    (ha : r.attaches = false) (hp : r.permitted src = true) (owner : Option (List Byte) → State → Verdict) :
    verdictOf r o src owner s = owner none s := by
  simp [verdictOf, h.gate, readAttachment, ha, hp, h.office]

/-- The same for an order whose attachment was read. -/
theorem Takeable.verdict_attached {s : State} {o : OrderHdr} {src : Source} {tag : Tag} (h : Takeable s o.slot src tag)
    {r : OrderRule} {bs : List Byte} (ha : r.attaches = true) (ho : o.attached = true)
    (hl : 1 ≤ o.attLen ∧ o.attLen ≤ Config.maxAttachment) (hb : o.att = .data bs) (hp : r.permitted src = true)
    (owner : Option (List Byte) → State → Verdict) : verdictOf r o src owner s = owner (some bs) s := by
  have : ¬ (o.attLen = 0 ∨ Config.maxAttachment < o.attLen) := by omega
  simp [verdictOf, h.gate, readAttachment, ha, ho, this, hb, hp, h.office]

/-- A window's order is decided for its own drawer (R45). -/
theorem forWindow_window (w : Window) (f : Window → Verdict) : forWindow w.castSucc f = f w := by
  unfold forWindow
  rw [Fin.val_castSucc, toIdx_val]

end Sys2Proof.Machine
end

