-- ==== Sys2Proof/Laws/Keeps.lean ====
section
/-! SUPPORT. The forms that hold at every moment, and the queue of commands, through each shared operation: one lemma per
operation, cited wherever the operation is used. -/

namespace Sys2Proof.Machine

/-- From one state to the other the queue of commands stands, and each form of Safety.lean that held still holds. -/
structure Keeps (s t : State) : Prop where
  pending : t.pending = s.pending
  tables  : FixedTables s → FixedTables t
  ring    : RingForm s → RingForm t
  gate    : GateForm s → GateForm t
  lanes   : (∀ l : Lane, LaneBound s.lanes[l]) → ∀ l : Lane, LaneBound t.lanes[l]
  till    : (∀ w : Window, DrawerBound s.till[w]) → ∀ w : Window, DrawerBound t.till[w]
  faults  : (∀ l : Lane, FaultBound s.faults.recs[l]) → ∀ l : Lane, FaultBound t.faults.recs[l]

namespace Keeps

variable {s t u : State}

/-- Nothing changes. -/
theorem refl (s : State) : Keeps s s := ⟨rfl, id, id, id, id, id, id⟩

/-- One change after another. -/
theorem trans (h : Keeps s t) (g : Keeps t u) : Keeps s u :=
  ⟨g.pending.trans h.pending, g.tables ∘ h.tables, g.ring ∘ h.ring, g.gate ∘ h.gate, g.lanes ∘ h.lanes, g.till ∘ h.till,
    g.faults ∘ h.faults⟩

/-- The saturating counters stay in their ranges. -/
theorem counters (h : Keeps s t) (hs : CountersBounded s) : CountersBounded t :=
  ⟨h.lanes hs.1, h.till hs.2.1, h.faults hs.2.2⟩

/-- A choice between two changes. -/
theorem ite {p : Prop} [Decidable p] (h : p → Keeps s t) (g : ¬ p → Keeps s u) : Keeps s (if p then t else u) := by
  split
  · exact h ‹_›
  · exact g ‹_›

/-- Changes made in turn. -/
theorem foldl {α : Type} {f : State → α → State} (h : ∀ s a, Keeps s (f s a)) : ∀ (as : List α) (s : State), Keeps s (as.foldl f s)
  | [], s => refl s
  | a :: as, s => (h s a).trans (foldl h as (f s a))

/-! ### Changes of one block -/

theorem onStock (s : State) (f : StockRegister → StockRegister) : Keeps s (s.onStock f) := ⟨rfl, id, id, id, id, id, id⟩

theorem onOffice (s : State) (f : OfficeControl → OfficeControl) : Keeps s (s.onOffice f) := ⟨rfl, id, id, id, id, id, id⟩

theorem onExch (s : State) (f : ExchangeController → ExchangeController) : Keeps s (s.onExch f) := ⟨rfl, id, id, id, id, id, id⟩

theorem onSweep (s : State) (f : Sweep → Sweep) : Keeps s (s.onSweep f) := ⟨rfl, id, id, id, id, id, id⟩

theorem onAlerts (s : State) (f : Alerts → Alerts) : Keeps s (s.onAlerts f) := ⟨rfl, id, id, id, id, id, id⟩

theorem setMag (s : State) (l : Lane) (m : Option Loaded) : Keeps s (s.setMag l m) := ⟨rfl, id, id, id, id, id, id⟩

theorem onCounters (s : State) (k : StockKind) (f : Counters → Counters) : Keeps s (s.onCounters k f) :=
  ⟨rfl, id, id, id, id, id, id⟩

theorem setImage (s : State) (b : Buffer) (im : Option (List ImageField)) : Keeps s (s.setImage b im) :=
  ⟨rfl, id, id, id, id, id, id⟩

theorem onIssue (s : State) {f : IssueController → IssueController} (h : (f s.issue).layouts = s.issue.layouts) :
    Keeps s (s.onIssue f) :=
  ⟨rfl, fun g => ⟨g.1, by simp only [State.onIssue, h]; exact g.2.1, g.2.2⟩, id, id, id, id, id⟩

theorem onHost (s : State) {f : HostMem → HostMem} (h : (f s.host).journal = s.host.journal) : Keeps s (s.onHost f) :=
  ⟨rfl, id, fun g => by simp only [RingForm, State.onHost, h]; exact g, id, id, id, id⟩

theorem onJournal (s : State) {f : JournalWriter → JournalWriter}
    (h : (s.journal.release = none → s.journal.closed = false) → (f s.journal).release = none → (f s.journal).closed = false) :
    Keeps s (s.onJournal f) := ⟨rfl, id, id, h, id, id, id⟩

theorem onLane (s : State) (l : Lane) {f : LaneRec → LaneRec} (h : LaneBound s.lanes[l] → LaneBound (f s.lanes[l])) :
    Keeps s (s.onLane l f) := by
  refine ⟨rfl, id, id, id, fun g m => ?_, id, id⟩
  show LaneBound (s.lanes.upd l f)[m]
  rw [Table.upd_get]
  split
  · rename_i e; rw [e]; exact h (g l)
  · exact g m

theorem onLink (s : State) (l : Lane) (f : LinkEngine → LinkEngine) : Keeps s (s.onLink l f) := onLane s l id

theorem onAct (s : State) (l : Lane) {f : Activity → Activity}
    (h : LaneBound s.lanes[l] → LaneBound { s.lanes[l] with act := f s.lanes[l].act }) : Keeps s (s.onAct l f) := by
  refine onLane s l fun g => ?_
  split
  · exact g
  · exact h g

theorem onFeed (s : State) (l : Lane) {f : FeedMonitor → FeedMonitor}
    (h : s.lanes[l].feed.since ≤ 65535 → (f s.lanes[l].feed).since ≤ 65535) : Keeps s (s.onFeed l f) :=
  onLane s l fun ⟨a, b, c, d, e, g⟩ => ⟨a, b, c, d, e, h g⟩

theorem onDrawer (s : State) (w : Window) {f : Drawer → Drawer} (h : DrawerBound s.till[w] → DrawerBound (f s.till[w])) :
    Keeps s (s.onDrawer w f) := by
  refine ⟨rfl, id, id, id, id, fun g m => ?_, id⟩
  show DrawerBound (s.till.upd w f)[m]
  rw [Table.upd_get]
  split
  · rename_i e; rw [e]; exact h (g w)
  · exact g m

theorem onRecord (s : State) (l : Lane) {f : FaultRec → FaultRec}
    (h : FaultBound s.faults.recs[l] → FaultBound (f s.faults.recs[l])) (d : List Lane → List Lane) :
    Keeps s (s.onFaults fun t => ⟨t.recs.upd l f, d t.deferral⟩) := by
  refine ⟨rfl, id, id, id, id, id, fun g m => ?_⟩
  show FaultBound (s.faults.recs.upd l f)[m]
  rw [Table.upd_get]
  split
  · rename_i e; rw [e]; exact h (g l)
  · exact g m

/-! ### Accesses and answers (R46, R52) -/

theorem setBus (s : State) (b : Option Nat) : Keeps s (s.setBus b) := ⟨rfl, id, id, id, id, id, id⟩

theorem busFault (s : State) : Keeps s (busFault s) := ⟨rfl, id, id, id, id, id, id⟩

theorem access (s : State) : Keeps s s.access.1 := by
  unfold State.access
  split
  · exact refl s
  · exact setBus s _
  · exact setBus s _

theorem withBus (b : Option Nat) {f : State → State} (h : ∀ s, Keeps s (f s)) (s : State) : Keeps s (withBus b f s) :=
  ((setBus s b).trans (h _)).trans (setBus _ none)

theorem openContext (i : SlotNo) (h : Header) (c : Option OrderCopy) (s : State) : Keeps s (openContext i h c s) := onExch s _

theorem holdAnswer (i : SlotNo) (a : Answer) (s : State) : Keeps s (holdAnswer i a s) := onExch s _

theorem tryAnswer (i : SlotNo) (a : Answer) (s : State) : Keeps s (tryAnswer i a s).1 := by
  simp only [Machine.tryAnswer]
  split
  · exact (access s).trans ⟨rfl, id, id, id, id, id, id⟩
  · exact (access s).trans (busFault _)

theorem answer (i : SlotNo) (k : Byte) (tag : Tag) (oc : OrderOutcome) (f : AnswerFields) (s : State) :
    Keeps s (answer i k tag oc f s) := by
  simp only [Machine.answer]
  split
  · split
    · exact tryAnswer i _ s
    · exact (tryAnswer i _ s).trans (holdAnswer i _ _)
  · exact holdAnswer i _ s

theorem forSlots {f : SlotNo → State → State} (h : ∀ i s, Keeps s (f i s)) (s : State) : Keeps s (forSlots f s) :=
  foldl (fun s i => h i s) _ s

theorem forLanes {f : Lane → State → State} (h : ∀ l s, Keeps s (f l s)) (s : State) : Keeps s (forLanes f s) :=
  foldl (fun s l => h l s) _ s

/-! ### The journal (R165 to R168) -/

theorem closeGate (s : State) : Keeps s (closeGate s) := by
  unfold Machine.closeGate
  split
  · rename_i h
    refine (onJournal s fun _ hr => ?_).trans (onAlerts _ _)
    simp only [Bool.and_eq_true, JournalWriter.mustClose, JournalWriter.free] at h
    rw [show s.journal.release = none from hr] at h
    simp at h
  · exact refl s

theorem settleGate (s : State) : Keeps s (settleGate s) := by
  unfold Machine.settleGate
  split
  · rename_i h
    refine (onJournal s fun _ hr => ?_).trans (onAlerts _ _)
    simp only [JournalWriter.mustClose, JournalWriter.free] at h
    rw [show s.journal.release = none from hr] at h
    simp at h
  · exact onJournal s fun _ _ => rfl

theorem writeEntry (e : Entry) (s : State) : Keeps s (writeEntry e s).1 := by
  simp only [Machine.writeEntry]
  split
  · exact (access s).trans ⟨rfl, id, fun g => Memory.put_wf _ _ g, fun g => g, id, id, id⟩
  · exact (access s).trans (busFault _)

theorem place (e : Entry) (s : State) : Keeps s (place e s) := by
  simp only [Machine.place]
  split
  · refine Keeps.trans (t := _) ?_ (closeGate _)
    split
    · exact writeEntry e s
    · exact (writeEntry e s).trans (onJournal _ id)
  · split
    · exact (onJournal s id).trans (closeGate _)
    · exact (onJournal s id).trans (closeGate _)

theorem give (b : EntryBody) (s : State) : Keeps s (give b s) := place _ s

theorem giveAll (bs : List EntryBody) (s : State) : Keeps s (giveAll bs s) := foldl (fun s b => give b s) bs s

theorem giveFault (l : Lane) (k : FaultKind) (r : Bool) (n : Nat) (s : State) : Keeps s (giveFault l k r n s) := by
  unfold Machine.giveFault
  split
  · exact refl s
  · split
    · exact give _ s
    · exact ((onRecord s l id (· ++ [l])).trans (onJournal _ id)).trans (closeGate _)

theorem drainQueue : ∀ (es : List Entry) (s : State), Keeps s (drainQueue es s)
  | [], s => onJournal s id
  | e :: es, s => by
    simp only [Machine.drainQueue]
    split
    · split
      · exact (writeEntry e s).trans (drainQueue es _)
      · exact (writeEntry e s).trans (onJournal _ id)
    · exact onJournal s id

theorem moveItem (x : OverflowItem) (s : State) : Keeps s (moveItem x s) := by
  unfold Machine.moveItem
  split
  · exact onJournal s id
  · split
    · exact refl s
    · exact (onJournal s id).trans (onRecord _ _ id _)

theorem refill : ∀ (xs : List OverflowItem) (s : State), Keeps s (refill xs s)
  | [], s => onJournal s id
  | x :: xs, s => by
    simp only [Machine.refill]
    split
    · exact (moveItem x s).trans (refill xs _)
    · exact onJournal s id

theorem drain (s : State) : Keeps s (drain s) := by
  simp only [Machine.drain]
  split
  · exact (((drainQueue _ s).trans (refill _ _)).trans (drainQueue _ _)).trans (settleGate _)
  · exact (drainQueue _ s).trans (settleGate _)

/-! ### Stock (R15 to R18, R174) -/

theorem dropFlight (k : StockKind) (n : Nat) (s : State) : Keeps s (dropFlight k n s) := onOffice s _

/-- A saturating sum stays at or below its cap. -/
theorem satAdd_le (c a b : Nat) : satAdd c a b ≤ c := Nat.min_le_left _ _

theorem countSpoilt (l : Lane) (k : StockKind) (s : State) : Keeps s (countSpoilt l k s) :=
  (onCounters s k _).trans (onAct _ l fun ⟨a, b, c, _, e, g⟩ => ⟨a, b, c, satAdd_le _ _ _, e, g⟩)

theorem spoilHeld (l : Lane) (k : StockKind) (n : Nat) (s : State) : Keeps s (spoilHeld l k n s) :=
  (dropFlight k n s).trans (countSpoilt l k _)

theorem spoilNext (l : Lane) (s : State) : Keeps s (spoilNext l s) := by
  unfold Machine.spoilNext
  split
  · exact refl s
  · split
    · exact (setMag s _ _).trans (countSpoilt l _ _)
    · exact refl s

theorem withdraw (l : Lane) (set : List (StockKind × Nat)) (s : State) : Keeps s (withdraw l set s) := by
  simp only [Machine.withdraw]
  have h := foldl (f := fun s (p : StockKind × Nat) => Machine.dropFlight p.1 p.2 s) (fun s p => dropFlight p.1 p.2 s) set s
  split
  · exact h
  · exact h
  · exact h.trans (setMag _ _ _)

theorem realign (l : Lane) (r : Nat) (s : State) : Keeps s (realign l r s) := by
  unfold Machine.realign
  split
  · exact refl s
  · split
    · exact ((onCounters s _ _).trans (setMag _ _ _)).trans (give _ _)
    · exact refl s

/-! ### Drawers (R150 to R158) -/

/-- Posting an amount to one accumulator of a tender keeps all of them in range. -/
theorem accBound {d : Drawer} (h : DrawerBound d) (T : Tender) {f : Accumulators → Accumulators}
    (hf : ∀ a, a.sales ≤ Config.maxAccumulator ∧ a.voids ≤ Config.maxAccumulator ∧ a.refunds ≤ Config.maxAccumulator →
      (f a).sales ≤ Config.maxAccumulator ∧ (f a).voids ≤ Config.maxAccumulator ∧ (f a).refunds ≤ Config.maxAccumulator)
    (U : Tender) :
    ((d.acc.upd T f).get U).sales ≤ Config.maxAccumulator ∧ ((d.acc.upd T f).get U).voids ≤ Config.maxAccumulator ∧
      ((d.acc.upd T f).get U).refunds ≤ Config.maxAccumulator := by
  have e : (d.acc.upd T f).get U = if U = T then f (d.acc.get T) else d.acc.get U := by cases T <;> cases U <;> rfl
  rw [e]
  split
  · exact hf _ (h.1 T)
  · exact h.1 U

theorem sale {d : Drawer} (h : DrawerBound d) (T : Tender) (n : Nat) : DrawerBound (d.sale T n) :=
  ⟨accBound h T fun _ g => ⟨satAdd_le _ _ _, g.2.1, g.2.2⟩, h.2⟩

theorem addVoid {d : Drawer} (h : DrawerBound d) (T : Tender) (n : Nat) : DrawerBound (d.addVoid T n) :=
  ⟨accBound h T fun _ g => ⟨g.1, satAdd_le _ _ _, g.2.2⟩, h.2⟩

theorem addRefund {d : Drawer} (h : DrawerBound d) (T : Tender) (n : Nat) : DrawerBound (d.addRefund T n) :=
  ⟨accBound h T fun _ g => ⟨g.1, g.2.1, satAdd_le _ _ _⟩, h.2⟩

theorem countIssued {d : Drawer} (h : DrawerBound d) : DrawerBound d.countIssued := ⟨h.1, satAdd_le _ _ _, h.2.2⟩

theorem countVoided {d : Drawer} (h : DrawerBound d) : DrawerBound d.countVoided := ⟨h.1, h.2.1, satAdd_le _ _ _, h.2.2.2⟩

theorem countDrawerSpoilt {d : Drawer} (h : DrawerBound d) : DrawerBound d.countSpoilt :=
  ⟨h.1, h.2.1, h.2.2.1, satAdd_le _ _ _, h.2.2.2.2⟩

theorem countLost {d : Drawer} (h : DrawerBound d) : DrawerBound d.countLost :=
  ⟨h.1, h.2.1, h.2.2.1, h.2.2.2.1, satAdd_le _ _ _⟩

theorem testCashUp (w : Window) (s : State) : Keeps s (testCashUp w s) := by
  simp only [Machine.testCashUp]
  split
  · exact refl s
  · split
    · exact ((give _ s).trans (answer _ _ _ _ _ _)).trans (onDrawer _ w id)
    · exact refl s

end Keeps

end Sys2Proof.Machine
end

