-- ==== Sys2Proof/Laws/KeepsLanes.lean ====
section
/-! SUPPORT. The forms that hold at every moment through the operations of the lanes: the Link Engine, the sends, the ends
of jobs, the faults, the reports and the Feed Monitor. -/

namespace Sys2Proof.Machine.Keeps

/-! ### The Link Engine -/

theorem onOut (l : Lane) (b : Buffer) (f : Job → Job) (s : State) : Keeps s (onOut l b f s) := onLane s l id

theorem beginCarried (l : Lane) (c : Carried) (s : State) : Keeps s (beginCarried l c s) := by
  simp only [Machine.beginCarried]
  split
  · exact (onLink s l _).trans (onOut _ _ _ _)
  · exact onLink s l _

theorem beginExchange (l : Lane) (f : Frame) (s : State) : Keeps s (beginExchange l f s) := beginCarried l _ s

theorem beginPoll (l : Lane) (s : State) : Keeps s (beginPoll l s) := beginExchange l _ s

theorem pump (l : Lane) (s : State) : Keeps s (pump l s) := by
  unfold Machine.pump
  split
  · split
    · exact refl s
    · exact (onLink s l _).trans (beginExchange l _ _)
  · exact refl s

theorem dropWaiting (l : Lane) (s : State) : Keeps s (dropWaiting l s) := by
  unfold Machine.dropWaiting
  split
  · exact ite (fun _ => onLink s l _) fun _ => refl s
  · exact refl s

theorem clearFlush (l : Lane) (s : State) : Keeps s (clearFlush l s) := onLane s l id

theorem linkDown (l : Lane) (s : State) : Keeps s (linkDown l s) := (onLink s l _).trans (clearFlush l _)

theorem linkIdle (l : Lane) (s : State) : Keeps s (linkIdle l s) := (onLink s l _).trans (clearFlush l _)

theorem linkStart (l : Lane) (s : State) : Keeps s (linkStart l s) :=
  ((onLink s l _).trans (clearFlush l _)).trans (beginExchange l _ _)

theorem beginLinkStart (l : Lane) (s : State) : Keeps s (beginLinkStart l s) :=
  ite (fun _ => onLink s l _) fun _ => linkStart l s

theorem toStarting (l : Lane) (why : LaneReason) (s : State) : Keeps s (toStarting l why s) :=
  ((onLane s l id).trans (give _ _)).trans (beginLinkStart l _)

theorem park (l : Lane) (why : ParkReason) (reason : LaneReason) (s : State) : Keeps s (park l why reason s) :=
  ((onLane s l id).trans (linkIdle l _)).trans (give _ _)

theorem requestFlush (l : Lane) (n : Nat) (s : State) : Keeps s (requestFlush l n s) :=
  ite (fun _ => (onLink s l _).trans (pump l _)) fun _ => refl s

theorem stallEdge (was : Bool) (l : Lane) (s : State) : Keeps s (stallEdge was l s) :=
  ite (fun _ => onLane s l id) fun _ => ite (fun _ => onLane s l id) fun _ => refl s

theorem withStall (l : Lane) {f : State → State} (s : State) (h : Keeps s (f s)) : Keeps s (withStall l f s) :=
  h.trans (stallEdge _ l _)

theorem sendFront (l : Lane) (s : State) : Keeps s (sendFront l s) := by
  simp only [Machine.sendFront]
  split
  · exact (((setMag s _ _).trans (setImage _ _ _)).trans (onOffice _ _)).trans (onLane _ l id)
  · exact refl s

theorem trySend (l : Lane) (s : State) : Keeps s (trySend l s) :=
  ite (fun _ => (withStall l s (sendFront l s)).trans (pump l _)) fun _ => refl s

theorem joinLane (l : Lane) (j : Job) (s : State) : Keeps s (joinLane l j s) :=
  ((withStall l s (onLane s l id)).trans
    (onAct _ l fun ⟨_, b, c, d, e, g⟩ => ⟨satAdd_le _ _ _, b, c, d, e, g⟩)).trans (trySend l _)

theorem delivered (l : Lane) (f : Frame) (s : State) : Keeps s (delivered l f s) := by
  unfold Machine.delivered
  split
  · exact ite (fun _ => refl s) fun _ => onOut l _ _ s
  · exact onLink s l _
  · exact refl s

/-- What follows a good exchange once nothing is left to carry of its frame. -/
theorem nextExchange (l : Lane) (other : Bool) (s : State) :
    Keeps s (if ((Machine.trySend l (Machine.pump l (Machine.dropWaiting l s))).lane l).link.between then
      if other then Machine.beginPoll l (Machine.trySend l (Machine.pump l (Machine.dropWaiting l s)))
      else (Machine.trySend l (Machine.pump l (Machine.dropWaiting l s))).onLink l fun k =>
        { k with poll := some (Machine.trySend l (Machine.pump l (Machine.dropWaiting l s))).office.settings.poll }
    else Machine.trySend l (Machine.pump l (Machine.dropWaiting l s))) :=
  have h := ((dropWaiting l s).trans (pump l _)).trans (trySend l _)
  ite (fun _ => ite (fun _ => h.trans (beginPoll l _)) fun _ => h.trans (onLink _ l _)) fun _ => h

theorem afterExchange (l : Lane) (other : Bool) (f : Frame) (s : State) : Keeps s (afterExchange l other f s) := by
  simp only [Machine.afterExchange]
  refine (onLink s l fun k => { k with exchange := none }).trans ?_
  split
  · exact ite (fun _ => beginExchange l _ _) fun _ => nextExchange l other _
  · exact nextExchange l other _

/-! ### The ends of a job (R65 to R68, R129) -/

/-- A lane that may come to rest keeps its counters. -/
theorem rest {r : LaneRec} (h : LaneBound r) : LaneBound r.rest := by
  unfold LaneRec.rest
  split
  · exact h
  · exact h

theorem leaveOut (l : Lane) (b : Buffer) (s : State) : Keeps s (leaveOut l b s) := onLane s l fun h => rest h

theorem answerIssue (l : Lane) (j : Job) (oc : OrderOutcome) (n : Option Nat) (c : Option DoubtCause) (s : State) :
    Keeps s (answerIssue l j oc n c s) := answer _ _ _ _ _ s

/-- The live count and suspense are in no counter's range. -/
theorem liveDown {d : Drawer} (h : DrawerBound d) : DrawerBound d.liveDown := ⟨h.1, h.2⟩

theorem suspend {d : Drawer} (h : DrawerBound d) (n : Nat) : DrawerBound (d.suspend n) := ⟨h.1, h.2⟩

theorem endIssued (l : Lane) (j : Job) (n : Nat) (s : State) : Keeps s (endIssued l j n s) := by
  simp only [Machine.endIssued]
  exact (((((((onIssue s rfl).trans (onCounters _ _ _)).trans (dropFlight _ _ _)).trans
    (onDrawer _ j.window (f := fun d => ((d.sale j.tender j.total).countIssued).liveDown)
      fun h => liveDown (countIssued (sale h _ _)))).trans (give _ _)).trans (setImage _ _ _)).trans
    (answerIssue l j _ _ _ _)).trans ((leaveOut l _ _).trans (testCashUp _ _))

theorem endSpoilt (l : Lane) (j : Job) (s : State) : Keeps s (endSpoilt l j s) :=
  ((((onIssue s rfl).trans (onDrawer _ j.window (f := Drawer.liveDown) liveDown)).trans (setImage _ _ _)).trans (answerIssue l j _ _ _ _)).trans
    (testCashUp _ _)

theorem endInDoubt (l : Lane) (k : FaultKind) (j : Job) (s : State) : Keeps s (endInDoubt l k j s) := by
  simp only [Machine.endInDoubt]
  split
  · exact refl s
  · exact (((((((onStock s _).trans (dropFlight _ _ _)).trans (onDrawer _ j.window (f := fun d => (d.suspend j.total).liveDown)
      fun h => liveDown (suspend h _))).trans (give _ _)).trans
      (setImage _ _ _)).trans (answerIssue l j _ _ _ _)).trans (leaveOut l _ _)).trans (testCashUp _ _)

theorem retryOrEnd (l : Lane) (j : Job) (s : State) : Keeps s (retryOrEnd l j s) :=
  ite (fun _ => onLane s l id) fun _ => endSpoilt l j s

/-! ### Faults (R130, R136 to R138) -/

theorem recallSent (l : Lane) (s : State) : Keeps s (recallSent l s) := (withdraw l _ s).trans (onLane _ l id)

theorem settleOut (l : Lane) (k : FaultKind) (s : State) : Keeps s (settleOut l k s) := by
  simp only [Machine.settleOut]
  have h := (foldl (f := fun s j => Machine.endInDoubt l k j s) (fun s j => endInDoubt l k j s)
    ((s.lane l).out.filter fun j => decide (j.state = .fed ∨ j.state = .printed)) s).trans (recallSent l _)
  exact ite (fun _ => h) fun _ => h.trans (requestFlush l _ _)

theorem holdLane (l : Lane) (k : FaultKind) (s : State) : Keeps s (holdLane l k s) := by
  have h := withStall l (f := fun s => Machine.settleOut l k (Machine.give (.lane l .holding .fault)
    (s.onLane l fun r => { r with state := .holding }))) s (((onLane s l id).trans (give _ _)).trans (settleOut l k _))
  unfold Machine.holdLane
  split
  · exact h
  · exact h
  · exact h
  · exact refl s

theorem countFault (l : Lane) (s : State) : Keeps s (countFault l s) :=
  onAct s l fun ⟨a, b, c, d, _, g⟩ => ⟨a, b, c, d, satAdd_le _ _ _, g⟩

/-- One more fault keeps an ACTIVE record's repeat count and further kinds in range (R137). -/
theorem addBound {r : FaultRec} {a : ActiveFault} (h : FaultBound r) (ha : r.active = some a) (k : FaultKind) :
    FaultBound { r with active := some (a.add k) } := by
  intro b hb
  cases Option.some.inj hb
  obtain ⟨-, h2, h3⟩ := h a ha
  refine ⟨satAdd_le _ _ _, ?_, ?_⟩
  · simp only [ActiveFault.add]
    split
    · exact h2
    · simp only [List.length_append, List.length_singleton]; omega
  · simp only [ActiveFault.add]
    split
    · exact h3
    · rename_i g
      have gk : k ∉ a.first :: a.further := by
        have e := (not_or.1 g).1
        simp only [ActiveFault.has, Bool.or_eq_true, decide_eq_true_eq, List.contains_iff_mem, not_or] at e
        exact fun m => (List.mem_cons.1 m).elim e.1 e.2
      have : (k :: (a.first :: a.further)).Nodup := List.nodup_cons.2 ⟨gk, h3⟩
      exact (List.perm_append_singleton k (a.first :: a.further)).nodup_iff.2 this

theorem raiseHolding (l : Lane) (k : FaultKind) (s : State) : Keeps s (raiseHolding l k s) := by
  simp only [Machine.raiseHolding]
  refine (countFault l s).trans ?_
  split
  · refine (((onRecord _ l (fun _ => ?_) id).trans (onAlerts _ _)).trans (giveFault l k _ _ _)).trans (holdLane l k _)
    intro a ha
    cases Option.some.inj ha
    exact ⟨Nat.zero_le _, Nat.zero_le _, List.nodup_singleton _⟩
  · rename_i a ha
    refine (onRecord _ l (f := fun r => { r with active := some (a.add k) }) (fun h => addBound h ha k) id).trans (Keeps.trans (t := _) ?_ (holdLane l k _))
    exact ite (fun _ => refl _) fun _ => giveFault l k _ _ _

theorem raiseRecovered (l : Lane) (k : FaultKind) (s : State) : Keeps s (raiseRecovered l k s) :=
  (countFault l s).trans (giveFault l k _ _ _)

theorem raiseDown (l : Lane) (k : FaultKind) (s : State) : Keeps s (raiseDown l k s) :=
  (linkDown l s).trans (raiseHolding l k _)

/-! ### Reports (R111 to R117) -/

theorem protocol (l : Lane) (s : State) : Keeps s (protocol l s) := raiseHolding l _ s

theorem actAccepted (l : Lane) (ref : Byte) (s : State) : Keeps s (actAccepted l ref s) := by
  unfold Machine.actAccepted
  split
  · exact protocol l s
  · exact onOut l _ _ s

theorem actPrinted (l : Lane) (ref : Byte) (s : State) : Keeps s (actPrinted l ref s) := by
  unfold Machine.actPrinted
  split
  · exact protocol l s
  · split
    · exact onOut l _ _ s
    · exact raiseHolding l _ s
    · exact protocol l s

theorem actEjected (l : Lane) (ref : Byte) (s : State) : Keeps s (actEjected l ref s) := by
  simp only [Machine.actEjected]
  split
  · exact protocol l s
  · split
    · exact protocol l s
    · have h := (endIssued l ‹_› ‹_› s).trans (onLink _ l fun k => { k with headFault := false })
      exact ite (fun _ => h.trans (raiseHolding l _ _)) fun _ => h

theorem headFault (l : Lane) (s : State) : Keeps s (headFault l s) :=
  ite (fun _ => raiseHolding l _ s) fun _ => (onLink s l _).trans (raiseRecovered l _ _)

theorem actSpoiled (l : Lane) (ref : Byte) (s : State) : Keeps s (actSpoiled l ref s) := by
  simp only [Machine.actSpoiled]
  split
  · exact protocol l s
  · rename_i j _
    split
    · exact protocol l s
    · rename_i n _
      have h := (((((spoilHeld l j.kind n s).trans (onDrawer _ j.window (f := Drawer.countSpoilt) countDrawerSpoilt)).trans
        (give (spoiltEntry j.kind n l (some j.window) .headFault) _)).trans (leaveOut l j.buffer _)).trans
        (retryOrEnd l (j.addSpoilt n) _)).trans (headFault l _)
      exact ite (fun _ => h.trans (raiseHolding l _ _)) fun _ => h

theorem actFlushed (l : Lane) (c : Byte) (s : State) : Keeps s (actFlushed l c s) := by
  unfold Machine.actFlushed
  split
  · exact protocol l s
  · exact ite (fun _ => (clearFlush l s).trans (trySend l _)) fun _ => (clearFlush l s).trans (protocol l _)

theorem actOutOfStock (l : Lane) (s : State) : Keeps s (actOutOfStock l s) :=
  ite (fun _ => refl s) fun _ => raiseHolding l _ s

theorem actWorking (l : Lane) (r : Report) (s : State) : Keeps s (actWorking l r s) := by
  unfold Machine.actWorking
  split
  · exact ite (fun _ => refl s) fun _ => actAccepted l _ s
  · exact ite (fun _ => refl s) fun _ => actPrinted l _ s
  · exact ite (fun _ => refl s) fun _ => actEjected l _ s
  · exact ite (fun _ => refl s) fun _ => actSpoiled l _ s
  · exact actFlushed l _ s
  · exact raiseHolding l _ s
  · exact actOutOfStock l s
  · exact protocol l s
  · exact refl s

theorem actHolding (l : Lane) (r : Report) (s : State) : Keeps s (actHolding l r s) := by
  unfold Machine.actHolding
  split
  · exact clearFlush l s
  · exact raiseHolding l _ s
  · exact actOutOfStock l s
  all_goals exact refl s

theorem act (l : Lane) (r : Report) (s : State) : Keeps s (act l r s) := by
  unfold Machine.act
  split
  · exact withStall l s (actWorking l r s)
  · exact withStall l s (actWorking l r s)
  · exact actHolding l r s
  · exact refl s

/-! ### The end of an exchange (R99, R101, R105 to R109) -/

theorem setStep (l : Lane) (x : XStep) (t : Option Nat) (s : State) : Keeps s (setStep l x t s) := onLink s l _

theorem setPins (l : Lane) (p : Pins) (s : State) : Keeps s (setPins l p s) := onLane s l id

theorem setLines (ps : Lines) (s : State) : Keeps s (setLines ps s) := by
  induction ps generalizing s with
  | nil => exact refl s
  | cons p ps ih => exact (setPins p.1 p.2 s).trans (ih _)

theorem failGreeting (l : Lane) (s : State) : Keeps s (failGreeting l s) :=
  (onLink s l _).trans (ite (fun _ => onLink _ l _) fun _ => raiseDown l _ _)

theorem failRunning (l : Lane) (x : Exchange) (s : State) : Keeps s (failRunning l x s) :=
  (onLink s l _).trans (ite (fun _ => refl _) fun _ => raiseDown l _ _)

theorem failExchange (l : Lane) (x : Exchange) (s : State) : Keeps s (failExchange l x s) := by
  refine ite (fun _ => linkStart l s) fun _ => ?_
  split
  · exact failGreeting l s
  · exact failRunning l x s
  · exact refl s

theorem acceptCapacity (l : Lane) (x : Exchange) (bit : Bool) (k : Nat) (s : State) : Keeps s (acceptCapacity l x bit k s) :=
  (((onLane s l fun ⟨a, b, c, d, e, _⟩ => ⟨a, b, c, d, e, Nat.zero_le _⟩).trans
    (withStall l _ (onLane _ l id))).trans (give _ _)).trans (afterExchange l _ _ _)

theorem answerGreet (l : Lane) (x : Exchange) (r : Report) (s : State) : Keeps s (answerGreet l x r s) := by
  unfold Machine.answerGreet
  split
  · exact ite (fun _ => acceptCapacity l x _ _ s) fun _ => failGreeting l s
  · exact failGreeting l s

theorem answerRunning (l : Lane) (x : Exchange) (r : Report) (s : State) : Keeps s (answerRunning l x r s) := by
  simp only [Machine.answerRunning]
  refine ((onLink s l fun k => { k with fails := 0 }).trans (delivered l x.carried.frame _)).trans ?_
  refine ite (fun _ => afterExchange l _ _ _) fun _ => ?_
  split
  · exact ((onLink _ l _).trans (act l r _)).trans (afterExchange l _ _ _)
  · exact (protocol l _).trans (afterExchange l _ _ _)

theorem goodReport (l : Lane) (x : Exchange) (r : Report) (s : State) : Keeps s (goodReport l x r s) := by
  refine ite (fun _ => linkStart l s) fun _ => ?_
  split
  · exact answerGreet l x r s
  · exact answerRunning l x r s
  · exact refl s

theorem badForm (l : Lane) (x : Exchange) (s : State) : Keeps s (badForm l x s) := by
  refine ite (fun _ => linkStart l s) fun _ => ?_
  split
  · exact failGreeting l s
  · exact (((onLink s l _).trans (delivered l _ _)).trans (protocol l _)).trans (afterExchange l _ _ _)
  · exact refl s

theorem reportEnds (l : Lane) (r : Report) (p : Pins) (bus : Option Nat) (s : State) : Keeps s (reportEnds l r p bus s) := by
  unfold Machine.reportEnds
  split
  · exact refl s
  · exact withBus bus (fun s => (setPins l p s).trans (ite (fun _ => goodReport l _ r _) fun _ => badForm l _ _)) s

/-! ### The Feed Monitor (R119 to R127) -/

theorem countFed (l : Lane) (n : Nat) (s : State) : Keeps s (countFed l n s) :=
  onAct s l fun ⟨a, b, _, d, e, g⟩ => ⟨a, b, satAdd_le _ _ _, d, e, g⟩

theorem sequenceRepair (l : Lane) (also : List Buffer) (s : State) : Keeps s (sequenceRepair l also s) :=
  ((recallSent l s).trans (requestFlush l _ _)).trans (onLane _ l fun h => rest h)

theorem feedJob (l : Lane) (j : Job) (s : State) : Keeps s (feedJob l j s) := onOut l _ _ s

theorem secondBlank (l : Lane) (j : Job) (n : Nat) (s : State) : Keeps s (secondBlank l j n s).1 := by
  unfold Machine.secondBlank
  split
  · exact (onOut l _ _ s).trans (spoilHeld l _ _ _)
  · split
    · exact spoilNext l s
    · exact refl s

theorem doubleFeed (l : Lane) (j : Job) (n : Nat) (s : State) : Keeps s (doubleFeed l j n s) := by
  simp only [Machine.doubleFeed]
  exact ((((((((spoilHeld l j.kind n s).trans (secondBlank l j n _)).trans
    (foldl (f := fun s (_ : Nat) => s.onDrawer j.window Drawer.countSpoilt)
      (fun s _ => onDrawer s j.window countDrawerSpoilt) _ _)).trans (giveAll _ _)).trans (leaveOut l j.buffer _)).trans
    (retryOrEnd l _ _)).trans (sequenceRepair l _ _)).trans (raiseRecovered l _ _))

theorem unexpectedFeed (l : Lane) (s : State) : Keeps s (unexpectedFeed l s) := by
  simp only [Machine.unexpectedFeed]
  refine ((countFed l 1 s).trans (Keeps.trans (t := _) ?_ (sequenceRepair l _ _))).trans (raiseRecovered l _ _)
  split
  · exact refl _
  · exact (spoilNext l _).trans (give _ _)

theorem jobMark (l : Lane) (j : Job) (c : MarkClass) (s : State) : Keeps s (jobMark l j c s) := by
  have h := (feedJob l j s).trans (countFed l 1 _)
  unfold Machine.jobMark
  split
  · exact h
  · exact h
  · exact h.trans (raiseHolding l _ _)
  · split
    · exact (countFed l 2 s).trans (doubleFeed l j _ _)
    · exact h

theorem capture (l : Lane) (s : State) : Keeps s (s.onFeed l FeedMonitor.capture) := onFeed s l fun _ => Nat.zero_le _

theorem markEdge (l : Lane) (s : State) : Keeps s (markEdge l s) := by
  simp only [Machine.markEdge]
  refine ite (fun _ => ?_) fun _ => refl s
  have h : Keeps (s.onFeed l FeedMonitor.capture) (match awaitingMark (s.onFeed l FeedMonitor.capture) l with
      | none => Machine.unexpectedFeed l (s.onFeed l FeedMonitor.capture)
      | some j => Machine.jobMark l j (markClass (s.lane l).feed (markKind (s.onFeed l FeedMonitor.capture) l j).pitch
          (markKind (s.onFeed l FeedMonitor.capture) l j).tol) (s.onFeed l FeedMonitor.capture)) := by
    split
    · exact unexpectedFeed l _
    · exact jobMark l _ _ _
  split
  · exact (capture l s).trans (withStall l _ h)
  · exact (capture l s).trans (withStall l _ h)
  · exact ((capture l s).trans (countFed l 1 _)).trans (raiseRecovered l _ _)

theorem missedMarkTest (l : Lane) (s : State) : Keeps s (missedMarkTest l s) :=
  ite (fun _ => raiseHolding l _ s) fun _ => refl s

theorem stepPulse (l : Lane) (s : State) : Keeps s (stepPulse l s) := by
  refine ite (fun _ => (onFeed s l fun h => ?_).trans (missedMarkTest l _)) fun _ => refl s
  show (if s.lanes[l].feed.since < 65535 then s.lanes[l].feed.since + 1 else s.lanes[l].feed.since) ≤ 65535
  split <;> omega

/-! ### Events of the lines and of the patience timer (R92, R102 to R105) -/

theorem pollTimer (l : Lane) (p : Pins) (s : State) : Keeps s (pollTimer l p s) := by
  refine ite (fun _ => (setPins l p s).trans ?_) fun _ => refl s
  simp only [Machine.pollExpires]
  refine (onLink _ l fun k => { k with poll := none, repeatFrame := none }).trans ?_
  split
  · exact beginExchange l _ _
  · split
    · exact beginPoll l _
    · unfold Machine.carryAgain
      split
      · exact ite (fun _ => beginCarried l _ _) fun _ => beginPoll l _
      · exact beginCarried l _ _
      · exact beginPoll l _
      · exact beginPoll l _
  · exact refl _

theorem busyReleased (l : Lane) (low : Bool) (s : State) : Keeps s (busyReleased l low s) := by
  simp only [Machine.busyReleased]
  split
  · exact setPins l _ s
  · exact (setPins l _ s).trans (setStep l _ _ _)

theorem abandonAt (l : Lane) (x : XStep) (k : FaultKind) (s : State) : Keeps s (abandonAt l x k s) := by
  unfold Machine.abandonAt
  split
  · exact refl s
  · exact raiseDown l k s

theorem idleAfter (l : Lane) (n : Nat) (s : State) : Keeps s (idleAfter l n s) := by
  simp only [Machine.idleAfter]
  split
  · exact refl s
  · have h : Keeps s (s.onLane l fun r => { r with pins := { r.pins with ldiLow := false } }) := onLane s l id
    exact ite (fun _ => (h.trans (setStep l _ _ _)).trans (raiseRecovered l _ _)) fun _ =>
      ite (fun _ => h.trans (raiseDown l _ _)) fun _ => h

theorem frameEnds (l : Lane) (s : State) : Keeps s (frameEnds l s) := by
  unfold Machine.frameEnds
  split
  · exact refl s
  · exact setStep l _ _ s

theorem reportBegins (l : Lane) (s : State) : Keeps s (reportBegins l s) := by
  unfold Machine.reportBegins
  split
  · exact refl s
  · exact setStep l _ _ s

theorem failsAt (l : Lane) (x : XStep) (p : Pins) (s : State) : Keeps s (failsAt l x p s) := by
  unfold Machine.failsAt
  split
  · exact refl s
  · exact (setPins l p s).trans (failExchange l _ _)

theorem malformedEnds (l : Lane) (p : Pins) (s : State) : Keeps s (malformedEnds l p s) := by
  unfold Machine.malformedEnds
  split
  · exact refl s
  · exact (setPins l p s).trans (badForm l _ _)

theorem considerJob (l : Lane) (s : State) (j : Job) : Keeps s (considerJob l s j) := by
  simp only [Machine.considerJob]
  split
  · exact refl s
  · split
    · exact refl s
    · have h : Keeps s (rehome j ‹_› s) := ite (fun _ => refl s) fun _ => (setImage s _ _).trans (setImage _ _ _)
      exact (h.trans (onLane _ l id)).trans (joinLane _ _ _)

theorem patienceEnds (l : Lane) (s : State) : Keeps s (patienceEnds l s) := by
  simp only [Machine.patienceEnds]
  refine ite (fun _ => ?_) fun _ => refl s
  have h := (onLane s l (f := fun r => { r with patience := none }) id).trans
    (foldl (considerJob l) (s.lane l).queue _)
  exact ite (fun _ => h.trans (onLane _ l id)) fun _ => h

end Sys2Proof.Machine.Keeps
end

