-- ==== Sys2Proof/Laws/KeepsOrders.lean ====
section
/-! SUPPORT. The forms that hold at every moment through the sweep, the resets and restarts, the take of an order, and the
changes that each owner makes at a take. -/

namespace Sys2Proof.Machine.Keeps

/-! ### The sweep and the starting of the exchange (R36, R40, R41) -/

theorem answerDirect (i : SlotNo) (h : Header) (c : Option OrderCopy) (oc : OrderOutcome) (s : State) :
    Keeps s (answerDirect i h c oc s) :=
  (openContext i h c s).trans (answer _ _ _ _ _ _)

theorem answerPosted (i : SlotNo) (oc : OrderOutcome) (s : State) : Keeps s (answerPosted i oc s) := by
  unfold Machine.answerPosted
  split
  · exact refl s
  · exact answerDirect i _ _ oc s

theorem answerStale (src : Source) (s : State) : Keeps s (answerStale src s) := by
  unfold Machine.answerStale
  refine forSlots (fun i v => ?_) s
  split
  · exact answerPosted i _ v
  · exact refl v

theorem serve : ∀ (srcs : List Source) (s : State), Keeps s (serve srcs s)
  | [], s => onExch s _
  | src :: rest, s => by
    show Keeps s (offerNext src rest (Machine.serve rest) (Machine.answerStale src s))
    refine (answerStale src s).trans ?_
    unfold offerNext
    split
    · exact refl _
    · split
      · exact onSweep _ _
      · exact serve rest _

theorem serveOn (s : State) : Keeps s (serveOn s) := by
  unfold Machine.serveOn
  split
  · exact refl s
  · exact (onSweep s _).trans (serve _ _)

theorem servePast (s : State) : Keeps s (servePast s) := by
  unfold Machine.servePast
  split
  · exact refl s
  · exact (onSweep s _).trans (serve _ _)

theorem sweepRead (r : Nat) (hs : Table 64 Header) (s : State) : Keeps s (sweepRead r hs s) := by
  simp only [Machine.sweepRead]
  refine ite (fun _ => (access s).trans (busFault _)) fun _ => ?_
  have h := ((access s).trans (onJournal _ (f := fun j => j.handRelease r) fun _ hn => nomatch hn)).trans (drain _)
  refine ite (fun _ => h) fun _ => ite (fun _ => (h.trans (access _)).trans (busFault _)) fun _ => ?_
  exact (h.trans (access _)).trans ((onHost _ (f := fun m => m.readSlots hs) rfl).trans (onExch _ _))

theorem writePending : ∀ (ps : List (SlotNo × Answer)) (s : State), Keeps s (writePending ps s)
  | [], s => onExch s _
  | p :: ps, s => by
    simp only [Machine.writePending]
    split
    · exact (tryAnswer _ _ s).trans (writePending ps _)
    · exact (tryAnswer _ _ s).trans (onExch _ _)

theorem answerAborted (i : SlotNo) (s : State) : Keeps s (answerAborted i s) := by
  unfold Machine.answerAborted
  split
  · exact refl s
  · exact tryAnswer i _ s

theorem sweepAborted (s : State) : Keeps s (sweepAborted s) := by
  refine ite (fun _ => ?_) fun _ => refl s
  exact ite (fun _ => (forSlots answerAborted s).trans (onExch _ _)) fun _ => forSlots answerAborted s

theorem answerBadSource (i : SlotNo) (s : State) : Keeps s (answerBadSource i s) := by
  unfold Machine.answerBadSource
  split
  · exact refl s
  · exact ite (fun _ => answerDirect i _ _ _ s) fun _ => refl s

theorem sweepStale (s : State) : Keeps s (sweepStale s) :=
  (foldl (f := fun s src => Machine.answerStale src s) (fun s src => answerStale src s) _ s).trans (forSlots answerBadSource _)

theorem sweepServe (s : State) : Keeps s (sweepServe s) := (onExch s _).trans (serve _ _)

theorem sweepStep (r : Nat) (hs : Table 64 Header) (s : State) : Keeps s (sweepStep r hs s) := by
  simp only [Machine.sweepStep]
  split
  · exact refl s
  · refine (onSweep s fun w => { w with step := w.step + 1 }).trans ?_
    split
    · exact sweepRead r hs _
    · exact onExch _ _
    · exact writePending _ _
    · exact sweepAborted _
    · exact sweepStale _
    · exact sweepServe _
    · exact onSweep _ _

theorem sweepSteps : ∀ (n r : Nat) (hs : Table 64 Header) (s : State), Keeps s (sweepSteps n r hs s)
  | 0, _, _, s => refl s
  | n + 1, r, hs, s => (sweepStep r hs s).trans (sweepSteps n r hs _)

theorem startExchangeArea (c o r : Nat) (s : State) : Keeps s (startExchangeArea c o r s) := by
  simp only [Machine.startExchangeArea]
  refine ite (fun _ => ?_) fun _ => refl s
  refine ite (fun _ => (access s).trans (busFault _)) fun _ => ite (fun _ => (access s).trans (busFault _)) fun _ => ?_
  have h := (access s).trans (access _)
  refine ite (fun _ => h.trans (busFault _)) fun _ => (h.trans (onJournal _ (f := fun j => j.resize c r) ?_)).trans (onExch _ _)
  intro g
  unfold JournalWriter.resize
  split
  · exact g
  · intro hn
    exact g (Option.map_eq_none_iff.1 hn)

/-! ### Resets and restarts (R173 to R176) -/

/-- A lane's counters after a reset. -/
theorem lane_afterReset (r : LaneRec) : LaneBound r.afterReset := 
  ⟨Nat.zero_le _, Nat.zero_le _, Nat.zero_le _, Nat.zero_le _, Nat.zero_le _, Nat.zero_le _⟩

theorem doReset (k : ResetKind) (s : State) : Keeps s (doReset k s) := by
  refine ⟨rfl, id, id, fun _ _ => rfl, fun _ l => ?_, fun g w => ?_, id⟩
  · show LaneBound (s.lanes.map LaneRec.afterReset)[l]
    simp only [Fin.getElem_fin, Vector.getElem_map]
    exact lane_afterReset _
  · show DrawerBound (s.till.map Drawer.afterReset)[w]
    simp only [Fin.getElem_fin, Vector.getElem_map]
    exact ⟨(g w).1, (g w).2⟩

theorem restartKept (s : State) : Keeps s (restartKept s) := by
  simp only [Machine.restartKept]
  have h1 : Keeps s (s.office.flight.foldl doubtFlight s) :=
    foldl (fun s (e : FlightEntry) => (onStock s _).trans (onDrawer _ e.window (f := fun d => d.suspend e.total) fun h => suspend h _)) _ s
  have h2 : ∀ v : State, Keeps v { v with till := v.till.map Drawer.reopen, lanes := v.lanes.map LaneRec.afterRestart } := by
    refine fun v => ⟨rfl, id, id, id, fun g l => ?_, fun g w => ?_, id⟩
    · show LaneBound (v.lanes.map LaneRec.afterRestart)[l]
      simp only [Fin.getElem_fin, Vector.getElem_map, LaneRec.afterRestart]
      split
      · exact g l
      · exact g l
    · show DrawerBound (v.till.map Drawer.reopen)[w]
      simp only [Fin.getElem_fin, Vector.getElem_map]
      exact ⟨(g w).1, (g w).2⟩
  refine Keeps.trans ?_ (giveAll _ _)
  refine Keeps.trans ?_ (give _ _)
  refine Keeps.trans ?_ (h2 _)
  exact (h1.trans (onOffice _ _)).trans (onIssue _ rfl)

/-- The fixed tables of a part without retention (R23, R26, R61). -/
theorem empty_tables : FareUnit.empty.discounts[0] = fullFare ∧ IssueController.empty.layouts[0] = layout0 ∧
    FareUnit.empty.fees[3] = 0 := by
  refine ⟨?_, ?_, ?_⟩
  · simp only [FareUnit.empty, Vector.getElem_set_self]
  · simp only [IssueController.empty, Vector.getElem_replicate]
  · simp only [FareUnit.empty, Vector.getElem_replicate]

theorem restartLost (s : State) : Keeps s (restartLost s) := by
  unfold Machine.restartLost
  refine Keeps.trans ?_ (give _ _)
  refine ⟨rfl, fun _ => ?_, fun g => g, fun _ _ => rfl, fun g l => ?_, fun _ w => ?_, fun _ l => ?_⟩
  · exact empty_tables
  · show LaneBound (s.lanes.map fun r => { r with state := .off })[l]
    simp only [Fin.getElem_fin, Vector.getElem_map]
    exact g l
  · show DrawerBound (Vector.replicate 12 Drawer.empty)[w]
    simp only [Fin.getElem_fin, Vector.getElem_replicate]
    exact ⟨fun T => by cases T <;> decide, by decide, by decide, by decide, by decide⟩
  · show FaultBound (Vector.replicate 8 FaultRec.clear)[l]
    simp only [Fin.getElem_fin, Vector.getElem_replicate]
    exact fun _ h => nomatch h

theorem endStartUp (s : State) : Keeps s (endStartUp s) := by
  unfold Machine.endStartUp
  split
  · exact refl s
  · exact ite (fun _ => restartLost s) fun _ => restartKept s

/-! ### The take of an order (R42, R43) -/

theorem markTaken (i : SlotNo) (h : Header) (c : OrderCopy) (s : State) : Keeps s (markTaken i h c s) :=
  ((onHost s (f := fun m => { m with slots := m.slots.upd i fun c => { c with state := 2 } }) rfl).trans (onSweep _ _)).trans
    (openContext _ _ _ _)

theorem advanceTag (src : Source) (s : State) : Keeps s (advanceTag src s) := onExch s _

/-- A verdict whose acceptance, if it is one, keeps the forms from every state. -/
def Sound (v : Verdict) : Prop := ∀ change reply, v = .accept change reply → ∀ s, Keeps s (change s)

theorem settleVerdict (i : SlotNo) (h : Header) (c : OrderCopy) (src : Source) (cut : Option Cut) {v : Verdict} (hv : Sound v)
    (s : State) : Keeps s (settleVerdict i h c src cut v s) := by
  unfold Machine.settleVerdict
  split
  · exact servePast s
  · exact ((advanceTag src s).trans (answerDirect i h _ _ _)).trans (serveOn _)
  · rename_i change reply
    have hc := hv change reply rfl
    simp only [Machine.acceptOrder]
    refine ite (fun _ => (access s).trans (busFault _)) fun _ => (access s).trans ((markTaken i h c _).trans ?_)
    split
    · refine ((advanceTag src _).trans (hc _)).trans ?_
      unfold Machine.finishTake
      split
      · exact serveOn _
      · exact (answer _ _ _ _ _ _).trans (serveOn _)
    · split
      · exact ((advanceTag src _).trans (hc _)).trans (doReset _ _)
      · exact doReset _ _

/-- The owner is the only one to accept. -/
theorem verdictOf {r : OrderRule} {o : OrderHdr} {src : Source} {owner : Option (List Byte) → State → Verdict} {s : State}
    (h : ∀ att, Sound (owner att s)) : Sound (verdictOf r o src owner s) := by
  unfold Machine.verdictOf
  intro change reply e
  split at e
  · cases e
  · split at e
    · cases e
    · split at e
      · cases e
      · split at e
        · cases e
        · exact h _ change reply e

theorem takeOrder {r : OrderRule} {owner : Source → Tag → Option (List Byte) → State → Verdict}
    (h : ∀ src tag att s, Sound (owner src tag att s)) (o : OrderHdr) (b : OrderBody) (e : Env) (s : State) :
    Keeps s (takeOrder r o b e owner s) := by
  unfold Machine.takeOrder
  split
  · exact refl s
  · exact (setLines e.lines s).trans
      (withBus e.bus (fun s => settleVerdict _ _ _ _ _ (verdictOf fun att => h _ _ att s) s) _)

theorem takeUnknown (o : OrderHdr) (c : Byte) (e : Env) (s : State) : Keeps s (takeUnknown o c e s) := by
  unfold Machine.takeUnknown
  refine ite (fun _ => refl s) fun _ => ?_
  split
  · exact refl s
  · refine (setLines e.lines s).trans (withBus e.bus (fun s => settleVerdict _ _ _ _ _ ?_ s) _)
    intro change reply h
    split at h <;> cases h

/-- A refusal accepts nothing. -/
theorem refuse (oc : OrderOutcome) : Sound (.refuse oc) := fun _ _ h => nomatch h

/-- An acceptance answered DONE. -/
theorem acceptDone {change : State → State} (h : ∀ s, Keeps s (change s)) (f : AnswerFields) : Sound (acceptDone change f) := by
  intro c r e
  cases e
  exact h

theorem forWindow {src : Source} {f : Window → Verdict} (h : ∀ w, Sound (f w)) : Sound (forWindow src f) := by
  unfold Machine.forWindow
  split
  · exact refuse _
  · exact h _

/-! ### The changes that owners make -/

theorem applyReceive (k : StockKind) (f c : Nat) (rs : List Run) (s : State) : Keeps s (applyReceive k f c rs s) :=
  ((onStock s _).trans (onCounters _ _ _)).trans (give _ _)

theorem applyLoad (l : Lane) (k : StockKind) (f c : Nat) (s : State) : Keeps s (applyLoad l k f c s) :=
  (withStall l s (((onStock s _).trans (setMag _ _ _)).trans (give _ _))).trans (trySend l _)

theorem applyUnload (l : Lane) (m : Loaded) (rs : List Run) (s : State) : Keeps s (applyUnload l m rs s) :=
  withStall l s (((onStock s _).trans (setMag _ _ _)).trans (give _ _))

theorem applyOfficeOpen (b : OpenBody) (r : LinkRate) (s : State) : Keeps s (applyOfficeOpen b r s) :=
  (((onOffice s _).trans (onStock _ _)).trans (give _ _)).trans
    (forLanes (fun l s => ite (fun _ => toStarting l _ s) fun _ => refl s) _)

theorem applyDayClose (s : State) : Keeps s (applyDayClose s) := by
  simp only [Machine.applyDayClose]
  have h1 : ∀ v : State, Keeps v { v with lanes := v.lanes.map fun r => { r with act := Activity.zero } } := by
    refine fun v => ⟨rfl, id, id, id, fun g l => ?_, id, id⟩
    show LaneBound (v.lanes.map fun r => { r with act := Activity.zero })[l]
    simp only [Fin.getElem_fin, Vector.getElem_map]
    exact ⟨Nat.zero_le _, Nat.zero_le _, Nat.zero_le _, Nat.zero_le _, Nat.zero_le _, (g l).2.2.2.2.2⟩
  have h2 : ∀ (l : Lane) (v : State), Keeps v (parkDayLane l v) := by
    intro l v
    unfold parkDayLane
    split
    · exact park l _ _ v
    · exact park l _ _ v
    · exact refl v
  exact (((((onIssue s (f := fun i => { i with table := [] }) rfl).trans (h1 _)).trans (forLanes h2 _)).trans (give _ _)).trans
    (onOffice _ _)).trans (onExch _ _)

theorem declareOne (l : Lane) (s : State) (n : Nat) (oc : DeclOutcome) : Keeps s (declareOne l s n oc) := by
  unfold Machine.declareOne
  split
  · exact refl s
  · rename_i d _
    have h0 : Keeps s (dropDoubt d s) := onStock s _
    refine ((h0.trans ?_).trans (give _ (declareEffect d oc (dropDoubt d s)))).trans (testCashUp _ _)
    unfold declareEffect
    split
    · exact ((onIssue _ rfl).trans (onCounters _ _ _)).trans (onDrawer _ d.window
        (f := fun w => ((w.sale d.tender d.charged).countIssued).release d.charged) fun h =>
          ⟨(countIssued (sale h _ _)).1, (countIssued (sale h _ _)).2⟩)
    · exact ((onIssue _ rfl).trans (onCounters _ _ _)).trans (onDrawer _ d.window
        (f := fun w => (w.release d.charged).countSpoilt) fun h => countDrawerSpoilt ⟨h.1, h.2⟩)
    · exact ((onIssue _ rfl).trans (onCounters _ _ _)).trans (onDrawer _ d.window
        (f := fun w => (w.release d.charged).countLost) fun h => countLost ⟨h.1, h.2⟩)

theorem declareAll (l : Lane) (ds : List Declaration) (s : State) : Keeps s (declareAll l ds s) :=
  foldl (fun s d => by
    split
    · exact refl s
    · exact declareOne l s _ _) ds s

theorem applyRealign (l : Lane) (r : Option Nat) (s : State) : Keeps s (applyRealign l r s) := by
  unfold Machine.applyRealign
  split
  · exact refl s
  · exact (realign l _ s).trans (onFeed _ l fun _ => Nat.zero_le _)

theorem applyResume (l : Lane) (s : State) : Keeps s (applyResume l s) := by
  simp only [Machine.applyResume]
  have h : Keeps s (Machine.onRecord l (fun r => { r with active := none }) s) :=
    onRecord s l (f := fun r => { r with active := none }) (fun _ _ h => nomatch h) id
  refine Keeps.trans (t := _) ?_ ((give _ _).trans (toStarting l _ _))
  exact ite (fun _ => h.trans (onAlerts _ _)) fun _ => h

theorem applyFaultClear (l : Lane) (b : ClearBody) (s : State) : Keeps s (applyFaultClear l b s) :=
  withStall l s ((declareAll l b.decls s).trans ((applyRealign l b.realign _).trans
    (ite (fun _ => applyResume l _) fun _ => refl _)))

/-- Records written from index 1 on leave entry 0 (R24). -/
theorem writeDiscount_zero {f : FareUnit} {r : DiscountRec} (h : r.index ≠ 0) :
    (writeDiscount f r).discounts[0] = f.discounts[0] ∧ (writeDiscount f r).fees = f.fees := by
  unfold writeDiscount
  split
  · exact ⟨rfl, rfl⟩
  · rename_i i hi
    refine ⟨?_, rfl⟩
    have hne : (0 : Fin 16) ≠ i := by
      rintro rfl
      unfold toIdx at hi
      split at hi
      · have := congrArg Fin.val (Option.some.inj hi)
        exact h this
      · cases hi
    exact Table.upd_ne _ _ _ _ hne

theorem applyDiscounts {rs : List DiscountRec} (h : ∀ r ∈ rs, r.index ≠ 0) (s : State) : Keeps s (applyDiscounts rs s) := by
  have e : ∀ (rs : List DiscountRec) (f : FareUnit), (∀ r ∈ rs, r.index ≠ 0) →
      (rs.foldl writeDiscount f).discounts[0] = f.discounts[0] ∧ (rs.foldl writeDiscount f).fees = f.fees := by
    intro rs
    induction rs with
    | nil => exact fun f _ => ⟨rfl, rfl⟩
    | cons r rs ih =>
      intro f hf
      have h1 := writeDiscount_zero (f := f) (hf r List.mem_cons_self)
      have h2 := ih (writeDiscount f r) fun q hq => hf q (List.mem_cons_of_mem _ hq)
      exact ⟨h2.1.trans h1.1, h2.2.trans h1.2⟩
  refine ⟨rfl, fun g => ⟨(e rs s.fare h).1.trans g.1, g.2.1, ?_⟩, id, id, id, id, id⟩
  show (rs.foldl writeDiscount s.fare).fees[3] = 0
  rw [(e rs s.fare h).2]
  exact g.2.2

theorem applyFees (ps : List (Nat × Nat)) (s : State) : Keeps s { s with fare := feesAfter ps s.fare } := by
  have e : ∀ (ps : List (Nat × Nat)) (f : FareUnit), (feesAfter ps f).discounts = f.discounts ∧
      (feesAfter ps f).fees[3] = f.fees[3] := by
    intro ps
    induction ps with
    | nil => exact fun f => ⟨rfl, rfl⟩
    | cons p ps ih =>
      intro f
      have h1 : (writeFee f p).discounts = f.discounts ∧ (writeFee f p).fees[3] = f.fees[3] := by
        unfold writeFee
        split
        · exact ⟨rfl, rfl⟩
        · split
          · exact ⟨rfl, rfl⟩
          · rename_i i _ hi
            have hne : (3 : Fin 4) ≠ i := fun h => hi (by rw [← h]; rfl)
            exact ⟨rfl, Table.upd_ne _ _ _ _ hne⟩
      exact ⟨(ih _).1.trans h1.1, (ih _).2.trans h1.2⟩
  refine ⟨rfl, fun g => ⟨?_, g.2.1, (e ps s.fare).2.trans g.2.2⟩, id, id, id, id, id⟩
  show (feesAfter ps s.fare).discounts[0] = fullFare
  rw [(e ps s.fare).1]
  exact g.1

theorem applyLayout (n : Nat) (fs : List LayoutField) (s : State) : Keeps s (s.onIssue (writeLayout n fs)) := by
  refine ⟨rfl, fun g => ⟨g.1, ?_, g.2.2⟩, id, id, id, id, id⟩
  show (writeLayout n fs s.issue).layouts[0] = layout0
  unfold writeLayout
  split
  · exact g.2.1
  · split
    · exact g.2.1
    · rename_i k _ hk
      have hne : (0 : Fin 16) ≠ k := fun h => hk (by rw [← h]; rfl)
      exact (Table.upd_ne _ _ _ _ hne).trans g.2.1

theorem applyIssue (o : OrderHdr) (tag : Tag) (w : Window) (l : Lane) (f : IssueFields) (fig : Figures) (items : List Text)
    (b : Buffer) (s : State) : Keeps s (applyIssue o tag w l f fig items b s) :=
  (((onIssue s rfl).trans (setImage _ _ _)).trans (onDrawer _ w (f := Drawer.liveUp) fun h => ⟨h.1, h.2⟩)).trans
    (joinLane l _ _)

theorem setEntry (k : StockKind) (n : Nat) (st : EntryState) (s : State) : Keeps s (setEntry k n st s) := onIssue s rfl

theorem applyVoid (w : Window) (e : IssueEntry) (s : State) : Keeps s (applyVoid w e s) :=
  (((setEntry _ _ _ s).trans (onDrawer _ w (f := fun d => (d.addVoid e.tender e.charged).countVoided)
    fun h => countVoided (addVoid h _ _))).trans (onCounters _ _ _)).trans (give _ _)

theorem applyRefund (w : Window) (e : IssueEntry) (r a : Nat) (s : State) : Keeps s (applyRefund w e r a s) :=
  ((setEntry _ _ _ s).trans (onDrawer _ w (f := fun d => d.addRefund e.tender a) fun h => addRefund h _ _)).trans (give _ _)

theorem applyShiftOpen (w : Window) (c f : Nat) (h : Lane) (a : Option Lane) (s : State) : Keeps s (applyShiftOpen w c f h a s) :=
  (onDrawer s w (f := fun d => d.openShift c f h a s.office.clock) fun _ =>
    ⟨fun T => by cases T <;> exact ⟨Nat.zero_le _, Nat.zero_le _, Nat.zero_le _⟩, Nat.zero_le _, Nat.zero_le _, Nat.zero_le _,
      Nat.zero_le _⟩).trans (give _ _)

theorem applyCashUp (w : Window) (p : PendingCashUp) (s : State) : Keeps s (applyCashUp w p s) := by
  simp only [Machine.applyCashUp]
  have h : Keeps s (s.onDrawer w fun d => d.beginCashUp p) := onDrawer s w fun h => ⟨h.1, h.2⟩
  exact ite (fun _ => (h.trans (give _ _)).trans (onDrawer _ w (f := Drawer.close) fun h => ⟨h.1, h.2⟩)) fun _ => h

theorem applyWithdraw (w : Window) (s : State) : Keeps s (applyWithdraw w s) := by
  simp only [Machine.applyWithdraw]
  refine Keeps.trans (t := _) ?_ (onDrawer _ w (f := Drawer.withdraw) fun h => ⟨h.1, h.2⟩)
  split
  · exact refl s
  · exact answer _ _ _ _ _ s

theorem writeSnapshot (d : BitVec 64) (n : Nat) (s : State) : Keeps s (writeSnapshot d n s) := by
  simp only [Machine.writeSnapshot]
  refine ite (fun _ => refl s) fun _ => ite (fun _ => (access s).trans (onHost _ rfl)) fun _ => (access s).trans (busFault _)

end Sys2Proof.Machine.Keeps
end

