-- ==== Sys2Proof/Laws/Lanes.lean ====
section
/-! SUPPORT. The operations that touch one lane and nothing else, those of them whose result is the lane's record changed by
one function, and the tests that leave the state as it is. -/

namespace Sys2Proof.Machine

/-- Only the record of lane `l` differs. -/
structure LaneOnly (l : Lane) (s t : State) : Prop where
  rest   : t = { s with lanes := t.lanes }
  others : OtherLanes l s t

namespace LaneOnly

variable {l : Lane} {s t u : State}

theorem refl (l : Lane) (s : State) : LaneOnly l s s := ⟨rfl, fun _ _ => rfl⟩

theorem trans (h : LaneOnly l s t) (g : LaneOnly l t u) : LaneOnly l s u :=
  ⟨by rw [g.rest, h.rest], fun m hm => (g.others m hm).trans (h.others m hm)⟩

/-- A choice between two changes of the lane. -/
theorem ite {p : Prop} [Decidable p] (h : p → LaneOnly l s t) (g : ¬ p → LaneOnly l s u) : LaneOnly l s (if p then t else u) := by
  split
  · exact h ‹_›
  · exact g ‹_›

theorem onLane (l : Lane) (f : LaneRec → LaneRec) (s : State) : LaneOnly l s (s.onLane l f) :=
  ⟨rfl, fun m hm => Table.upd_ne s.lanes l m f hm⟩

theorem onLink (l : Lane) (f : LinkEngine → LinkEngine) (s : State) : LaneOnly l s (s.onLink l f) := onLane l _ s

theorem onFeed (l : Lane) (f : FeedMonitor → FeedMonitor) (s : State) : LaneOnly l s (s.onFeed l f) := onLane l _ s

theorem onAct (l : Lane) (f : Activity → Activity) (s : State) : LaneOnly l s (s.onAct l f) := onLane l _ s

theorem onOut (l : Lane) (b : Buffer) (f : Job → Job) (s : State) : LaneOnly l s (onOut l b f s) := onLane l _ s

theorem beginCarried (l : Lane) (c : Carried) (s : State) : LaneOnly l s (beginCarried l c s) := by
  simp only [Machine.beginCarried]
  split
  · exact (onLink l _ s).trans (onOut l _ _ _)
  · exact onLink l _ s

theorem beginExchange (l : Lane) (f : Frame) (s : State) : LaneOnly l s (beginExchange l f s) := beginCarried l _ s

theorem beginPoll (l : Lane) (s : State) : LaneOnly l s (beginPoll l s) := beginExchange l _ s

theorem pump (l : Lane) (s : State) : LaneOnly l s (pump l s) := by
  unfold Machine.pump
  split
  · split
    · exact refl l s
    · exact (onLink l _ s).trans (beginExchange l _ _)
  · exact refl l s

theorem dropWaiting (l : Lane) (s : State) : LaneOnly l s (dropWaiting l s) := by
  unfold Machine.dropWaiting
  split
  · exact ite (fun _ => onLink l _ s) fun _ => refl l s
  · exact refl l s

theorem clearFlush (l : Lane) (s : State) : LaneOnly l s (clearFlush l s) := onLane l _ s

theorem linkDown (l : Lane) (s : State) : LaneOnly l s (linkDown l s) := (onLink l _ s).trans (clearFlush l _)

theorem linkIdle (l : Lane) (s : State) : LaneOnly l s (linkIdle l s) := (onLink l _ s).trans (clearFlush l _)

theorem linkStart (l : Lane) (s : State) : LaneOnly l s (linkStart l s) :=
  ((onLink l _ s).trans (clearFlush l _)).trans (beginExchange l _ _)

theorem beginLinkStart (l : Lane) (s : State) : LaneOnly l s (beginLinkStart l s) :=
  ite (fun _ => onLink l _ s) fun _ => linkStart l s

theorem requestFlush (l : Lane) (n : Nat) (s : State) : LaneOnly l s (requestFlush l n s) :=
  ite (fun _ => (onLink l _ s).trans (pump l _)) fun _ => refl l s

theorem stallEdge (was : Bool) (l : Lane) (s : State) : LaneOnly l s (stallEdge was l s) :=
  ite (fun _ => onLane l _ s) fun _ => ite (fun _ => onLane l _ s) fun _ => refl l s

theorem delivered (l : Lane) (f : Frame) (s : State) : LaneOnly l s (delivered l f s) := by
  unfold Machine.delivered
  split
  · exact ite (fun _ => refl l s) fun _ => onOut l _ _ s
  · exact onLink l _ s
  · exact refl l s

theorem leaveOut (l : Lane) (b : Buffer) (s : State) : LaneOnly l s (leaveOut l b s) := onLane l _ s

theorem setStep (l : Lane) (x : XStep) (t : Option Nat) (s : State) : LaneOnly l s (setStep l x t s) := onLink l _ s

theorem setPins (l : Lane) (p : Pins) (s : State) : LaneOnly l s (setPins l p s) := onLane l _ s

end LaneOnly

/-! ### The record of a lane after a change -/

/-- The lane itself after a change of its record. -/
@[simp] theorem State.onLane_same (s : State) (l : Lane) (f : LaneRec → LaneRec) : (s.onLane l f).lanes[l] = f s.lanes[l] :=
  Table.upd_same s.lanes l f

/-- Another lane after a change of a lane's record. -/
theorem State.onLane_ne (s : State) {l m : Lane} (f : LaneRec → LaneRec) (h : m ≠ l) : (s.onLane l f).lanes[m] = s.lanes[m] :=
  Table.upd_ne s.lanes l m f h

/-- Two changes of one lane's record in turn. -/
theorem State.onLane_onLane (s : State) (l : Lane) (f g : LaneRec → LaneRec) : (s.onLane l f).onLane l g = s.onLane l (g ∘ f) := by
  simp [State.onLane, Table.upd]

/-! ### Tests that leave the state as it is -/

/-- Nothing is sent while the sending condition fails (R89). -/
theorem trySend_off {s : State} {l : Lane} (h : canSend s l = false) : trySend l s = s := by
  simp [trySend, h]

/-- An engine that carries or repeats a frame, or does not run, begins no other exchange (R102). -/
theorem pump_off {s : State} {l : Lane} (h : (s.lane l).link.between = false) : pump l s = s := by
  simp [pump, h]

/-- An engine with no waiting frame begins none (R102). -/
theorem pump_none {s : State} {l : Lane} (h : (s.lane l).link.waiting = none) : pump l s = s := by
  simp [pump, h]

/-- A change that neither begins nor ends a stall (R90, R91). -/
theorem stallEdge_same {s : State} {l : Lane} {was : Bool} (h : stalled s l = was) : stallEdge was l s = s := by
  subst h
  cases e : stalled s l <;> simp [stallEdge, e]

/-- The test of the cash-up condition where no cash-up waits (R155). -/
theorem testCashUp_none {s : State} {w : Window} (h : s.till[w].cashUp = none) : testCashUp w s = s := by
  unfold testCashUp
  simp only [h]

/-- The test of the cash-up condition where it does not hold (R155). -/
theorem testCashUp_unsettled {s : State} {w : Window} (h : s.till[w].settled = false) : testCashUp w s = s := by
  simp only [testCashUp, h, Bool.false_eq_true, if_false]
  split <;> rfl

/-- The exchange that stands at a step. -/
theorem exchangeAt_some {s : State} {l : Lane} {x : XStep} {e : Exchange} (h : s.lanes[l].link.exchange = some e)
    (hs : e.step = x) : exchangeAt s l x = some e := by
  unfold exchangeAt State.lane
  rw [h]
  simp [hs]

end Sys2Proof.Machine
end

