-- ==== Sys2Proof/Laws/Stock.lean ====
section
/-! SUPPORT. What the searches of the Office Runs find (R3, R4, R10). -/

namespace Sys2Proof.Machine

/-- The run that is found to hold a range is of the list, of the kind, and has the range inside it. -/
theorem runHolding_some {k : StockKind} {f c : Nat} {rs : List Run} {r : Run} (h : runHolding k f c rs = some r) :
    r ∈ rs ∧ r.kind = k ∧ r.first ≤ f ∧ f + c ≤ r.first + r.count := by
  have g := List.find?_some h
  exact ⟨List.mem_of_find?_eq_some h, of_decide_eq_true g⟩

/-- A range inside some run of its kind is found. -/
theorem runHolding_isSome {k : StockKind} {f c : Nat} {rs : List Run} {r : Run} (hr : r ∈ rs) (hk : r.kind = k)
    (h1 : r.first ≤ f) (h2 : f + c ≤ r.first + r.count) : (runHolding k f c rs).isSome = true := by
  rw [runHolding, List.find?_isSome]
  exact ⟨r, hr, decide_eq_true ⟨hk, h1, h2⟩⟩

/-- The neighbour below is of the list and of the kind, and ends where the range begins. -/
theorem runBefore_some {k : StockKind} {f : Nat} {rs : List Run} {r : Run} (h : runBefore k f rs = some r) :
    r ∈ rs ∧ r.kind = k ∧ r.first + r.count = f := by
  have g := List.find?_some h
  exact ⟨List.mem_of_find?_eq_some h, of_decide_eq_true g⟩

/-- The neighbour above is of the list and of the kind, and begins where the range ends. -/
theorem runAfter_some {k : StockKind} {f : Nat} {rs : List Run} {r : Run} (h : runAfter k f rs = some r) :
    r ∈ rs ∧ r.kind = k ∧ r.first = f := by
  have g := List.find?_some h
  exact ⟨List.mem_of_find?_eq_some h, of_decide_eq_true g⟩

/-- A run placed in sorted position is a permutation of the list with the run. -/
theorem insertSorted_perm (r : Run) : ∀ rs : List Run, (insertSorted r rs).Perm (r :: rs)
  | [] => .refl _
  | a :: as => by
    rw [insertSorted]
    split
    · exact .refl _
    · exact ((insertSorted_perm r as).cons a).trans (.swap r a as)

end Sys2Proof.Machine
end

