-- ==== Sys2Proof/WellFormed.lean ====
section
/-! DEFINITION. Which commands the outside world can send: field widths of the layouts the manual gives, and the ranges
that make a command the event it names. The meanings do not rest on it. -/

namespace Sys2Proof

/-- An attachment length has 16 bits, and what is read of a length 1..1,024 is that many bytes (03, Slot header; R44). -/
def OrderHdr.wf (o : OrderHdr) : Bool :=
  decide (o.attLen < 65536) && match o.att with
    | .error => true
    | .data bs => decide (o.attLen = 0 ∨ 1024 < o.attLen ∨ bs.length = o.attLen)

/-- A name has 12 characters (R1). -/
def KindRec.wf (k : KindRec) : Bool := decide (k.name.length = 12)

/-- The four kind records have names of 12 characters (R171). -/
def OpenBody.wf (b : OpenBody) : Bool := b.kinds.toList.all KindRec.wf

/-- A field of one byte. -/
def isByte (n : Nat) : Bool := decide (n < 256)

/-- A field of four bytes. -/
def isWord (n : Nat) : Bool := decide (n < 4294967296)

/-- The fields of an ISSUE body fit their places, and its area is bytes 16..159 (03, ISSUE order body). -/
def IssueBody.wf (b : IssueBody) : Bool :=
  isByte b.choice && isByte b.kind && isByte b.layout && isByte b.discount && isWord b.adult && isWord b.child &&
    isByte b.na && isByte b.nc && isByte b.tender && isByte b.items && decide (b.area.length = 144)

/-- A sequence byte is 0 or 1 (R101). -/
def seqOk (q : Byte) : Bool := decide (q.toNat ≤ 1)

/-- A reference is 0..47 (R101). -/
def refOk (r : Byte) : Bool := decide (r.toNat < 48)

/-- The command is one that the outside world can send. -/
def Instr.wellFormed : Instr → Bool
  | .officeOpen o b _ => o.wf && b.wf
  | .dayClose o _ => o.wf
  | .setDiscounts o n _ => o.wf && isByte n
  | .setRefundFees o _ _ => o.wf
  | .setLayout o n _ => o.wf && isByte n
  | .stockReceive o _ _ _ _ => o.wf
  | .magazineLoad o _ _ _ _ _ => o.wf
  | .magazineUnload o _ _ => o.wf
  | .laneStart o _ _ => o.wf
  | .lanePark o _ _ => o.wf
  | .faultClear o _ _ => o.wf
  | .shiftOpen o _ _ _ _ _ => o.wf
  | .issue o b _ => o.wf && b.wf
  | .void o _ _ _ => o.wf
  | .refund o _ _ _ _ => o.wf
  | .cashUp o _ _ => o.wf
  | .cashUpWithdraw o _ _ => o.wf
  | .statusRead o _ _ _ => o.wf
  | .unknownOrderKind o c _ => o.wf && !decide (1 ≤ c.toNat ∧ c.toNat ≤ 18)
  | .sweepTimerExpiry => true
  | .sweepRequest _ => true
  | .sweep n _ _ _ => decide (1 ≤ n ∧ n ≤ 6)
  | .areaBaseWrite _ => true
  | .exchangeEnableSet => true
  | .exchangeEnableClear => true
  | .softReset => true
  | .noticeEnableWrite _ _ _ => true
  | .alertClear _ => true
  | .registerWrite off v => decide (off = 0 ∨ v.toNat < 4294967296)
  | .exchangeStart _ _ _ _ => true
  | .powerOn => true
  | .resetLine => true
  | .linkReset => true
  | .backupGoodChange _ => true
  | .startUpEnd => true
  | .officeClockTick => true
  | .queueOccupancySample => true
  | .pollTimerExpiry _ _ => true
  | .lbyRelease _ _ => true
  | .stretchLimit _ _ => true
  | .clearPulseLimit _ _ => true
  | .frameSent _ => true
  | .responseTimeout _ _ _ => true
  | .reportBad _ _ _ => true
  | .malformedReport _ _ _ => true
  | .capacity _ q k _ i _ _ => seqOk q && decide (1 ≤ k.toNat ∧ k.toNat ≤ 4 ∧ i.length ≤ 32)
  | .nothing _ _ _ => true
  | .accepted _ q r _ _ => seqOk q && refOk r
  | .printed _ q r _ _ => seqOk q && refOk r
  | .ejected _ q r _ _ => seqOk q && refOk r
  | .spoiled _ q r c _ _ => seqOk q && refOk r && decide (c = 1)
  | .flushed _ q c _ _ => seqOk q && decide (c.toNat ≤ 4)
  | .jammed _ q _ _ => seqOk q
  | .outOfStock _ q _ _ => seqOk q
  | .step _ _ => true
  | .missedMarkLimit _ _ => true
  | .mark _ _ => true
  | .patienceExpiry _ => true
  | .reportStart _ => true
  | .ldiIdleAfterPulse _ n _ => decide (1 ≤ n ∧ n ≤ 10)

end Sys2Proof
end

