-- ==== Sys2Proof/Tests/Slice0.lean ====
section
/-! SUPPORT. Tests: the manual's worked figures, an ill-formed term for each check of WellFormed, and for every statement
with hypotheses a concrete state and operands that meet them. -/

namespace Sys2Proof.Tests

open Sys2Proof.Machine

-- One theorem at a time: many kernel evaluations side by side take more memory than the checks allow.
set_option Elab.async false

/-! ### Figures the manual works out -/

/-- R99: the check over the nine characters "123456789". -/
theorem test_crc : crc [0x31, 0x32, 0x33, 0x34, 0x35, 0x36, 0x37, 0x38, 0x39] = 0x29B1 := by decide +kernel

/-- 06, one ticket on lane 4: the IMAGE of a job composed with layout 0 has 63 bytes. -/
theorem test_image_length : (imageBytes 5 0 30000100 0 (compose ⟨[], ⟨700, 0, 700, fullFareName⟩, 1, 0,
    List.replicate 12 0x41, 2, 88, 7⟩ layout0)).length = 63 := by decide +kernel

/-- 06, frames: a POLL carrying 1 is flag, type, length 1 and the bit before its check. -/
theorem test_poll_bytes : (pollBytes true).take 5 = [0x96, 0x04, 1, 0, 1] := by decide +kernel

/-- 02, Per-person figures, cases A, B, C, D, E, F, G, H and I. -/
theorem test_per_person :
    discounted ⟨[], 334, 5, 300, true, false⟩ 2385 = 1585 ∧ discounted ⟨[], 500, 10, 300, true, false⟩ 400 = 300 ∧
    discounted ⟨[], 500, 10, 300, true, false⟩ 250 = 250 ∧ discounted ⟨[], 1000, 10, 150, true, false⟩ 900 = 150 ∧
    discounted ⟨[], 655, 10, 345, true, false⟩ 1000 = 345 ∧ discounted ⟨[], 900, 50, 333, true, false⟩ 2000 = 333 ∧
    discounted ⟨[], 0, 50, 0, true, false⟩ 1249 = 1200 ∧ discounted ⟨[], 500, 50, 0, true, false⟩ 60 = 0 ∧
    discounted ⟨[], 250, 5, 500, true, false⟩ 0 = 0 := by decide

/-- 02, Totals, cases 1, 3 and 5. -/
theorem test_totals :
    (fare ⟨[], 334, 5, 300, true, false⟩ 2385 1190 2 1).map Figures.total = some 4360 ∧
    fare fullFare 600000 600000 9 9 = none ∧
    (fare ⟨[], 500, 1, 0, true, true⟩ 600000 600000 9 9).map Figures.total = some 5400000 := by decide

/-- 02, Refund amounts. -/
theorem test_refund_amounts : refundAmount 4360 500 = 3860 ∧ refundAmount 300 500 = 0 ∧ refundAmount 4360 0 = 4360 := by decide

/-- 07, Worked pitch cases, in the order of the table. -/
theorem test_pitch_cases :
    (([(51200, 53640), (64900, 564), (51200, 52000), (10000, 11260), (10000, 11261), (10000, 12340), (65000, 65000)] :
      List (BitVec 16 × BitVec 16)).map fun p => markClass ⟨p.2, some p.1, 9⟩ 1200 60) =
      [.double, .single, .wrong, .single, .wrong, .double, .wrong] ∧ missedLimit 1200 = 3000 := by decide

/-- 03, tags across the wrap: distances from the expected tag 65,534. -/
theorem test_tags_wrap : behind 65535 65534 = false ∧ behind 65534 65534 = false ∧ behind 0 65534 = false ∧
    behind 65533 65534 = true := by decide

/-- 09, Worked cash-up: CASH 20 short within the tolerance of 50, then the variance of 70, and CARD over a LOST blank. -/
theorem test_cash_up_lines :
    cashLine 15000 50 ⟨48720, 1250, 3860⟩ 58590 = ⟨58610, 58590, -20, .within⟩ ∧
    cashLine 15000 50 ⟨48720, 1250, 3860⟩ 58540 = ⟨58610, 58540, -70, .short⟩ ∧
    paperLine ⟨31400, 0, 0⟩ 31400 = ⟨31400, 31400, 0, .balanced⟩ ∧
    paperLine ⟨30210, 0, 0⟩ 31400 = ⟨30210, 31400, 1190, .mismatch⟩ := by decide

/-- No row of the table gives bits: a word spells no command, and the queue stands. -/
theorem test_no_words : decodeTableWord 16 0x1234 = none ∧ State.reset.withFetchWord 16 0x1234 = State.reset := by
  decide +kernel

/-- The state after reset has its ring in canonical form, and no command waits. -/
theorem test_reset : Memory.wf State.reset.host.journal = true ∧ State.reset.pending = [] := ⟨rfl, rfl⟩

/-! ### WellFormed refuses an ill-formed term at each check -/

/-- A header without an attachment. -/
def hdr (i : SlotNo) : OrderHdr := ⟨i, false, false, false, 0, 0, .data []⟩

/-- A header with an attachment. -/
def hdrAtt (i : SlotNo) (bs : List Byte) : OrderHdr := ⟨i, true, false, false, bs.length, 0, .data bs⟩

/-- Four kind records. -/
def kinds4 : Table 4 KindRec :=
  #v[⟨List.replicate 12 0x41, 1000, 50⟩, ⟨List.replicate 12 0x42, 1200, 60⟩, ⟨List.replicate 12 0x43, 100, 1⟩,
    ⟨List.replicate 12 0x44, 4000, 1000⟩]

/-- The body of an OFFICE OPEN. -/
def openBody : OpenBody := ⟨88, 50, 99, some .r2M, 0, 3, 5, kinds4⟩

/-- The body of an ISSUE of two adults with one text item. -/
def issueBody (choice : Nat) : IssueBody :=
  ⟨choice, 0, 0, 0, 700, 350, 2, 1, 1, 1, [2, 0x41, 0x42] ++ List.replicate 141 0⟩

/-- Well-formed commands, one of each check. -/
theorem test_wellformed_accepts :
    (Instr.setDiscounts (hdrAtt 0 [1]) 1 Env.quiet).wellFormed = true ∧
    (Instr.officeOpen (hdr 0) openBody Env.quiet).wellFormed = true ∧
    (Instr.issue (hdr 0) (issueBody 16) Env.quiet).wellFormed = true ∧
    (Instr.capacity 3 1 4 64 [] ⟨false, false⟩ none).wellFormed = true ∧
    (Instr.spoiled 3 1 47 1 ⟨false, false⟩ none).wellFormed = true := by decide +kernel

/-- Attachment length and bytes, name length, field widths, the area, and a kind code of a known kind. -/
theorem test_wellformed_orders :
    (Instr.dayClose ⟨0, true, false, false, 65536, 0, .error⟩ Env.quiet).wellFormed = false ∧
    (Instr.dayClose ⟨0, true, false, false, 5, 0, .data [1]⟩ Env.quiet).wellFormed = false ∧
    (Instr.officeOpen (hdr 0) { openBody with kinds := kinds4.upd 2 fun k => { k with name := [0x41] } }
      Env.quiet).wellFormed = false ∧
    (Instr.setDiscounts (hdr 0) 256 Env.quiet).wellFormed = false ∧
    (Instr.issue (hdr 0) { issueBody 16 with adult := 4294967296 } Env.quiet).wellFormed = false ∧
    (Instr.issue (hdr 0) { issueBody 16 with area := [] } Env.quiet).wellFormed = false ∧
    (Instr.unknownOrderKind (hdr 0) 18 Env.quiet).wellFormed = false := by decide +kernel

/-- The number of sweep steps, a register's width, the ranges of the report fields and of the clear pulses. -/
theorem test_wellformed_events :
    (Instr.sweep 7 0 (Vector.replicate 64 Header.zero) ⟨none, none⟩).wellFormed = false ∧
    (Instr.registerWrite 0x08 0x100000000).wellFormed = false ∧
    (Instr.capacity 3 1 5 64 [] ⟨false, false⟩ none).wellFormed = false ∧
    (Instr.accepted 3 2 5 ⟨false, false⟩ none).wellFormed = false ∧
    (Instr.accepted 3 1 48 ⟨false, false⟩ none).wellFormed = false ∧
    (Instr.spoiled 3 1 5 2 ⟨false, false⟩ none).wellFormed = false ∧
    (Instr.flushed 3 1 5 ⟨false, false⟩ none).wellFormed = false ∧
    (Instr.ldiIdleAfterPulse 3 11 none).wellFormed = false := by decide +kernel

/-! ### A concrete office -/

/-- The OPEN office of day 88, the exchange RUNNING between sweeps, an empty ring of 256 entries. -/
def office : State :=
  { State.reset with
    stock := { State.reset.stock with kinds := kinds4 }
    journal := { State.reset.journal with n := 256, release := some 0, holding := [] }
    office := { State.reset.office with opened := true, day := 88, settings := ⟨50, 30, .r1M, 5, 20, 100⟩, clock := 7 }
    exch := { State.reset.exch with
      areaBase := 0x100000, enable := true, state := .running, latchedCount := 256, latchedOffset := 20480 } }

/-- The same office, CLOSED. -/
def closedOffice : State := office.onOffice fun r => { r with opened := false }

/-- The sweep that offers the slot to its source at its expected tag. -/
def offering (i : SlotNo) (src : Source) (s : State) : Sweep :=
  { Sweep.fresh with
    step := 7
    headers := Sweep.fresh.headers.upd i fun _ => ⟨1, BitVec.ofNat 8 src.val, 0, s.exch.tags[src]⟩
    remaining := [src]
    offered := some i }

/-- The sweep in progress offers the slot, POSTED by the source. -/
def offer (i : SlotNo) (src : Source) (s : State) : State :=
  { s with
    exch := { s.exch with sweep := some (offering i src s) }
    host := { s.host with slots := s.host.slots.upd i fun h => { h with state := 1 } } }

/-- An offered order of a RUNNING exchange. -/
theorem offers {i : SlotNo} {src : Source} {s : State} {tag : Tag} (hr : s.exch.state = .running)
    (hb : s.host.busIn = none) (ht : s.exch.tags[src] = tag) : Offers (offer i src s) i src tag := by
  refine ⟨hr, hb, _, rfl, rfl, ?_, ?_⟩ <;> simp only [offering, Table.upd_same]
  · simp; omega
  · exact ht

/-- An offered order of the OPEN office with the gate OPEN. -/
theorem takeable {i : SlotNo} {src : Source} {s : State} {tag : Tag} (hr : s.exch.state = .running)
    (hb : s.host.busIn = none) (ht : s.exch.tags[src] = tag) (hg : s.journal.closed = false)
    (ho : s.office.opened = true) : Takeable (offer i src s) i src tag :=
  ⟨offers hr hb ht, hg, ho⟩

/-- A lane in a state, its engine RUNNING, the credits its jobs leave. -/
def up (st : LaneState) (r : LaneRec) : LaneRec :=
  { r with
    state := st, cap := some 4, credits := 4 - r.out.length, pins := ⟨false, false⟩
    link := { LinkEngine.reset with phase := .running, rate := .r1M } }

/-- A lane PRINTING with these jobs out. -/
def printing (js : List Job) (r : LaneRec) : LaneRec := up .printing { r with out := js }

/-- A lane with its Link Engine changed. -/
def onEngine (f : LinkEngine → LinkEngine) (r : LaneRec) : LaneRec := { r with link := f r.link }

/-- A job of window 2 for lane 3. -/
def job (b : Buffer) (st : JobState) (n : Option Nat) (d : Delivery) : Job :=
  { slot := ⟨10 + b.val % 32, by omega⟩, window := 2, tag := 5, shift := 1, lane := 3, kind := 0, tender := .cash, pAdult := 700
    pChild := 0, total := 700, discount := fullFareName, retry := true, movable := true, buffer := b, serial := n, attempt := 1
    spoilt := [], state := st, joinNo := BitVec.ofNat 32 b.val, delivery := d }

/-- A queued job. -/
def waitingJob : Job := job 5 .queued none (.carrying false)

/-- A job out. -/
def jobOut (b : Buffer) (st : JobState) (n : Nat) (d : Delivery) : Job := job b st (some n) d

/-- Window 2's shift, with a home and an alternate lane. -/
def shift : Drawer := { Drawer.empty with state := .opened, clerk := 9, shift := 1, float := 5000, home := 3, alt := some 4 }

/-- A magazine of kind 0. -/
def mag0 : Loaded := ⟨0, 5000, 5010, 5099⟩

/-- Window 2's shift open, and lane 3 as given. -/
def lane3 (m : Option Loaded) (f : LaneRec → LaneRec) : State :=
  ((office.setMag 3 m).onLane 3 f).onDrawer 2 fun _ => shift

/-- Runs of two kinds. -/
def runs1 : List Run := [⟨0, 100, 50⟩, ⟨0, 200, 100⟩, ⟨1, 7, 3⟩]

/-- An office with those runs. -/
def stocked (s : State) : State := s.onStock fun r => { r with runs := runs1 }

/-- 10, the gate closes and opens: at the head 200 with the Release Word 10 the first entry leaves 64 places and the gate
OPEN, the second 63 and the gate CLOSED; at 255 the head wraps and the pass count rises. -/
theorem test_gate :
    ∃ s, s = office.onJournal (fun r => { r with head := 200, release := some 10, pass := 3, seq := 50000 }) ∧
      (give (.dayClose 1) s).journal.closed = false ∧ (giveAll [.dayClose 1, .dayClose 1] s).journal.closed = true ∧
      (giveAll [.dayClose 1, .dayClose 1] s).journal.seq = 50002 ∧
      ((give (.dayClose 1) (s.onJournal fun r => { r with head := 255 })).journal.head,
        (give (.dayClose 1) (s.onJournal fun r => { r with head := 255 })).journal.pass) = (0, 4) :=
  ⟨_, rfl, by decide +kernel⟩

/-! ### Witnesses: orders of stock, office, fares and layouts -/

/-- Of StockOrdersDone, a receive: the first serial there is, and a range that joins two runs. -/
theorem witness_StockOrdersDone_receive :
    (Takeable (offer 0 12 office) 0 12 0 ∧ overlaps (offer 0 12 office) 0 1 1 = false ∧
      mergeRun 0 1 1 (offer 0 12 office).stock.runs = some [⟨0, 1, 1⟩]) ∧
    Takeable (offer 0 12 (stocked office)) 0 12 0 ∧ overlaps (offer 0 12 (stocked office)) 0 150 50 = false ∧
      (offer 0 12 (stocked office)).stock.counters[0].received + 50 ≤ 4294967295 ∧
      mergeRun 0 150 50 (stocked office).stock.runs = some [⟨0, 100, 200⟩, ⟨1, 7, 3⟩] :=
  ⟨⟨takeable rfl rfl rfl rfl rfl, by decide +kernel⟩, takeable rfl rfl rfl rfl rfl, by decide +kernel⟩

/-- Of StockOrdersDone, a load: an OFF lane and the middle of a run; a READY lane with a job in its queue and a whole run. -/
theorem witness_StockOrdersDone_load :
    (Takeable (offer 0 12 (stocked office)) 0 12 0 ∧ (stocked office).lanes[3].state = .off ∧
      (stocked office).stock.mags[3] = none ∧ (∀ j ∈ (stocked office).lanes[3].queue, j.kind = 0) ∧
      runHolding 0 210 20 (stocked office).stock.runs = some ⟨0, 200, 100⟩ ∧ ¬ 32 ≤ (stocked office).stock.runs.length) ∧
    ∃ s, s = stocked (lane3 none fun r => up .ready { r with queue := [waitingJob], patience := some 30 }) ∧
      Takeable (offer 0 12 s) 0 12 0 ∧ (s.lanes[3].state = .ready ∧ s.lanes[3].out = []) ∧ s.stock.mags[3] = none ∧
      (∀ j ∈ s.lanes[3].queue, j.kind = 0) ∧ runHolding 0 200 100 s.stock.runs = some ⟨0, 200, 100⟩ :=
  ⟨⟨takeable rfl rfl rfl rfl rfl, by decide +kernel⟩, _, rfl, takeable rfl rfl rfl rfl rfl, by decide +kernel⟩

/-- Of StockOrdersDone, an unload: a magazine with blanks left, and a spent one. -/
theorem witness_StockOrdersDone_unload :
    (∃ s, s = stocked (lane3 (some mag0) id) ∧ Takeable (offer 0 12 s) 0 12 0 ∧ s.lanes[3].out = [] ∧
      (∀ d ∈ s.stock.doubts, d.lane ≠ 3) ∧ s.stock.mags[3] = some mag0 ∧ mag0.last + 1 - mag0.next ≠ 0 ∧
      mergeRun 0 5010 90 s.stock.runs = some [⟨0, 100, 50⟩, ⟨0, 200, 100⟩, ⟨0, 5010, 90⟩, ⟨1, 7, 3⟩]) ∧
    ∃ s, s = stocked (lane3 (some { mag0 with next := 5100 }) id) ∧ Takeable (offer 0 12 s) 0 12 0 ∧ s.lanes[3].out = [] ∧
      (∀ d ∈ s.stock.doubts, d.lane ≠ 3) ∧ s.stock.mags[3] = some { mag0 with next := 5100 } ∧ 5099 + 1 - 5100 = 0 :=
  ⟨⟨_, rfl, takeable rfl rfl rfl rfl rfl, by decide +kernel⟩, _, rfl, takeable rfl rfl rfl rfl rfl, by decide +kernel⟩

/-- Of OfficeOrdersDone, an OFFICE OPEN. -/
theorem witness_OfficeOrdersDone_open :
    Offers (offer 0 12 closedOffice) 0 12 0 ∧ closedOffice.journal.closed = false ∧ closedOffice.office.opened = false ∧
    openBody.rate = some .r2M ∧ 1 ≤ openBody.day ∧ openBody.day ≤ 65535 ∧ openBody.tolerance ≤ 99999 ∧
    (∀ k : StockKind, openBody.kinds[k].name.length = 12 ∧ 100 ≤ openBody.kinds[k].pitch ∧ openBody.kinds[k].pitch ≤ 4000 ∧
      1 ≤ openBody.kinds[k].tol ∧ openBody.kinds[k].tol ≤ openBody.kinds[k].pitch / 4) :=
  ⟨offers rfl rfl rfl, by decide +kernel⟩

/-- Of OfficeOrdersDone, a DAY CLOSE. -/
theorem witness_OfficeOrdersDone_close :
    Takeable (offer 0 12 office) 0 12 0 ∧ (∀ w : Window, office.till[w].state = .none) ∧
    (∀ l : Lane, office.lanes[l].queue = [] ∧ office.lanes[l].out = []) ∧ office.stock.doubts = [] :=
  ⟨takeable rfl rfl rfl rfl rfl, by decide +kernel⟩

/-- A discount record of 24 bytes. -/
def discountBytes (index rate : Nat) : List Byte :=
  [BitVec.ofNat 8 index] ++ List.replicate 12 0x41 ++ [3] ++ leBytes 2 rate ++ leBytes 4 99999 ++ [50, 0, 0, 0]

/-- Of TableOrdersDone, SET DISCOUNTS: two records, one with a rate above 1,000. -/
theorem witness_TableOrdersDone_discounts :
    ∃ bs, bs = discountBytes 15 1200 ++ discountBytes 1 1000 ∧ Takeable (offer 0 12 office) (hdrAtt 0 bs).slot 12 0 ∧
      (hdrAtt 0 bs).attached = true ∧ 1 ≤ (hdrAtt 0 bs).attLen ∧ (hdrAtt 0 bs).attLen ≤ 1024 ∧ (hdrAtt 0 bs).att = .data bs ∧
      24 * 2 ≤ bs.length ∧
      (∀ r ∈ discountRecs 2 bs, 1 ≤ r.index ∧ r.index ≤ 15 ∧ (r.step = 1 ∨ r.step = 5 ∨ r.step = 10 ∨ r.step = 50) ∧
        r.min ≤ 99999) ∧ ((discountRecs 2 bs).map DiscountRec.index).Nodup :=
  ⟨_, rfl, takeable rfl rfl rfl rfl rfl, by decide +kernel⟩

/-- Of TableOrdersDone, SET REFUND FEES: three pairs, reason 3 with the fee 0. -/
theorem witness_TableOrdersDone_fees :
    ∃ ps : List (Nat × Nat), ps = [(0, 99999), (3, 0), (1, 0)] ∧ Takeable (offer 0 12 office) 0 12 0 ∧ 1 ≤ ps.length ∧
      ps.length ≤ 4 ∧ (∀ p ∈ ps, p.1 ≤ 3 ∧ p.2 ≤ 99999) ∧ (ps.map Prod.fst).Nodup ∧ ∀ p ∈ ps, p.1 = 3 → p.2 = 0 :=
  ⟨_, rfl, takeable rfl rfl rfl rfl rfl, by decide +kernel⟩

/-- Of TableOrdersDone, SET LAYOUT: two fields at the ends of their ranges. -/
theorem witness_TableOrdersDone_layout :
    ∃ (bs : List Byte) (fs : List LayoutField), bs = [2, 15, 63, 40, 0, 21, 14, 0, 1, 1, 0] ∧
      fs = [⟨15, 63, 40, false, .issueTime⟩, ⟨14, 0, 1, true, .text 0⟩] ∧ Takeable (offer 0 12 office) (hdrAtt 0 bs).slot 12 0 ∧
      (hdrAtt 0 bs).attached = true ∧ 1 ≤ (hdrAtt 0 bs).attLen ∧ (hdrAtt 0 bs).attLen ≤ 1024 ∧ (hdrAtt 0 bs).att = .data bs ∧
      1 + 5 * fs.length ≤ bs.length ∧ (byteAt bs 0).toNat = fs.length ∧ (layoutRecs 2 bs).map layoutFieldOf = fs.map some ∧
      ∀ r ∈ layoutRecs 2 bs, r.row ≤ 15 ∧ r.col ≤ 63 ∧ 1 ≤ r.width ∧ r.width ≤ 40 ∧ r.size ≤ 1 ∧ ¬ (r.size = 1 ∧ r.row = 15) :=
  ⟨_, _, rfl, rfl, takeable rfl rfl rfl rfl rfl, by decide +kernel⟩

/-! ### Witnesses: orders of the windows -/

/-- Window 2 offers an order, lane 3 READY with a loaded magazine. -/
def selling : State := lane3 (some mag0) (up .ready)

/-- The figures of the test ISSUE. -/
def figures : Figures := ⟨700, 350, 1750, fullFareName⟩

/-- Of IssueTaken: lane 3 named, and a full table with an entry of no current shift. -/
theorem witness_IssueTaken :
    (∃ s, s = offer 9 2 selling ∧ Takeable s (hdr 9).slot (Fin.castSucc 2) 0 ∧ (hdr 9).attached = false ∧
      s.till[2].state = .opened ∧ issueFields (issueBody 3) = some ⟨.lane 3, 0, 0, 0, 700, 350, 2, 1, .card⟩ ∧
      textItems 1 (issueBody 3).area = some [[0x41, 0x42]] ∧ s.lanes[3].state = .ready ∧
      (∃ m, s.stock.mags[3] = some m ∧ m.kind = 0) ∧ fare s.fare.discounts[0] 700 350 2 1 = some figures ∧
      s.issue.table.length + s.issue.reserved < 4096 ∧ pickBuffer s 3 = some 0) ∧
    ∃ s, s = offer 9 2 (selling.onIssue fun r => { r with table := [⟨0, 1, 1, 1, .cash, 3, .issued⟩], reserved := 4095 }) ∧
      Takeable s (hdr 9).slot (Fin.castSucc 2) 0 ∧
      issueFields (issueBody 16) = some ⟨.home, 0, 0, 0, 700, 350, 2, 1, .card⟩ ∧ s.till[2].home = 3 ∧
      (∃ e ∈ s.issue.table, s.till[e.window].state = .none ∨ s.till[e.window].shift ≠ e.shift) ∧ pickBuffer s 3 = some 0 := by
  refine ⟨⟨_, rfl, takeable rfl rfl rfl rfl rfl, by decide +kernel, by decide +kernel, by decide +kernel, by decide +kernel,
    by decide +kernel, ⟨mag0, by decide +kernel⟩, by decide +kernel⟩, _, rfl, takeable rfl rfl rfl rfl rfl, by decide +kernel⟩

/-- A ticket of window 2's shift. -/
def ticket : IssueEntry := ⟨0, 5001, 2, 1, .card, 900, .issued⟩

/-- Window 2 offers an order and has sold that ticket; the fees are 100, 900, 901 and 0. -/
def sold : State :=
  { selling.onIssue fun r => { r with table := [⟨1, 5001, 2, 1, .card, 900, .issued⟩, ticket] } with
    fare := { selling.fare with fees := #v[100, 900, 901, 0] } }

/-- Of TicketOrdersDone. -/
theorem witness_TicketOrdersDone :
    ∃ s, s = offer 9 2 sold ∧ Takeable s 9 (Fin.castSucc 2) 0 ∧ s.till[2].state = .opened ∧
      s.issue.table.find? (fun x => decide (x.kind = 0 ∧ x.serial = 5001)) = some ticket ∧ ticket.state = .issued ∧
      ticket.window = 2 ∧ ticket.shift = s.till[2].shift :=
  ⟨_, rfl, takeable rfl rfl rfl rfl rfl, by decide +kernel⟩

/-- Of DrawerOrdersDone, a SHIFT OPEN: a window without a drawer, home lane 7 and none beside it. -/
theorem witness_DrawerOrdersDone_open :
    Takeable (offer 0 11 office) 0 (Fin.castSucc 11) 0 ∧ office.till[11].state = .none ∧ (none : Option Lane) ≠ some 7 :=
  ⟨takeable rfl rfl rfl rfl rfl, by decide +kernel⟩

/-- Window 2's drawer with the figures of 09, Worked cash-up. -/
def counting (live suspense : Nat) (st : DrawerState) (c : Option PendingCashUp) : State :=
  office.onDrawer 2 fun d => { d with
    state := st, shift := 22, float := 15000, live := live, suspense := suspense, cashUp := c
    acc := ⟨⟨48720, 1250, 3860⟩, ⟨31400, 0, 0⟩, ⟨0, 0, 0⟩, ⟨0, 0, 0⟩⟩ }

/-- The amounts declared in 09, Worked cash-up. -/
def declared : ByTender Nat := ⟨58590, 31400, 0, 0⟩

/-- Of CashUpCompletes and DrawerOrdersDone, with a live job and with suspense. -/
theorem witness_CashUpCompletes_DrawerOrdersDone :
    (∀ T : Tender, declared.get T ≤ 99999999999) ∧
    (∃ s, s = counting 0 0 .opened none ∧ Takeable (offer 0 2 s) 0 (Fin.castSucc 2) 0 ∧ s.till[2].state = .opened ∧
      s.till[2].live = 0 ∧ s.till[2].suspense = 0) ∧
    (∃ s, s = counting 1 0 .opened none ∧ Takeable (offer 0 2 s) 0 (Fin.castSucc 2) 0 ∧ s.till[2].state = .opened ∧
      s.till[2].live ≠ 0) ∧
    ∃ s, s = counting 0 1190 .opened none ∧ Takeable (offer 0 2 s) 0 (Fin.castSucc 2) 0 ∧ s.till[2].state = .opened ∧
      s.till[2].suspense ≠ 0 :=
  ⟨fun T => by cases T <;> decide, ⟨_, rfl, takeable rfl rfl rfl rfl rfl, by decide +kernel⟩,
    ⟨_, rfl, takeable rfl rfl rfl rfl rfl, by decide +kernel⟩, _, rfl, takeable rfl rfl rfl rfl rfl, by decide +kernel⟩

/-- Of DrawerOrdersDone, a withdrawal by the window and by the supervisor, and of StatusReadDone. -/
theorem witness_DrawerOrdersDone_withdraw_StatusReadDone :
    ∃ s p, s = counting 0 1190 .closing (some p) ∧ p = ⟨5, 3, declared⟩ ∧ Offers (offer 0 2 s) 0 2 0 ∧
      Offers (offer 0 12 s) 0 12 0 ∧ s.office.opened = true ∧ s.till[2].state = .closing ∧ s.till[2].cashUp = some p ∧
      p.slot ≠ 0 ∧ (2 : Source) = Fin.castSucc (2 : Window) :=
  ⟨_, _, rfl, rfl, offers rfl rfl rfl, offers rfl rfl rfl, by decide +kernel⟩

/-- Of StatusReadDone: an ACTIVE record with a further kind, a CLEAR one, and a lane's pair with one buffer free. -/
theorem witness_StatusReadDone :
    ∃ s, s = offer 0 12 { onRecord 3 (fun r => { r with active := some ⟨.jam, 3, [.protocol], 2⟩ }) (lane3 (some mag0) (up .holding)) with
        images := office.images.upd 38 fun _ => some [] } ∧
      Offers s 0 12 0 ∧ s.faults.recs[3].active = some ⟨.jam, 3, [.protocol], 2⟩ ∧ s.faults.recs[2].active = none ∧
      s.stock.mags[3] = some mag0 ∧ s.stock.mags[2] = none ∧ (s.images[38] ≠ none ∧ s.images[39] = none) :=
  ⟨_, rfl, offers rfl rfl rfl, by decide +kernel⟩

/-- Window 2 CLOSING with the figures of 09 and its cash-up in slot 5. -/
def closing (live suspense : Nat) : State := counting live suspense .closing (some ⟨5, 3, declared⟩)

/-- Of PendingCashUpSettles: a settled CLOSING drawer, RUNNING and HALTED, and drawers that the test leaves as they are. -/
theorem witness_PendingCashUpSettles :
    (∀ x ∈ [ExState.running, .halted], ∃ s, s = (closing 0 0).onExch (fun r => { r with state := x }) ∧
      s.host.busIn = none ∧ s.till[2].cashUp = some ⟨5, 3, declared⟩ ∧ s.till[2].state = .closing ∧ s.till[2].live = 0 ∧
      s.till[2].suspense = 0 ∧ s.exch.state = x) ∧
    (counting 0 0 .opened none).till[2].cashUp = none ∧ (closing 1 0).till[2].live ≠ 0 ∧ (closing 0 1).till[2].suspense ≠ 0 :=
  ⟨fun _ _ => ⟨_, rfl, rfl, rfl, rfl, rfl, rfl, rfl⟩, by decide +kernel⟩

/-! ### Witnesses: orders of the lanes -/

/-- Of LaneOrdersDone: an OFF lane, a PARKED lane, and a HOLDING lane without jobs. -/
theorem witness_LaneOrdersDone :
    (Takeable (offer 0 12 office) 0 12 0 ∧ office.lanes[3].state = .off ∧ office.lanes[3].queue = [] ∧
      office.lanes[3].out = [] ∧ ∀ d ∈ office.stock.doubts, d.lane ≠ 3) ∧
    (∃ s, s = lane3 none (up (.parked .day)) ∧ Takeable (offer 0 12 s) 0 12 0 ∧ s.lanes[3].state = .parked .day) ∧
    ∃ s, s = lane3 none (up .holding) ∧ Takeable (offer 0 12 s) 0 12 0 ∧ s.lanes[3].state = .holding ∧
      s.lanes[3].queue = [] ∧ s.lanes[3].out = [] :=
  ⟨⟨takeable rfl rfl rfl rfl rfl, by decide +kernel⟩, ⟨_, rfl, takeable rfl rfl rfl rfl rfl, by decide +kernel⟩,
    _, rfl, takeable rfl rfl rfl rfl rfl, by decide +kernel⟩

/-- A blank of lane 3 in doubt. -/
def doubt (n : Nat) : DoubtEntry := ⟨0, n, 3, 2, 1, 500, .cash, 4, .fault .jam⟩

/-- Lane 3 HOLDING behind a JAM with two blanks in doubt. -/
def doubtful : State :=
  { (onRecord 3 (fun r => { r with active := some ⟨.jam, 3, [], 2⟩ }) (lane3 (some mag0) (up .holding))).onStock fun r =>
      { r with doubts := [doubt 5003, doubt 5004] } with
    issue := { office.issue with reserved := 2 }
    till := office.till.upd 2 fun _ => { shift with suspense := 1000 } }

/-- A FAULT CLEAR of lane 3 that declares both blanks, realigns and resumes. -/
def clearBody : ClearBody := ⟨3, [⟨5004, some .lost⟩, ⟨5003, some .issued⟩], some 5100, true⟩

/-- Of FaultClearDone, with a realign to the end of the magazine, and of DeclarationSettles. -/
theorem witness_FaultClearDone_DeclarationSettles :
    ∃ s, s = offer 0 12 doubtful ∧ Takeable s 0 12 0 ∧ clearBody.lane = (3 : Lane).val ∧
      (∀ d ∈ clearBody.decls, d.serial ≤ 99999999 ∧ d.outcome ≠ none) ∧ (clearBody.decls.map Declaration.serial).Nodup ∧
      s.lanes[3].state = .holding ∧ (∀ d ∈ clearBody.decls, ∃ e ∈ s.stock.doubts, e.lane = 3 ∧ e.serial = d.serial) ∧
      clearBody.realign = some 5100 ∧ (∀ e ∈ s.stock.doubts, e.lane = 3 → ∃ d ∈ clearBody.decls, d.serial = e.serial) ∧
      s.stock.mags[3] = some mag0 ∧ mag0.next ≤ 5100 ∧ 5100 ≤ mag0.last + 1 ∧ s.host.busIn = none ∧
      s.stock.doubts.find? (fun e => decide (e.lane = 3 ∧ e.serial = 5003)) = some (doubt 5003) :=
  ⟨_, rfl, takeable rfl rfl rfl rfl rfl, by decide +kernel⟩

/-! ### Witnesses: refusals -/

/-- Of SupervisorRefusals: an order of each kind whose second or later check is the first to fail. -/
theorem witness_SupervisorRefusals :
    Takeable (offer 0 12 (stocked office)) 0 12 0 ∧
    firstRefusal [(overlaps (stocked office) 0 149 1, .overlap), (false, .countLimit)] = some OrderOutcome.overlap ∧
    overlaps (stocked office) 0 150 50 = false ∧
    (∃ s, s = lane3 none (up .ready) ∧ Takeable (offer 0 12 s) 0 12 0 ∧
      (s.stock.runs.all fun r => !decide (r.kind = 0 ∧ r.first ≤ 1 ∧ 1 + 1 ≤ r.first + r.count)) = true) ∧
    (discountRecs 2 (discountBytes 15 5 ++ discountBytes 0 5)).any (fun r => decide (r.index = 0)) = true ∧
    (∃ s b, s = doubtful ∧ b = (⟨3, [⟨5004, some .lost⟩], some 5100, true⟩ : ClearBody) ∧ Takeable (offer 0 12 s) 0 12 0 ∧
      (s.stock.doubts.any fun e => decide (e.lane = 3) && b.decls.all fun d => decide (d.serial ≠ e.serial)) = true) ∧
    doubtful.stock.doubts ≠ [] ∧ Offers (offer 0 12 office) 0 12 0 ∧ office.journal.closed = false ∧
    firstRefusal [(office.office.opened, OrderOutcome.notPermitted)] = some .notPermitted :=
  ⟨takeable rfl rfl rfl rfl rfl, by decide +kernel, by decide +kernel,
    ⟨_, rfl, takeable rfl rfl rfl rfl rfl, by decide +kernel⟩, by decide +kernel,
    ⟨_, _, rfl, rfl, takeable rfl rfl rfl rfl rfl, by decide +kernel⟩, by decide +kernel, offers rfl rfl rfl, rfl, rfl⟩

/-- The office of a sale whose image store has only buffers of other lanes left. -/
def crowded : State :=
  { selling with images := Vector.ofFn fun b => if b.val < 32 ∨ b.val = 38 ∨ b.val = 39 then some [] else none }

/-- Of WindowRefusals: an ISSUE refused at each group of checks, one that finds no buffer, a VOID of a ticket of another shift,
and a withdrawal without a pending cash-up. -/
theorem witness_WindowRefusals :
    (∃ s, s = offer 9 2 office ∧ Takeable s 9 (Fin.castSucc 2) 0 ∧ s.till[2].state = .none ∧ (hdr 9).attached = false) ∧
    (∃ s, s = offer 9 2 crowded ∧ Takeable s 9 (Fin.castSucc 2) 0 ∧ s.till[2].state = .opened ∧
      issueFields (issueBody 3) = some ⟨.lane 3, 0, 0, 0, 700, 350, 2, 1, .card⟩ ∧
      textItems 1 (issueBody 3).area = some [[0x41, 0x42]] ∧ s.lanes[3].state = .ready ∧ s.stock.mags[3] = some mag0 ∧
      (fare s.fare.discounts[0] 700 350 2 1).isSome = true ∧ s.issue.table.length + s.issue.reserved < 4096 ∧
      pickBuffer s 3 = none ∧ s.exch.sweep = some (offering 9 2 crowded) ∧
      Fin.castSucc 2 ∉ (offering 9 2 crowded).remaining.tail) ∧
    (∃ s, s = offer 9 2 (lane3 none (up .off)) ∧ Takeable s 9 (Fin.castSucc 2) 0 ∧ s.lanes[3].state = .off) ∧
    (∃ s, s = offer 9 2 (sold.onDrawer 2 fun d => { d with shift := 2 }) ∧ Takeable s 9 (Fin.castSucc 2) 0 ∧
      s.issue.table.find? (fun x => decide (x.kind = 0 ∧ x.serial = 5001)) = some ticket ∧ ticket.shift ≠ s.till[2].shift) ∧
    Takeable (offer 9 2 (closing 1 0)) 9 (Fin.castSucc 2) 0 ∧ (closing 1 0).till[2].state = .closing ∧
    Offers (offer 9 12 office) 9 12 0 ∧ office.till[11].state ≠ .closing :=
  ⟨⟨_, rfl, takeable rfl rfl rfl rfl rfl, rfl, rfl⟩, ⟨_, rfl, takeable rfl rfl rfl rfl rfl, by decide +kernel⟩,
    ⟨_, rfl, takeable rfl rfl rfl rfl rfl, rfl⟩, ⟨_, rfl, takeable rfl rfl rfl rfl rfl, by decide +kernel⟩,
    takeable rfl rfl rfl rfl rfl, rfl, offers rfl rfl rfl, by decide +kernel⟩

/-! ### Witnesses: the machine, resets, lists and the journal -/

/-- The office with a tick waiting and an entry in the ring. -/
def ticking : State :=
  { office with pending := [.officeClockTick], host := { office.host with journal := [(7, ⟨⟨1, 2, .dayClose 3⟩, 4, 5⟩)] } }

/-- Of StepRunsFrontCommand. -/
theorem witness_StepRunsFrontCommand : ticking.pending = [.officeClockTick] ∧ State.reset.pending = [] := ⟨rfl, rfl⟩

/-- Of StepKeepsTablesAndJournal. -/
theorem witness_StepKeepsTablesAndJournal :
    FixedTables ticking ∧ RingForm ticking ∧ GateForm ticking ∧ ∃ t, step ticking = .next t := by
  refine ⟨⟨rfl, rfl, rfl⟩, ?_, fun _ => rfl, _, rfl⟩
  unfold RingForm; decide +kernel

/-- Of StepKeepsCountersBounded. -/
theorem witness_StepKeepsCountersBounded : CountersBounded ticking ∧ ∃ t, step ticking = .next t := by
  refine ⟨⟨?_, ?_, ?_⟩, _, rfl⟩
  · unfold LaneBound; decide +kernel
  · intro w
    refine ⟨fun T => ?_, ?_⟩
    · cases T <;> revert w <;> decide +kernel
    · revert w; decide +kernel
  · intro l a h
    have : ∀ m : Lane, ticking.faults.recs[m].active = none := by decide +kernel
    exact absurd (h.symm.trans (this l)) (Option.some_ne_none a)

/-- An office with a run, lane 3 PRINTING the job SENT with serial 5009 and one job queued, a ticket sold, window 2's cash-up
waiting in slot 20, an answer pending in slot 30, and an order of source 12 offered in slot 3; a tick is next. -/
def keeping : State :=
  let s := lane3 (some mag0) fun r => printing [jobOut 4 .sent 5009 (.carrying true)] { r with queue := [waitingJob] }
  let s := (offer 3 12 s).onDrawer 2 fun d => { d with state := .closing, live := 2, cashUp := some ⟨20, 3, declared⟩ }
  let s := holdAnswer 30 ⟨.done, 6, 1, 7, .none⟩ ([14, 15, 20, 30].foldl (fun s i => openContext i Header.zero none s) s)
  { s with
    pending := [.officeClockTick]
    stock := { s.stock with
      runs := [⟨0, 100, 50⟩], counters := s.stock.counters.upd 0 fun _ => ⟨150, 9, 0, 0, 0⟩ }
    issue := { s.issue with table := [⟨0, 5008, 2, 1, .cash, 700, .issued⟩], reserved := 2 }
    images := (s.images.upd 4 fun _ => some []).upd 5 fun _ => some []
    office := { s.office with flight := [⟨0, 5009, 3, 2, 1, .cash, 700, 5⟩] } }

/-- Of StepKeepsCredits, StepKeepsSlots and StepKeepsStock: that office's credits. -/
theorem witness_StepKeepsCredits : CreditsForm keeping ∧ ∃ t, step keeping = .next t := by
  have hl : ∀ l : Lane, keeping.lanes[l] = if l = 3 then keeping.lanes[(3 : Lane)] else LaneRec.off := by decide +kernel
  refine ⟨⟨fun _ l => ?_, fun h => absurd rfl h, by decide +kernel, by decide +kernel⟩, _, rfl⟩
  rw [hl l]
  split
  · refine ⟨fun h => ?_, fun _ => by decide +kernel, by decide +kernel, by decide +kernel, fun K h => ?_, by decide +kernel,
      by decide +kernel⟩
    · rcases h with h | h | ⟨_, h⟩
      · cases h
      · cases h
      · cases h
    · cases h; decide +kernel
  · refine ⟨fun _ => rfl, ?_, by decide +kernel, fun _ => rfl, fun K h => ?_, by decide +kernel, by decide +kernel⟩
    · decide +kernel
    · cases h

/-- Of StepKeepsSlots: that office's slots. -/
theorem witness_StepKeepsSlots : SlotsForm keeping ∧ heldSlots keeping = [15, 14, 20, 30] := by
  refine ⟨⟨by decide +kernel, by decide +kernel, fun w i hw hi => ?_⟩, by decide +kernel⟩
  cases hw; cases hi; decide +kernel

/-- Of StepKeepsStock: that office's stock. -/
theorem witness_StepKeepsStock : StockForm keeping := by
  have hl : ∀ l : Lane, l ≠ 3 → keeping.lanes[l].out = [] ∧ keeping.stock.mags[l] = none := by decide +kernel
  refine ⟨by unfold RunsForm; decide +kernel, fun l m h => ?_, fun k n => ?_, by decide +kernel, by decide +kernel,
    fun _ => ?_, fun l => ?_⟩
  · by_cases e : l = 3
    · subst e; cases h; decide
    · rw [(hl l e).2] at h; cases h
  · have hm : ((List.finRange 8).countP fun l => keeping.stock.mags[l].any fun m => decide (m.kind = k ∧ m.next ≤ n ∧ n ≤ m.last)) =
        if 0 = k ∧ 5010 ≤ n ∧ n ≤ 5099 then 1 else 0 := by
      have h : ∀ l : Lane, keeping.stock.mags[l] = if l = 3 then some mag0 else none := by decide +kernel
      simp only [h, show List.finRange 8 = [0, 1, 2, 3, 4, 5, 6, 7] by decide, List.countP_cons, List.countP_nil]
      simp [mag0]
    unfold holders
    rw [hm]
    simp only [show keeping.stock.runs = [⟨0, 100, 50⟩] from rfl, show keeping.stock.doubts = [] from rfl,
      show keeping.office.flight = [⟨0, 5009, 3, 2, 1, .cash, 700, 5⟩] from rfl,
      show keeping.issue.table = [⟨0, 5008, 2, 1, .cash, 700, .issued⟩] from rfl, List.countP_cons, List.countP_nil,
      decide_eq_true_eq]
    repeat' split
    all_goals omega
  · have h : ((List.finRange 8).flatMap fun l => keeping.lanes[l].out.map fun j => (j.kind, j.serial)) = [(0, some 5009)] := by
      decide +kernel
    rw [h]
    exact List.Perm.refl _
  · by_cases e : l = 3
    · subst e
      refine ⟨[], [jobOut 4 .sent 5009 (.carrying true)], rfl, by simp, by decide, fun _ => ⟨mag0, rfl, by decide, by decide⟩⟩
    · exact ⟨[], [], (hl l e).1, by simp, by simp, fun h => absurd rfl h⟩

/-- Of ResetLosesAllButRetained. -/
theorem witness_ResetLosesAllButRetained :
    (Instr.softReset, ResetKind.soft) ∈ [(Instr.powerOn, ResetKind.powerOn), (.resetLine, .resetLine), (.softReset, .soft),
      (.linkReset, .linkReset)] := by decide

/-- The office after a reset, its start-up period as given. -/
def starting (u : StartUp) : State := (doReset .soft office).onOffice fun r => { r with startUp := some u }

/-- Of StartUpEnds: a restart of retention KEPT and one of retention LOST. -/
theorem witness_StartUpEnds :
    ((starting ⟨true, false⟩).office.startUp = some ⟨true, false⟩ ∧ (starting ⟨true, false⟩).host.busIn = none ∧
      ¬ (true = true ∧ false = true)) ∧
    (starting ⟨true, true⟩).office.startUp = some ⟨true, true⟩ ∧ (starting ⟨true, true⟩).host.busIn = none := by decide +kernel

/-- Of FareFigures. -/
theorem witness_FareFigures : fullFare.rate ≤ 1000 ∧ fare fullFare 700 350 2 1 = some figures := by decide +kernel

/-- Of RunsMergeAndSplit: a range between two runs, and one that needs a run of its own in a full list. -/
theorem witness_RunsMergeAndSplit_merge :
    (RunsForm runs1 ∧ (∀ n, 150 ≤ n → n < 150 + 50 → ¬ Holds runs1 0 n) ∧
      mergeRun 0 150 50 runs1 = some [⟨0, 100, 200⟩, ⟨1, 7, 3⟩]) ∧
    ∃ rs, rs = (List.range 32).map (fun i => ⟨1, 10 * i, 5⟩) ∧ RunsForm rs ∧ (∀ n, 1 ≤ n → n < 1 + 1 → ¬ Holds rs 0 n) ∧
      mergeRun 0 1 1 rs = none := by
  refine ⟨⟨by unfold RunsForm; decide +kernel, ?_, by decide +kernel⟩, _, rfl, by unfold RunsForm; decide +kernel, ?_,
    by decide +kernel⟩
  · rintro n h1 h2 ⟨r, hr, hk, hf, hl⟩
    simp only [runs1, List.mem_cons, List.not_mem_nil, or_false] at hr
    rcases hr with rfl | rfl | rfl
    · dsimp at hf hl; omega
    · dsimp at hf hl; omega
    · exact absurd hk (by decide)
  · rintro n _ _ ⟨r, hr, hk, _, _⟩
    obtain ⟨i, _, rfl⟩ := List.mem_map.mp hr
    exact (by decide : ¬ (1 : StockKind) = 0) hk

/-- Of RunsMergeAndSplit: the middle of a run and a whole run. -/
theorem witness_RunsMergeAndSplit_take :
    RunsForm runs1 ∧ (⟨0, 200, 100⟩ : Run) ∈ runs1 ∧ 200 ≤ 210 ∧ 210 + 20 ≤ 200 + 100 ∧ 200 ≤ 200 ∧ 200 + 100 ≤ 200 + 100 := by
  unfold RunsForm; decide +kernel

/-- Of RealignLosesBlanks: to next, past it, and to the end. -/
theorem witness_RealignLosesBlanks :
    (lane3 (some mag0) id).host.busIn = none ∧ (lane3 (some mag0) id).stock.mags[3] = some mag0 ∧ mag0.next ≤ 5010 ∧
      mag0.next < 5099 ∧ 5100 ≤ mag0.last + 1 := by decide +kernel

/-- Of ReportsReadBack: a report with a reference, and CAPACITY with an identity text. -/
theorem witness_ReportsReadBack :
    (Report.ejected 1 47).wellFormed = true ∧ (Report.capacity 0 4 64 [0x41]).wellFormed = true := by decide +kernel

/-- Of ImagesAndFrames: 24 fields of 40 characters, which do not fit in one part; a layout of one field; and buffers given from
the shared ones and from the lane's pair. -/
theorem witness_ImagesAndFrames :
    (∃ fs, fs = List.replicate 24 (⟨0, 0, false, false, List.replicate 40 0x41⟩ : ImageField) ∧
      (splitFields 992 fs).1.length = 23 ∧ (splitFields 992 fs).2.length = 1) ∧
    layout0[2]? = some ⟨2, 0, 7, true, .fareTotal⟩ ∧ (12345678901234567890 : Nat) < 10 ^ 20 ∧
    textItems 1 [2, 0x41, 0x42, 9] = some [[0x41, 0x42]] ∧ pickBuffer office 3 = some 0 ∧
    (∃ s, s = { office with images := Vector.ofFn fun b => if b.val < 32 then some [] else none } ∧
      pickBuffer s 3 = some 38) ∧
    ∃ s, s = { office with images := Vector.ofFn fun b => if b.val < 32 ∨ b.val = 38 then some [] else none } ∧
      pickBuffer s 3 = some 39 := by
  refine ⟨⟨_, rfl, by decide +kernel⟩, rfl, by decide, by decide +kernel, by decide +kernel, ⟨_, rfl, by decide +kernel⟩, _, rfl,
    by decide +kernel⟩

/-- Of EntryIsPlaced: a RUNNING exchange with two places left, and a HALTED one with 255 entries held. -/
theorem witness_EntryIsPlaced :
    (∃ s, s = office.onJournal (fun r => { r with head := 254 }) ∧ s.host.busIn = none ∧ s.journal.overflow = [] ∧
      s.exch.state = .running ∧ s.journal.holding = [] ∧ s.journal.release = some 0 ∧
      (s.journal.head + (s.journal.n - 0)) % s.journal.n + 2 ≤ s.journal.n) ∧
    ∃ s, s = (office.onExch fun x => { x with state := .halted }).onJournal
        (fun r => { r with holding := List.replicate 255 ⟨1, 2, .dayClose 3⟩ }) ∧
      s.host.busIn = none ∧ s.journal.overflow = [] ∧ s.exch.state ≠ .running ∧ s.journal.holding.length < 256 :=
  ⟨⟨_, rfl, by decide +kernel⟩, _, rfl, by decide +kernel⟩

/-- Of EntryIsPlaced, a RUNNING exchange: one with no room, its holding queue empty; one with room and an entry waiting; and one
that has read no Release Word. -/
theorem witness_EntryIsPlaced_running :
    ∀ p ∈ [(some 200, 199, 0), (some 0, 3, 1), (none, 0, 0)], ∃ s : State,
      s = office.onJournal (fun r => { r with
        release := p.1, head := p.2.1, holding := List.replicate p.2.2 ⟨1, 2, .dayClose 3⟩ }) ∧
      s.host.busIn = none ∧ s.journal.overflow = [] ∧ s.exch.state = .running ∧
      (s.journal.holding ≠ [] ∨
        (s.journal.release.all fun r => decide (s.journal.n < (s.journal.head + (s.journal.n - r)) % s.journal.n + 2)) = true) ∧
      s.journal.holding.length < 256 := by
  intro p hp
  refine ⟨_, rfl, rfl, rfl, rfl, ?_⟩
  revert hp p; decide +kernel

/-- A line of entries that wait: a SPOILT entry of lane 3 that stands for two, lane 2's place, and a RESTART entry. -/
def waiting : List OverflowItem :=
  [.entry ⟨1, 5, .spoilt 0 90 91 2 3 none .unexpectedFeed⟩, .place 2, .entry ⟨1, 6, .restart .soft true 1 255⟩]

/-- The office with 256 entries held and that line behind them; lane 2's FAULT entry is deferred. -/
def overflowing : State :=
  (office.onJournal fun r => { r with
    holding := List.replicate 256 ⟨1, 2, .dayClose 3⟩, overflow := waiting, closed := true }).onFaults fun _ =>
    ⟨State.reset.faults.recs.upd 2 fun _ => ⟨some ⟨.jam, 3, [], 2⟩, some (.jam, false)⟩, [2]⟩

/-- Of EntriesWait: 256 entries held and nothing behind them; entries to be folded, the first with its count below 65,535;
entries with none of their kind in the line; and a lane with a FAULT entry deferred beside one without. -/
theorem witness_EntriesWait :
    (∃ s, s = office.onJournal (fun r => { r with holding := List.replicate 256 ⟨1, 2, .dayClose 3⟩ }) ∧
      256 ≤ s.journal.holding.length ∧ s.journal.overflow = []) ∧
    overflowing.journal.overflow ≠ [] ∧
    (overflowing.journal.overflow = [] ++ .entry ⟨1, 5, .spoilt 0 90 91 2 3 none .unexpectedFeed⟩ :: waiting.tail) ∧ 2 < 65535 ∧
    (overflowing.journal.overflow = waiting.take 2 ++ .entry ⟨1, 6, .restart .soft true 1 255⟩ :: []) ∧
    (∀ i ∈ waiting.take 2, match i with
      | .entry ⟨_, _, .restart _ _ _ _⟩ => False
      | _ => True) ∧
    (∀ i ∈ waiting, match i with
      | .entry ⟨_, _, .spoilt k _ _ _ l _ _⟩ => ¬ (k = 1 ∧ l = 3)
      | _ => True) ∧
    overflowing.faults.recs[2].deferred ≠ none ∧ overflowing.faults.recs[5].deferred = none := by
  refine ⟨⟨_, rfl, by decide +kernel⟩, by decide +kernel, rfl, by decide, rfl, ?_, ?_, by decide +kernel⟩ <;>
    simp [waiting]

/-- Of SweepDrainsJournal: 256 entries held and three places behind them in a ring with room for 200, its head near the end;
and a reset at the third write. -/
theorem witness_SweepDrainsJournal :
    ∃ s w, s = (overflowing.onJournal fun r => { r with head := 250 }).onExch (fun x => { x with sweep := some w }) ∧
      w = Sweep.fresh ∧ s.exch.state = .running ∧ s.host.busIn = none ∧ s.exch.sweep = some w ∧ w.step = 1 ∧ 1 ≤ s.journal.n ∧
      s.journal.n ≤ 8192 ∧ s.journal.head < s.journal.n ∧ 195 = (195 : BitVec 32).toNat % s.journal.n ∧
      (∀ l : Lane, .place l ∈ s.journal.overflow → s.faults.recs[l].deferred ≠ none) ∧
      (s.journal.overflow.filterMap fun x => match x with
        | .place l => some l
        | .entry _ => none).Nodup ∧
      200 = s.journal.n - 1 - (s.journal.head + (s.journal.n - 195)) % s.journal.n ∧
      min 200 s.journal.holding.length = 200 ∧ min (256 - (s.journal.holding.drop 200).length) 3 = 3 ∧ 2 < 200 := by
  refine ⟨_, _, rfl, rfl, rfl, rfl, rfl, rfl, ?_⟩
  decide +kernel

/-! ### Witnesses: the exchange -/

/-- Of RegisterWritesAndSweepStarts: a Run Control write with SOFT_RESET and one without, and an offset of no register. -/
theorem witness_RegisterWritesAndSweepStarts :
    (3 : BitVec 64).getLsbD 1 = true ∧ (0x71 : BitVec 64).getLsbD 1 = false ∧ 4 ∉ [0x00, 0x08, 0x0C, 0x10, 0x14] := by decide

/-- Of AttentionAndRegisters: a head in its width, and an offset of no register. -/
theorem witness_AttentionAndRegisters : office.journal.head < 65536 ∧ 0x10 ∉ [0x00, 0x08, 0x0C, 0x14, 0x18] := by decide +kernel

/-- Of ExchangeStarts: the smallest and the largest ring, an offset that is none, and an error at the first read. -/
theorem witness_ExchangeStarts :
    (∃ s, s = office.onExch (fun x => { x with state := .starting }) ∧ s.exch.state = .starting ∧ s.office.startUp = none ∧
      s.host.busIn = none ∧ s.exch.stopAtEnd = false) ∧
    (256 : BitVec 32).toNat = 2 ^ 8 ∧ (8192 : BitVec 32).toNat = 2 ^ 13 ∧ 20480 ≤ (20480 : BitVec 32).toNat ∧
    (20480 : BitVec 32).toNat % 4096 = 0 ∧ (20481 : BitVec 32).toNat % 4096 ≠ 0 ∧ ¬ ∀ b, some 0 = some b → 2 ≤ b :=
  ⟨⟨_, rfl, by decide +kernel⟩, by decide, by decide, by decide, by decide, by decide, fun h => absurd (h 0 rfl) (by decide)⟩

/-- Headers of all sources in all states, and marks on every third slot. -/
def someHeaders : Table 64 Header :=
  Vector.ofFn fun i => ⟨BitVec.ofNat 8 (i.val % 5), BitVec.ofNat 8 (i.val % 16), 3, BitVec.ofNat 16 (i.val / 13)⟩

/-- A sweep about to make step `k`, the expected tags at 65,535. -/
def sweeping (k : Nat) : State :=
  office.onExch fun x => { x with
    sweep := some { Sweep.fresh with step := k, headers := someHeaders, marksRead := Vector.ofFn fun i => decide (i.val % 3 = 0) }
    marks := Vector.ofFn fun i => decide (i.val % 3 ≤ 1), tags := Vector.replicate 13 0xFFFF, nextStart := 12
    pendingAns := [(5, ⟨.done, 3, 1, 2, .none⟩), (0, ⟨.done, 3, 2, 2, .none⟩)] }

/-- Of SweepReadsAndAnswers: each of the first five steps has its hypotheses. -/
theorem witness_SweepReadsAndAnswers :
    ∀ k ∈ [1, 2, 3, 4, 5], ∃ w, (sweeping k).exch.sweep = some w ∧ w.step = k ∧ (sweeping k).exch.state = .running ∧
      (sweeping k).host.busIn = none ∧ (sweeping k).journal.holding = [] ∧ (sweeping k).journal.overflow = [] ∧
      ((sweeping k).exch.pendingAns.map Prod.fst).Nodup ∧ (sweeping k).exch.abortDue = true := by
  intro k hk
  refine ⟨_, rfl, rfl, ?_⟩
  revert hk k; decide +kernel

/-- Of SweepReadsAndAnswers, step 5: slot 1 of source 1 behind the expected tag 10, slot 61 of source 13, and slot 0 not POSTED. -/
theorem witness_SweepReadsAndAnswers_stale :
    ∃ s w, s = (sweeping 5).onExch (fun x => { x with tags := Vector.replicate 13 10 }) ∧ s.exch.sweep = some w ∧ w.step = 5 ∧
      (w.headers[1].state = 1 ∧ s.exch.contexts[1] = none ∧ w.headers[1].source.toNat = (1 : Source).val ∧
        32768 ≤ (w.headers[1].tag - s.exch.tags[1]).toNat) ∧
      (w.headers[61].state = 1 ∧ s.exch.contexts[61] = none ∧ 12 < w.headers[61].source.toNat) ∧ w.headers[0].state ≠ 1 :=
  ⟨_, _, rfl, rfl, rfl, by decide +kernel⟩

/-- Of SweepReadsAndAnswers, step 4 of a sweep that is not the first since a reset. -/
theorem witness_SweepReadsAndAnswers_later :
    ∃ s w, s = (sweeping 4).onExch (fun x => { x with abortDue := false }) ∧ s.exch.sweep = some w ∧ w.step = 4 ∧
      s.exch.state = .running ∧ s.host.busIn = none ∧ s.exch.abortDue = false ∧ w.headers[2].state = 2 :=
  ⟨_, _, rfl, rfl, rfl, by decide +kernel⟩

/-- Of SweepReadsAndAnswers, the steps: a sweep in progress, one whose sixth step waits, and none. -/
theorem witness_SweepReadsAndAnswers_steps :
    (sweeping 1).host.busIn = none ∧ (∃ w, (sweeping 7).exch.sweep = some w ∧ 7 ≤ w.step) ∧ office.exch.sweep = none :=
  ⟨rfl, ⟨_, rfl, by decide⟩, rfl⟩

/-- The sweep about to serve, its expected tags 0, so that tag 0 of source 1 in slot 1 is offered. -/
def serving (tag : Tag) : State := (sweeping 6).onExch fun x => { x with tags := Vector.replicate 13 tag }

/-- Of SweepOffersInRotation: no slot behind, slot 1 the first at its source's expected tag from source 12 on; and with other
tags none at its expected tag. -/
theorem witness_SweepOffersInRotation :
    ((∀ (i : SlotNo) (v : Source), (postedHeader (serving 0) i).all (fun h => decide (headerSource h ≠ some v) ||
        !behind h.tag (serving 0).exch.tags[v]) = true) ∧ (1 : Source) = (serving 0).exch.nextStart + Fin.ofNat 13 2 ∧
      (∀ m, m < 2 → ∀ j, slotAtTag (serving 0) ((serving 0).exch.nextStart + Fin.ofNat 13 m) j = false) ∧
      slotAtTag (serving 0) 1 1 = true ∧ ∀ j, j < 1 → slotAtTag (serving 0) 1 j = false) ∧
    ∀ v j, slotAtTag (serving 0xFFFF) v j = false := by
  decide +kernel

/-- A command whose next state passes a test. -/
theorem next_of {c : Instr} {s : State} {p : State → Bool}
    (h : (match exec c s with | .next t => p t | _ => false) = true) : ∃ t, exec c s = .next t ∧ p t = true := by
  cases e : exec c s <;> rw [e] at h
  · exact ⟨_, rfl, h⟩
  · exact absurd h Bool.false_ne_true
  · exact absurd h Bool.false_ne_true

/-- Of AccessErrorsAndResetsInTake, the TAKEN write and the resets: an order that its take answers DONE, and a CASH-UP that stays TAKEN. -/
theorem witness_AccessErrorsAndResetsInTake_order :
    (∃ s, s = offer 0 12 office ∧ Offers s (hdr 0).slot 12 0 ∧ s.host.slots[0].state = 1 ∧ s.exch.stopAtEnd = false ∧
      orderParts (.stockReceive (hdr 0) 0 1 1 Env.quiet) = some (hdr 0, 6, Env.quiet) ∧
      ∃ t, exec (.stockReceive (hdr 0) 0 1 1 Env.quiet) s = .next t ∧ decide (t.host.slots[0].state = 3 ∧
        (t.host.slots[0].answer.any fun a => decide (a.outcome.code.toNat < 32)) = true) = true) ∧
    ∃ s, s = offer 0 2 (counting 1 0 .opened none) ∧ Offers s (hdr 0).slot 2 0 ∧ s.host.slots[0].state = 1 ∧
      orderParts (.cashUp (hdr 0) declared Env.quiet) = some (hdr 0, 16, Env.quiet) ∧
      ∃ t, exec (.cashUp (hdr 0) declared Env.quiet) s = .next t ∧ decide (t.host.slots[0].state = 2) = true := by
  refine ⟨⟨_, rfl, offers rfl rfl rfl, by decide +kernel, by decide +kernel, rfl, next_of (by decide +kernel)⟩,
    _, rfl, offers rfl rfl rfl, by decide +kernel, rfl, next_of (by decide +kernel)⟩

/-- Of AccessErrorsAndResetsInTake: an access error under way in a RUNNING exchange, one place left in the ring, a STATUS READ, a
sweep about to make its first step, and an exchange that does not run. -/
theorem witness_AccessErrorsAndResetsInTake_accesses :
    (∃ s, s = (office.onJournal fun r => { r with head := 254 }).setBus (some 0) ∧ s.exch.stopAtEnd = false ∧
      s.exch.state = .running ∧ s.host.busIn = some 0 ∧ s.journal.holding = [] ∧ s.journal.overflow = [] ∧
      s.journal.release = some 0 ∧ (s.journal.head + (s.journal.n - 0)) % s.journal.n + 2 ≤ s.journal.n) ∧
    (Offers (offer 9 12 closedOffice) 9 12 0 ∧ (offer 9 12 closedOffice).exch.stopAtEnd = false) ∧
    ((sweeping 1).exch.stopAtEnd = false ∧ (sweeping 1).host.busIn = none ∧ ∃ w, (sweeping 1).exch.sweep = some w ∧ w.step = 1) ∧
    ∃ s, s = office.onExch (fun x => { x with state := .halted }) ∧ s.exch.stopAtEnd = false ∧ s.exch.state ≠ .running :=
  ⟨⟨_, rfl, by decide +kernel⟩, ⟨offers rfl rfl rfl, rfl⟩, ⟨rfl, rfl, _, rfl, rfl⟩, _, rfl, by decide +kernel⟩

/-- Of AccessErrorsAndResetsInTake, a reset inside a take: a CASH-UP WITHDRAW that answers a pending cash-up of another slot. -/
theorem witness_AccessErrorsAndResetsInTake_withdraw :
    ∃ s, s = offer 0 12 (closing 1 0) ∧ Offers s (hdr 0).slot 12 0 ∧ s.host.slots[0].state = 1 ∧
      orderParts (.cashUpWithdraw (hdr 0) 2 Env.quiet) = some (hdr 0, 17, Env.quiet) ∧
      (∃ t, exec (.cashUpWithdraw (hdr 0) 2 Env.quiet) s = .next t ∧ decide (t.host.slots[0].state = 3 ∧
        (t.host.slots[0].answer.any fun a => decide (a.outcome.code.toNat < 32)) = true) = true) ∧
      (∃ p, s.till[2].cashUp = some p) ∧ ∀ w : Window, ∀ p ∈ s.till[w].cashUp, p.slot ≠ (hdr 0).slot :=
  ⟨_, rfl, offers rfl rfl rfl, by decide +kernel, rfl, next_of (by decide +kernel), ⟨_, rfl⟩, by decide +kernel⟩

/-- Of DecidedBeforeOwner, the CLOSED gate: a known kind, and a kind code of none. -/
theorem witness_DecidedBeforeOwner_gate :
    ∃ s, s = (offer 0 12 office).onJournal (fun r => { r with closed := true }) ∧ Offers s (hdr 0).slot 12 0 ∧
      s.journal.closed = true ∧ s.exch.sweep = some (offering 0 12 office) ∧ 12 ∉ (offering 0 12 office).remaining.tail ∧
      orderParts (.stockReceive (hdr 0) 0 1 1 Env.quiet) = some (hdr 0, 6, Env.quiet) ∧
      orderParts (.unknownOrderKind (hdr 0) 200 Env.quiet) = some (hdr 0, 200, Env.quiet) ∧
      ¬ (1 ≤ (200 : Byte).toNat ∧ (200 : Byte).toNat ≤ 18) := by
  refine ⟨_, rfl, ⟨rfl, rfl, (offers (i := 0) (src := 12) (s := office) (tag := 0) rfl rfl rfl).offered⟩, rfl, rfl,
    by decide, rfl, rfl, by decide⟩

/-- Of DecidedBeforeOwner: each refusal at the ends of its range, and the CLOSED gate with an exempt kind. -/
theorem witness_DecidedBeforeOwner_refusals :
    Offers (offer 9 12 office) 9 12 0 ∧ office.journal.closed = false ∧ Offers (offer 9 2 office) 9 2 0 ∧
    orderParts (.unknownOrderKind (hdr 9) 0 Env.quiet) = some (hdr 9, 0, Env.quiet) ∧
    orderParts (.unknownOrderKind (hdr 9) 19 Env.quiet) = some (hdr 9, 19, Env.quiet) ∧
    (∀ n ∈ [0, 1025], orderParts (.setDiscounts ⟨9, true, false, false, n, 0, .error⟩ 1 Env.quiet) =
      some (⟨9, true, false, false, n, 0, .error⟩, 3, Env.quiet) ∧ (n = 0 ∨ 1024 < n)) ∧
    (1 ≤ 1024 ∧ orderParts (.setLayout ⟨9, true, false, false, 1024, 0, .error⟩ 1 Env.quiet) =
      some (⟨9, true, false, false, 1024, 0, .error⟩, 5, Env.quiet)) ∧
    mayPost 11 2 = false ∧ mayPost 12 12 = false ∧ mayPost 17 12 = true ∧ mayPost 2 12 = true ∧
    Offers (offer 9 12 closedOffice) 9 12 0 ∧ closedOffice.office.opened = false := by
  refine ⟨offers rfl rfl rfl, rfl, offers rfl rfl rfl, rfl, rfl, ?_, ⟨by decide, rfl⟩, rfl, rfl, rfl, rfl, offers rfl rfl rfl,
    rfl⟩
  intro n hn
  exact ⟨rfl, by revert hn n; decide⟩

/-- Of RefusedOrderChangesNothing: a stock kind that is none, answered OUT_OF_RANGE. -/
theorem witness_RefusedOrderChangesNothing :
    ∃ s c, s = offer 9 12 office ∧ c = Instr.stockReceive (hdr 9) 4 1 1 Env.quiet ∧ Offers s (hdr 9).slot 12 0 ∧
      orderParts c = some (hdr 9, 6, Env.quiet) ∧ s.host.slots[9].state = 1 ∧
      s.exch.sweep = some (offering 9 12 office) ∧ 12 ∉ (offering 9 12 office).remaining.tail ∧
      32 ≤ (OrderOutcome.outOfRange).code.toNat ∧
      ∃ t, exec c s = .next t ∧ decide (t.host.slots[9] = ⟨3, some ⟨.outOfRange, 6, 0, 7, .none⟩⟩) = true := by
  refine ⟨_, _, rfl, rfl, offers rfl rfl rfl, rfl, by decide +kernel, rfl, by decide, by decide, next_of (by decide +kernel)⟩

/-! ### Witnesses: the Lane Link -/

/-- A POLL with bit 1. -/
def poll1 : Carried := ⟨.poll true, pollBytes true⟩

/-- Three jobs out: one PRINTED, one FED and one SENT. -/
def threeOut : List Job :=
  [jobOut 1 .printed 5006 .accepted, jobOut 2 .fed 5007 .delivered, jobOut 4 .sent 5009 (.carrying true)]

/-- Lane 3 with an exchange at a step, 2 failures counted, the acknowledgement bit 1. -/
def linked (c : Carried) (x : XStep) (f : LaneRec → LaneRec) : State :=
  lane3 (some mag0) fun r => onEngine (fun k => { k with exchange := some ⟨c, x, none⟩, fails := 2, ack := some true }) (f r)

/-- Lane 3 reads the report that answers a POLL. -/
theorem reporting {f : LaneRec → LaneRec} (h : (linked poll1 .reporting f).lanes[(3 : Lane)].link.phase = .running)
    (hd : (linked poll1 .reporting f).lanes[(3 : Lane)].link.restartDue = false) :
    Reporting (linked poll1 .reporting f) 3 true true := by
  refine ⟨rfl, h, hd, ?_, pollBytes true, ?_⟩ <;> rfl

/-- Lane 3 PRINTING with three jobs out and its poll timer running, a frame kept for repetition or none. -/
def polling (f : Option Carried) : State :=
  lane3 (some mag0) fun r => onEngine (fun k => { k with poll := some 5, repeatFrame := f, ack := some true }) (printing threeOut r)

/-- Of ExchangeBeginsAndGoesOn, the poll timer: no frame kept, a POLL kept, the IMAGE of a job that is out and of one that is not, a FLUSH
kept, and the link start. -/
theorem witness_ExchangeBeginsAndGoesOn_poll :
    (∀ f ∈ [none, some ⟨.poll false, pollBytes false⟩, some ⟨.image 9 0, [1]⟩, some ⟨.image 4 1, [1]⟩, some ⟨.flush, flushBytes⟩],
      ∃ s, s = polling f ∧ s.lanes[3].link.poll = some 5 ∧ s.lanes[3].link.phase = .running ∧ s.lanes[3].link.ack = some true ∧
        s.lanes[3].link.repeatFrame = f) ∧
    (∀ j ∈ (polling none).lanes[3].out, j.buffer ≠ 9) ∧ (∃ j ∈ (polling none).lanes[3].out, j.buffer = 4) ∧
    ∃ s, s = (polling none).onLink 3 (fun k => { k with phase := .greeting }) ∧ s.lanes[3].link.poll = some 5 ∧
      s.lanes[3].link.phase = .greeting := by
  refine ⟨fun f _ => ⟨_, rfl, rfl, rfl, rfl, rfl⟩, by decide +kernel, by decide +kernel, _, rfl, rfl, rfl⟩

/-- Of ExchangeBeginsAndGoesOn: an exchange at each step but the last. -/
theorem witness_ExchangeBeginsAndGoesOn_steps :
    ∀ x ∈ [XStep.busyWait, .clearing, .sending, .awaiting], ∃ s, s = linked poll1 x (up .ready) ∧
      s.lanes[3].link.exchange = some ⟨poll1, x, none⟩ ∧ s.host.busIn = none ∧ s.faults.recs[3].deferred = none ∧
      s.journal.overflow = [] ∧ s.journal.holding.length < 256 ∧ s.lanes[3].state = .ready :=
  fun _ _ => ⟨_, rfl, rfl, rfl, rfl, rfl, Nat.zero_lt_succ _, rfl⟩

/-- Of LinesOfALane: a LANE START of an OFF lane whose LBY and LDI are low, and an engine that sends a GREET. -/
theorem witness_LinesOfALane :
    Takeable (offer 0 12 office) 0 12 0 ∧ office.lanes[3].state = .off ∧ office.lanes[3].link.exchange = none ∧
    orderParts (.laneStart (hdr 0) 3 Env.quiet) = some (hdr 0, 9, Env.quiet) ∧
    (∃ t, exec (.laneStart (hdr 0) 3 ⟨none, none, [(3, ⟨true, true⟩)]⟩) (offer 0 12 office) = .next t ∧
      decide (t.lanes[3].pins = ⟨true, true⟩) = true) ∧
    ∃ r, r = { LinkEngine.reset with exchange := some ⟨⟨.greet, greetBytes⟩, .sending, none⟩ } ∧
      greetBytes[0]? = some 0x96 ∧ (ldoHigh r 0, ldoHigh r 1, ldoHigh r 7, ldoHigh r (8 * greetBytes.length)) =
        (false, true, true, true) :=
  ⟨takeable rfl rfl rfl rfl rfl, rfl, rfl, rfl, next_of (by decide +kernel), _, rfl, by decide +kernel⟩

/-- Of FailedExchanges: a response timeout and a bad report, at the third failure, below it, and overtaken. -/
theorem witness_FailedExchanges :
    (∃ s, s = linked poll1 .awaiting (up .ready) ∧ s.host.busIn = none ∧
      s.lanes[3].link.exchange = some ⟨poll1, .awaiting, none⟩ ∧ s.lanes[3].link.restartDue = false ∧
      s.lanes[3].link.phase = .running ∧ 2 ≤ s.lanes[3].link.fails) ∧
    (∃ s, s = (linked poll1 .reporting (up .ready)).onLink 3 (fun k => { k with fails := 1 }) ∧ s.host.busIn = none ∧
      s.lanes[3].link.exchange = some ⟨poll1, .reporting, none⟩ ∧ s.lanes[3].link.restartDue = false ∧
      s.lanes[3].link.phase = .running ∧ s.lanes[3].link.fails < 2) ∧
    ∃ s, s = (linked poll1 .reporting (up .starting)).onLink 3 (fun k => { k with restartDue := true }) ∧
      s.host.busIn = none ∧ s.lanes[3].link.exchange = some ⟨poll1, .reporting, none⟩ ∧
      s.lanes[3].link.restartDue = true := by
  refine ⟨⟨_, rfl, by decide +kernel⟩, ⟨_, rfl, by decide +kernel⟩, _, rfl, by decide +kernel⟩

/-- Of HoldingFaultHoldsLane: a PRINTING lane with a job out in each state, and the same lane HOLDING. -/
theorem witness_HoldingFaultHoldsLane :
    (∃ s, s = lane3 (some mag0) (printing threeOut) ∧ (∀ j ∈ s.lanes[3].out, j.state = .sent ∨ (j.state = .fed ∨ j.state = .printed) ∧
      j.serial ≠ none) ∧ (s.lanes[3].out.map Job.buffer).Nodup ∧ s.lanes[3].state = .printing) ∧
    ∃ s, s = lane3 (some mag0) (up .holding) ∧ s.lanes[3].out = [] ∧ s.lanes[3].state = .holding := by
  refine ⟨⟨_, rfl, by decide +kernel⟩, _, rfl, by decide +kernel⟩

/-- Of HoldingFaultIsJournalled: a PRINTING lane with a job PRINTED, one FED and two SENT and a job in its queue, in the order in
which they joined, RUNNING and HALTED; a HOLDING lane whose record is ACTIVE with that kind. -/
theorem witness_HoldingFaultIsJournalled :
    (∃ js, js = [jobOut 1 .printed 5006 .accepted, jobOut 2 .fed 5007 .delivered, jobOut 3 .sent 5008 .delivered,
        jobOut 4 .sent 5009 (.carrying false)] ∧
      ∀ x ∈ [ExState.running, .halted], ∃ s,
        s = (lane3 (some mag0) fun r => printing js { r with queue := [waitingJob] }).onExch (fun r => { r with state := x }) ∧
        s.host.busIn = none ∧ s.faults.recs[3].deferred = none ∧ s.journal.overflow = [] ∧ s.journal.holding.length < 256 ∧
        Working s 3 ∧ s.lanes[3].out = js ∧
        (∀ j ∈ js, (j.state = .sent ∨ (j.state = .fed ∨ j.state = .printed) ∧ j.serial ≠ none) ∧ 0 < j.total) ∧
        (js.map Job.buffer).Nodup ∧ (js.map Job.slot).Nodup ∧
        ((js.filter fun j => decide (j.state = .sent)) ++ s.lanes[3].queue).Pairwise
          (fun i j => i.joinNo ≠ j.joinNo ∧ i.joined j = true)) ∧
    ∃ s, s = doubtful ∧ s.lanes[3].state = .holding ∧ s.faults.recs[3].active = some ⟨.jam, 3, [], 2⟩ := by
  refine ⟨⟨_, rfl, fun x hx => ⟨_, rfl, rfl, rfl, rfl, Nat.zero_lt_succ _, .inr rfl, rfl, by
    revert hx x; decide +kernel⟩⟩, _, rfl, by decide +kernel⟩

/-- Of ReportsThatHoldTheLane: a HOLDING lane, its magazine spent and not. -/
theorem witness_ReportsThatHoldTheLane_holding :
    Reporting (linked poll1 .reporting (up .holding)) 3 true true ∧
    (linked poll1 .reporting (up .holding)).lanes[3].state = .holding ∧
    magSpent (linked poll1 .reporting (up .holding)).stock.mags[(3 : Lane)] = false ∧ magSpent none = true :=
  ⟨reporting rfl rfl, rfl, rfl, rfl⟩

/-- Of the statements on reports: the exchange STOPPED, STARTING and HALTED, on a PRINTING and on a HOLDING lane. -/
theorem witness_Reporting_not_running :
    ∀ x ∈ [ExState.stopped, .starting, .halted], ∃ s h, s = (linked poll1 .reporting (printing threeOut)).onExch
        (fun e => { e with state := x }) ∧ h = (linked poll1 .reporting (up .holding)).onExch (fun e => { e with state := x }) ∧
      Reporting s 3 true true ∧ Working s 3 ∧ Reporting h 3 true true ∧ h.lanes[3].state = .holding ∧ s.exch.state = x ∧
      s.lanes[3].out.head? = some (jobOut 1 .printed 5006 .accepted) ∧ (∀ q ∈ s.lanes[3].repairRefs, q.val ≠ (1 : Byte).toNat) ∧
      s.faults.recs[3].deferred = none ∧ s.journal.overflow = [] ∧ s.journal.holding.length < 254 := by
  intro x hx
  refine ⟨_, _, rfl, rfl, ⟨rfl, rfl, rfl, rfl, _, rfl⟩, .inr rfl, ⟨rfl, rfl, rfl, rfl, _, rfl⟩, rfl, rfl, rfl, ?_⟩
  revert hx x; decide +kernel

/-- Of ReportsThatHoldTheLane: a PRINTING lane, and CAPACITY with the longest identity text. -/
theorem witness_ReportsThatHoldTheLane :
    ∃ s, s = linked poll1 .reporting (printing threeOut) ∧ Reporting s 3 true true ∧ Working s 3 ∧ 1 ≤ (4 : Byte).toNat ∧
      (4 : Byte).toNat ≤ 4 ∧ (List.replicate 32 (0x41 : Byte)).length ≤ 32 :=
  ⟨_, rfl, reporting rfl rfl, .inr rfl, by decide⟩

/-- The lane's GREET is answered. -/
def greeted : State :=
  (linked ⟨.greet, greetBytes⟩ .reporting (up .starting)).onLink 3 fun k => { k with phase := .greeting, fails := 1, ack := none }

/-- Of FailedExchanges, the link start: a greeting that fails below the third time in a row and at it, by a malformed report, a
report of another type, and stock 63 columns wide; and an exchange overtaken, ended by the widest CAPACITY. -/
theorem witness_FailedExchanges_reports :
    (∀ n ∈ [1, 2], ∃ s, s = greeted.onLink 3 (fun k => { k with fails := n }) ∧ s.host.busIn = none ∧
      s.lanes[3].link.exchange = some ⟨⟨.greet, greetBytes⟩, .reporting, none⟩ ∧ s.lanes[3].link.restartDue = false ∧
      s.lanes[3].link.phase = .greeting ∧ s.lanes[3].link.fails = n) ∧
    (∀ q k w i, Report.nothing = .capacity q k w i → Report.nothing.wellFormed = true → w.toNat < 64) ∧
    (∀ q k w i, Report.capacity 0 4 63 [] = .capacity q k w i → (Report.capacity 0 4 63 []).wellFormed = true → w.toNat < 64) ∧
    ∃ s, s = (linked poll1 .reporting (up .starting)).onLink 3 (fun k => { k with restartDue := true }) ∧
      s.lanes[3].link.exchange = some ⟨poll1, .reporting, none⟩ ∧ s.lanes[3].link.restartDue = true ∧
      reportCommand 3 (.capacity 0 4 255 []) ⟨false, false⟩ none = .capacity 3 0 4 255 [] ⟨false, false⟩ none := by
  refine ⟨fun n _ => ⟨_, rfl, rfl, rfl, rfl, rfl, rfl⟩, fun _ _ _ _ h => (nomatch h), fun _ _ _ _ h _ => ?_, _, rfl, rfl, rfl, rfl⟩
  cases h; decide

/-- Of ReportsOutOfOrder: an IMAGE and a FLUSH answered by a report; a POLL answered by PRINTED of a job that is not the oldest, of
one PRINTED before, and with no job out. -/
theorem witness_ReportsOutOfOrder :
    (∀ f ∈ [Frame.image 4 0, .image 4 1, .image 4 2, .flush], ∃ s, s = linked ⟨f, [1]⟩ .reporting (printing threeOut) ∧
      s.host.busIn = none ∧ s.lanes[3].link.phase = .running ∧ s.lanes[3].link.restartDue = false ∧
      s.lanes[3].link.ack = some true ∧ s.lanes[3].link.exchange = some ⟨⟨f, [1]⟩, .reporting, none⟩) ∧
    (Report.printed (newBit true) 2).wellFormed = true ∧ (Report.printed (newBit true) 2).seq = some (newBit true) ∧
    (∃ s, s = linked poll1 .reporting (printing threeOut) ∧ Reporting s 3 true true ∧ Working s 3 ∧
      s.lanes[3].out.head? = some (jobOut 1 .printed 5006 .accepted) ∧ (jobOut 1 .printed 5006 .accepted).buffer.val ≠ (2 : Byte).toNat ∧
      s.lanes[3].repairRefs = []) ∧
    ∃ s, s = linked poll1 .reporting (up .ready) ∧ Reporting s 3 true true ∧ Working s 3 ∧ s.lanes[3].out.head? = none :=
  ⟨fun _ _ => ⟨_, rfl, rfl, rfl, rfl, rfl, rfl⟩, by decide +kernel, by decide +kernel,
    ⟨_, rfl, reporting rfl rfl, .inr rfl, by decide +kernel⟩, _, rfl, reporting rfl rfl, .inl rfl, rfl⟩

/-- Of CapacityEndsLinkStart: stock 64 and 63 columns wide, a CLEAR record and an ACTIVE one. -/
theorem witness_CapacityEndsLinkStart :
    greeted.host.busIn = none ∧ greeted.lanes[3].link.phase = .greeting ∧ greeted.lanes[3].link.restartDue = false ∧
    greeted.lanes[3].link.exchange = some ⟨⟨.greet, greetBytes⟩, .reporting, none⟩ ∧ greeted.lanes[3].state = .starting ∧
    (greeted.faults.recs[3].active = none ∧ ∀ d ∈ greeted.stock.doubts, d.lane ≠ 3) ∧ 64 ≤ (64 : Byte).toNat ∧
    (63 : Byte).toNat < 64 ∧ greeted.lanes[3].link.fails < 2 ∧
    (onRecord 3 (fun r => { r with active := some ⟨.jam, 4, [], 0⟩ }) greeted).faults.recs[3].active ≠ none := by decide +kernel

/-- Of ReportsWithoutEffect: NOTHING after an IMAGE, a repeat after a FLUSH, and a HOLDING lane. -/
theorem witness_ReportsWithoutEffect :
    (∀ c ∈ [(⟨.image 4 0, [1]⟩ : Carried), ⟨.flush, flushBytes⟩, poll1], ∃ s, s = linked c .reporting (printing threeOut) ∧
      s.host.busIn = none ∧ s.lanes[3].link.phase = .running ∧ s.lanes[3].link.restartDue = false ∧
      s.lanes[3].link.ack = some true ∧ s.lanes[3].link.exchange = some ⟨c, .reporting, none⟩) ∧
    (Report.nothing).wellFormed = true ∧ (Report.accepted 1 2).wellFormed = true ∧
    (Report.accepted 1 2).seq = some (if true then 1 else 0) ∧
    Reporting (linked poll1 .reporting (up .holding)) 3 true true ∧
    (linked poll1 .reporting (up .holding)).lanes[3].state = .holding ∧ (Report.spoiled (newBit true) 5 1).wellFormed = true ∧
    (4 : Byte).toNat ≤ 4 :=
  ⟨fun _ _ => ⟨_, rfl, rfl, rfl, rfl, rfl, rfl⟩, by decide, by decide, by decide, reporting rfl rfl, rfl, by decide, by decide⟩

/-- Lane 3 reads a report; three jobs out, references 7 and 8 under sequence repair, a FLUSH awaited with limit 3. -/
def repairing : State :=
  linked poll1 .reporting fun r =>
    let q := printing threeOut r
    { q with repairRefs := [7, 8], link := { q.link with awaited := some 3 } }

/-- Of ReportsOfJobsAccepted: each clause, with FLUSHED at its limit and past it. -/
theorem witness_ReportsOfJobsAccepted :
    Reporting repairing 3 true true ∧ Working repairing 3 ∧ (∃ q ∈ repairing.lanes[3].repairRefs, q.val = (7 : Byte).toNat) ∧
    (∀ q ∈ repairing.lanes[3].repairRefs, q.val ≠ (2 : Byte).toNat ∧ q.val ≠ (1 : Byte).toNat) ∧
    repairing.lanes[3].out.find? (fun j => decide (j.delivery = .delivered)) = some (jobOut 2 .fed 5007 .delivered) ∧
    repairing.lanes[3].link.awaited = some 3 ∧ (3 : Byte).toNat ≤ 3 ∧ ¬ (4 : Byte).toNat ≤ 3 ∧
    (linked poll1 .reporting (up .ready)).lanes[3].link.awaited = none ∧
    ∀ st ∈ [JobState.fed, .sent], ∃ s, s = linked poll1 .reporting (printing [jobOut 1 st 5006 .accepted]) ∧
      s.lanes[3].out.head? = some (jobOut 1 st 5006 .accepted) :=
  ⟨reporting rfl rfl, .inr rfl, by decide +kernel, by decide +kernel, by decide +kernel, rfl, by decide, by decide, rfl,
    fun _ _ => ⟨_, rfl, rfl⟩⟩

/-- Of EjectedEndsJobIssued and SpoiledRetriesOrEndsJob: the oldest job out PRINTED. -/
theorem witness_EjectedEndsJobIssued_SpoiledRetriesOrEndsJob :
    ∃ s j, s = linked poll1 .reporting (printing threeOut) ∧ j = jobOut 1 .printed 5006 .accepted ∧ Reporting s 3 true true ∧
      Working s 3 ∧ (∀ q ∈ s.lanes[3].repairRefs, q.val ≠ (1 : Byte).toNat) ∧ s.lanes[3].out.head? = some j ∧
      j.delivery = .accepted ∧ j.buffer.val = (1 : Byte).toNat ∧ j.serial = some 5006 ∧ j.state ≠ .sent ∧
      s.lanes[3].link.headFault = false ∧ s.faults.recs[3].deferred = none ∧ s.journal.overflow = [] ∧
      s.journal.holding.length < 254 :=
  ⟨_, _, rfl, rfl, reporting rfl rfl, .inr rfl, by decide +kernel⟩

/-- Of EjectedEndsJobIssued and SpoiledRetriesOrEndsJob: the oldest job out SENT, its window's drawer CLOSING with no other live
job, and the head-fault mark set. -/
theorem witness_EjectedEndsJobIssued_SpoiledRetriesOrEndsJob_settling :
    ∃ s j, j = { jobOut 1 .sent 5009 .accepted with retry := false } ∧
      s = ((linked poll1 .reporting (printing [j])).onLink 3 fun k => { k with headFault := true }).onDrawer 2 (fun d =>
        { d with state := .closing, live := 1, cashUp := some ⟨5, 3, declared⟩ }) ∧ Reporting s 3 true true ∧ Working s 3 ∧
      s.lanes[3].out.head? = some j ∧ s.lanes[3].link.headFault = true ∧ s.till[2].live - 1 = 0 ∧ s.till[2].suspense = 0 :=
  ⟨_, _, rfl, rfl, ⟨rfl, rfl, rfl, rfl, _, rfl⟩, .inr rfl, rfl, rfl, rfl, rfl⟩

/-- Of NextExchange: the first part of an IMAGE whose job is out and of one whose job is not, and a waiting frame. -/
theorem witness_NextExchange :
    (∃ s, s = linked ⟨.image 4 1, [1]⟩ .reporting (printing threeOut) ∧ s.lanes[3].link.phase = .running ∧
      s.lanes[3].link.repeatFrame = none ∧ s.lanes[3].link.ack = some true ∧ s.lanes[3].link.waiting = none ∧
      (∃ j ∈ s.lanes[3].out, j.buffer = 4) ∧ ∀ j ∈ s.lanes[3].out, j.buffer ≠ 9) ∧
    ∃ s, s = (linked poll1 .reporting (printing threeOut)).onLink 3 (fun k => { k with waiting := some .flush }) ∧
      s.lanes[3].link.phase = .running ∧ s.lanes[3].link.repeatFrame = none ∧ s.lanes[3].link.ack = some true ∧
      s.lanes[3].link.waiting = some .flush :=
  ⟨⟨_, rfl, rfl, rfl, rfl, rfl, by decide +kernel⟩, _, rfl, rfl, rfl, rfl, rfl⟩

/-- Of NextExchange: a waiting IMAGE of a job that has left the lane, before a front job that can be sent and before none. -/
theorem witness_NextExchange_dropped :
    ∀ q ∈ [[waitingJob], []], ∃ s u, s = (linked poll1 .reporting fun r => printing threeOut { r with queue := q }).onLink 3
        (fun k => { k with waiting := some (.image 9 0) }) ∧
      u = { s with lanes := s.lanes.upd 3 fun r => { r with link := { r.link with exchange := none, waiting := none } } } ∧
      s.lanes[3].link.phase = .running ∧ s.lanes[3].link.repeatFrame = none ∧ s.lanes[3].link.ack = some true ∧
      s.lanes[3].link.waiting = some (.image 9 0) ∧ (∀ j ∈ s.lanes[3].out, j.buffer ≠ 9) ∧ canSend u 3 = !q.isEmpty := by
  intro q hq
  refine ⟨_, _, rfl, rfl, rfl, rfl, rfl, rfl, ?_⟩
  revert hq q; decide +kernel

/-- Of SendTakesNextSerial: the last blank of the magazine, and a job behind the one sent. -/
theorem witness_SendTakesNextSerial :
    ∃ s, s = lane3 (some { mag0 with next := 5099 })
        (fun r => printing [jobOut 4 .sent 5009 (.carrying true)] { r with queue := [waitingJob, job 6 .queued none (.carrying false)] }) ∧
      Working s 3 ∧ s.lanes[3].queue = waitingJob :: [job 6 .queued none (.carrying false)] ∧ 0 < s.lanes[3].credits ∧
      s.stock.mags[3] = some { mag0 with next := 5099 } ∧ mag0.kind = waitingJob.kind ∧ 5099 ≤ mag0.last ∧
      s.lanes[3].link.awaited = none ∧ s.lanes[3].link.phase = .running ∧ s.lanes[3].link.exchange = none ∧
      s.lanes[3].link.repeatFrame = none ∧ ∀ i ∈ s.lanes[3].out, i.buffer ≠ waitingJob.buffer :=
  ⟨_, rfl, .inr rfl, by decide +kernel⟩

/-! ### Witnesses: feed supervision and patience -/

/-- Lane 3 in a state with three jobs out, a last capture and steps since mark; its kind has N = 1,000 and t = 50. -/
def feeding (st : LaneState) (js : List Job) (counter : BitVec 16) (last : Option (BitVec 16)) (since : Nat) : State :=
  lane3 (some mag0) fun r => { up st { r with out := js } with feed := ⟨counter, last, since⟩ }

/-- Of StepCountsAndWatches: at the limit, past it, in STARTING, and in OFF. -/
theorem witness_StepCountsAndWatches :
    (∀ n ∈ [2499, 2500, 65535], ∃ s, s = feeding .printing threeOut 7 none n ∧ s.host.busIn = none ∧
      s.stock.mags[3] = some mag0 ∧ s.office.startUp = none ∧ Working s 3) ∧
    (feeding .starting [] 7 none 0).lanes[3].state = .starting ∧ (feeding .off [] 7 none 0).lanes[3].state = .off :=
  ⟨fun _ _ => ⟨_, rfl, rfl, rfl, rfl, .inr rfl⟩, rfl, rfl⟩

/-- Of MarkFeedsJob: no last capture; pitches 950 and 1,050 at the ends of SINGLE, the second across the wrap; 1,051; and
steps since mark at 65,535. -/
theorem witness_MarkFeedsJob :
    (∃ s, s = feeding .printing threeOut 7 none 3 ∧ s.host.busIn = none ∧ s.office.startUp = none ∧ Working s 3 ∧
      s.stock.mags[3] = some mag0 ∧ kinds4[0] = s.stock.kinds[mag0.kind] ∧
      s.lanes[3].out.find? (fun i => decide (i.state = .sent)) = some (jobOut 4 .sent 5009 (.carrying true)) ∧
      s.lanes[3].feed.last = none) ∧
    ((950 : BitVec 16) - 0).toNat = 950 ∧ ((1040 : BitVec 16) - 65526).toNat = 1050 ∧ kinds4[0].pitch ≤ 950 + kinds4[0].tol ∧
    1050 ≤ kinds4[0].pitch + kinds4[0].tol ∧ ¬ 1051 ≤ kinds4[0].pitch + kinds4[0].tol ∧
    ¬ 2 * kinds4[0].pitch ≤ 1051 + kinds4[0].tol ∧
    (feeding .printing threeOut 1000 (some 0) 65535).lanes[3].feed.since = 65535 :=
  ⟨⟨_, rfl, rfl, rfl, .inr rfl, by decide +kernel⟩, by decide +kernel⟩

/-- Lane 3 PRINTING, one job PRINTED and three SENT, the first of them with RETRY or without, at a pitch of 2,050 steps. -/
def doubling (retry : Bool) : State :=
  feeding .printing [jobOut 1 .printed 5006 .accepted, { jobOut 2 .sent 5007 .delivered with retry := retry },
    jobOut 3 .sent 5008 .delivered, jobOut 4 .sent 5009 (.carrying true)] 2050 (some 0) 2050

/-- Of DoubleFeedRepairs: the pitches 1,950 and 2,050 of a kind with N = 1,000 and t = 50; and the only SENT job, whose serial is
the last of its magazine. -/
theorem witness_DoubleFeedRepairs :
    (∀ retry : Bool, (doubling retry).host.busIn = none ∧ (doubling retry).office.startUp = none ∧
      (doubling retry).lanes[3].state = .printing ∧ (doubling retry).stock.mags[3] = some mag0 ∧
      (doubling retry).lanes[3].out.map Job.state = [.printed, .sent, .sent, .sent] ∧
      (∀ i ∈ (doubling retry).lanes[3].out, i.kind = mag0.kind) ∧
      ((doubling retry).lanes[3].out.drop 1).map Job.serial = [some 5007, some 5008, some 5009] ∧
      ((doubling retry).lanes[3].out.map Job.buffer).Nodup ∧ (doubling retry).lanes[3].feed = ⟨2050, some 0, 2050⟩ ∧
      (doubling retry).faults.recs[3].deferred = none ∧ (doubling retry).journal.overflow = [] ∧
      (doubling retry).journal.holding.length < 253) ∧
    mag0.next = 5007 + 2 + 1 ∧ ((2050 : BitVec 16) - 0).toNat = 2050 ∧ 2 * kinds4[0].pitch ≤ 1950 + kinds4[0].tol ∧
    2050 ≤ 2 * kinds4[0].pitch + kinds4[0].tol ∧ ¬ 1950 ≤ kinds4[0].pitch + kinds4[0].tol ∧
    ∃ s, s = (feeding .printing [jobOut 1 .sent 5099 .accepted] 2000 (some 0) 9).setMag 3 (some { mag0 with next := 5100 }) ∧
      s.stock.mags[3] = some { mag0 with next := 5100 } ∧ mag0.last < 5100 :=
  ⟨by decide +kernel, by decide +kernel, by decide, by decide +kernel, by decide +kernel, by decide +kernel, _, rfl,
    by decide +kernel⟩

/-- Of UnexpectedMark: a STARTING lane, and a READY one at the last blank of its magazine. -/
theorem witness_UnexpectedMark :
    (∃ s, s = feeding .starting [] 7 none 3 ∧ s.host.busIn = none ∧ s.office.startUp = none ∧
      s.faults.recs[3].deferred = none ∧ s.journal.overflow = [] ∧ s.journal.holding.length < 255 ∧
      s.lanes[3].state = .starting) ∧
    ∃ s, s = (feeding .ready [] 7 none 3).setMag 3 (some { mag0 with next := 5099 }) ∧ Working s 3 ∧
      (∀ j ∈ s.lanes[3].out, j.state ≠ .sent) ∧ s.stock.mags[3] = some { mag0 with next := 5099 } ∧ 5099 ≤ mag0.last :=
  ⟨⟨_, rfl, by decide +kernel⟩, _, rfl, .inl rfl, by decide +kernel⟩

/-- Of UnexpectedMark: an OFF lane, a PARKED one, and the start-up period. -/
theorem witness_UnexpectedMark_ignored :
    office.host.busIn = none ∧ office.lanes[3].state = .off ∧ (lane3 none (up (.parked .day))).lanes[3].state = .parked .day ∧
    (starting ⟨true, false⟩).office.startUp ≠ none ∧ (starting ⟨true, false⟩).host.busIn = none := by decide +kernel

/-- Lane 3 HOLDING with a job in its queue and its patience timer running, lane 4 READY with one blank. -/
def impatient (j : Job) : State :=
  ((lane3 (some mag0) fun r => up .holding { r with queue := [j], patience := some 30 }).setMag 4 (some ⟨0, 7000, 7000, 7000⟩)).onLane 4
    (up .ready)

/-- Of StepCountsAndWatches and UnexpectedMark: an EMPTY magazine, and a spent one, on a READY lane. -/
theorem witness_StepCountsAndWatches_UnexpectedMark_empty :
    (∃ s, s = (feeding .ready [] 7 none 2500).setMag 3 none ∧ s.host.busIn = none ∧ s.office.startUp = none ∧ Working s 3 ∧
      s.stock.mags[3] = none ∧ (∀ j ∈ s.lanes[3].out, j.state ≠ .sent) ∧ s.journal.holding.length < 255) ∧
    ∃ s, s = (feeding .ready [] 7 none 2500).setMag 3 (some { mag0 with next := 5100 }) ∧ Working s 3 ∧
      s.stock.mags[3] = some { mag0 with next := 5100 } ∧ ¬ 5100 ≤ mag0.last :=
  ⟨⟨_, rfl, rfl, rfl, .inl rfl, by decide +kernel⟩, _, rfl, .inl rfl, rfl, by decide⟩

/-- Of PatienceMovesJobs: a MOVABLE job with a reserved buffer of lane 3, and lane 4 with a buffer to give and with none. -/
theorem witness_PatienceMovesJobs_reserved :
    ∃ s j, j = { waitingJob with buffer := 38 } ∧ s = impatient j ∧ j.movable = true ∧ s.till[j.window].alt = some 4 ∧
      (4 : Lane) ≠ 3 ∧ Working s 4 ∧ s.stock.mags[4] = some ⟨0, 7000, 7000, 7000⟩ ∧ 32 ≤ j.buffer.val ∧
      pickBuffer s 4 = some 0 ∧
      pickBuffer { s with images := Vector.ofFn fun b => if b.val < 42 then some [] else none } 4 = none :=
  ⟨_, _, rfl, rfl, rfl, rfl, by decide, .inl rfl, rfl, by decide +kernel⟩

/-- Of SendTakesNextSerial: a lane without credits, and one whose magazine is of another kind, send nothing. -/
theorem witness_SendTakesNextSerial_not :
    (∃ s, s = (lane3 (some mag0) fun r => up .ready { r with queue := [waitingJob] }).onLane 3 (fun r => { r with credits := 0 }) ∧
      Working s 3 ∧ ¬ 0 < s.lanes[3].credits) ∧
    ∃ s, s = lane3 (some { mag0 with kind := 1 }) (fun r => up .ready { r with queue := [waitingJob] }) ∧
      s.stock.mags[3] = some { mag0 with kind := 1 } ∧ { mag0 with kind := 1 }.kind ≠ waitingJob.kind :=
  ⟨⟨_, rfl, .inl rfl, by decide +kernel⟩, _, rfl, rfl, by decide⟩

/-- Of PatienceMovesJobs: a job that is not MOVABLE, and one that is. -/
theorem witness_PatienceMovesJobs :
    (∃ s, s = impatient { waitingJob with movable := false } ∧ s.lanes[3].patience = some 30 ∧
      ∀ j ∈ s.lanes[3].queue, j.movable = false) ∧
    ∃ s, s = impatient waitingJob ∧ s.lanes[3].patience = some 30 ∧ s.lanes[3].queue = [waitingJob] ∧
      waitingJob.movable = true ∧ waitingJob.buffer.val < 32 ∧ s.till[waitingJob.window].alt = some 4 ∧ (4 : Lane) ≠ 3 ∧
      Working s 4 ∧ s.stock.mags[4] = some ⟨0, 7000, 7000, 7000⟩ :=
  ⟨⟨_, rfl, by decide +kernel⟩, _, rfl, rfl, rfl, rfl, by decide, rfl, by decide, .inl rfl, rfl⟩

end Sys2Proof.Tests
end

section
/-! What a realign does (R18): one change of the Stock Register, and then one entry given to the Journal Writer. -/

namespace Sys2Proof.Machine

/-! ### The in-magazines count (R6) -/

/-- What one magazine adds to the in-magazines count of a kind (R6). -/
def blanksOf (k : StockKind) : Option Loaded → Nat
  | none => 0
  | some m => if m.kind = k then m.remaining else 0

@[simp] theorem blanksOf_some_same (m : Loaded) : blanksOf m.kind (some m) = m.remaining := if_pos rfl

/-- The in-magazines count adds up the eight magazines. -/
theorem inMagazines_eq_sum (s : State) (k : StockKind) : inMagazines s k = ∑ l : Lane, blanksOf k s.stock.mags[l] := by
  rw [Fin.sum_univ_def]
  rfl

/-- When one magazine is replaced, the count changes by that magazine's blanks alone. -/
theorem inMagazines_of_upd {s t : State} {l : Lane} {f : Option Loaded → Option Loaded}
    (h : t.stock.mags = s.stock.mags.upd l f) (k : StockKind) :
    inMagazines t k + blanksOf k s.stock.mags[l] = inMagazines s k + blanksOf k (f s.stock.mags[l]) := by
  have others : ∑ i ∈ {l}ᶜ, blanksOf k (s.stock.mags.upd l f)[i] = ∑ i ∈ {l}ᶜ, blanksOf k s.stock.mags[i] :=
    Finset.sum_congr rfl fun i hi => by
      rw [Table.upd_ne _ l i f (by simpa using hi)]
  rw [inMagazines_eq_sum, inMagazines_eq_sum, h, Fintype.sum_eq_add_sum_compl l, Fintype.sum_eq_add_sum_compl l, others,
    Table.upd_same]
  omega

/-! ### An entry given after a change of the Stock Register -/

/-- Giving entries leaves the Stock Register as it was. -/
theorem Journalled.stock {s t : State} (h : Journalled s t) : t.stock = s.stock := by
  rw [h.rest]

/-- The entry is given alike before and after a change of the Stock Register. -/
theorem gives_give_onStock {s : State} (h : s.host.busIn = none) (f : StockRegister → StockRegister) (b : EntryBody) :
    Gives [b] s (give b (s.onStock f)) :=
  Gives.of_same (u := s.onStock f) ⟨rfl, rfl, rfl, rfl, rfl, rfl, rfl, rfl⟩ h h rfl rfl rfl

/-! ### The realign (R18) -/

/-- The Stock Register after a realign of lane `l`'s magazine `m` to `r`: the serials from next to `r - 1` are lost. -/
def passOver (l : Lane) (m : Loaded) (r : Nat) (g : StockRegister) : StockRegister :=
  { g with
    mags := g.mags.upd l fun _ => some { m with next := r }
    counters := g.counters.upd m.kind fun c => { c with lost := c.lost + (r - m.next) } }

theorem passOver_mags (l : Lane) (m : Loaded) (r : Nat) (g : StockRegister) :
    (passOver l m r g).mags = g.mags.upd l fun _ => some { m with next := r } := rfl

/-- A realign that passes over no serial changes nothing. -/
theorem realign_of_le {s : State} {l : Lane} {m : Loaded} {r : Nat} (hm : s.stock.mags[l] = some m) (h : r ≤ m.next) :
    realign l r s = s := by
  simp [realign, State.mag, hm, h]

/-- A realign past next loses the serials passed over and gives their entry. -/
theorem realign_of_lt {s : State} {l : Lane} {m : Loaded} {r : Nat} (hm : s.stock.mags[l] = some m) (h : m.next < r) :
    realign l r s = give (.lost m.kind m.next (r - m.next) l) (s.onStock (passOver l m r)) := by
  simp only [realign, State.mag, hm, if_pos h]
  rfl

/-- The serials passed over leave the in-magazines count of the magazine's kind. -/
theorem inMagazines_of_passOver {s t : State} {l : Lane} {m : Loaded} {r : Nat} (hm : s.stock.mags[l] = some m)
    (hn : m.next ≤ r) (hr : r ≤ m.last + 1) (ht : t.stock = passOver l m r s.stock) :
    inMagazines t m.kind + (r - m.next) = inMagazines s m.kind := by
  have count := inMagazines_of_upd ((congrArg StockRegister.mags ht).trans (passOver_mags l m r s.stock)) m.kind
  have after : blanksOf m.kind (some { m with next := r }) = m.last + 1 - r := blanksOf_some_same { m with next := r }
  rw [hm, after, blanksOf_some_same, Loaded.remaining] at count
  omega

/-- A realign to last + 1 leaves the magazine exhausted. -/
theorem magSpent_passOver_stop (l : Lane) (m : Loaded) (g : StockRegister) :
    magSpent (passOver l m (m.last + 1) g).mags[l] = true := by
  rw [passOver_mags, Table.upd_same]
  simp [magSpent]

/-- Settles O28: past next, `realign_of_lt` splits the realign into `passOver` and one entry, and the entry leaves the Stock
Register as `passOver` has made it. -/
theorem realignLosesBlanks : Obligations.RealignLosesBlanks := by
  intro s l m r quiet hm hn hr
  refine ⟨fun h => realign_of_le hm h.le, fun h => ⟨_, rfl, ?_⟩⟩
  rw [realign_of_lt hm h]
  have entry := give_journalled (s := s.onStock (passOver l m r)) quiet (.lost m.kind m.next (r - m.next) l)
  have stock := entry.stock
  refine ⟨?_, stock, inMagazines_of_passOver hm hn hr stock, ?_, gives_give_onStock quiet _ _, entry.exch, entry.host⟩
  · rw [stock]
    exact entry.rest
  · rintro rfl
    rw [stock]
    exact magSpent_passOver_stop l m s.stock

end Sys2Proof.Machine
end

section
/-! What the Fare Unit computes (R29 to R33): the per-person figure of a class, and the figures of an ISSUE. -/

namespace Sys2Proof.Machine

/-! ### The per-person figure (R30, R31) -/

/-- Neither the reduction nor the rounding passes the base; the subtraction of the model stops at 0, so this needs no bound on
the rate. -/
theorem reduced_rounded_le (d : Discount) (base : Nat) : (base - base * d.rate / 1000) / d.step * d.step ≤ base :=
  (Nat.div_mul_le_self _ _).trans (Nat.sub_le _ _)

/-- The step of the minimum is a maximum: a rounded figure below the minimum is still within the base. -/
theorem discounted_eq_max (d : Discount) (base : Nat) :
    discounted d base = max ((base - base * d.rate / 1000) / d.step * d.step) (min d.min base) := by
  have within := reduced_rounded_le d base
  simp only [discounted]
  split
  next below => exact (max_eq_right (le_min below.le within)).symm
  next notBelow => exact (max_eq_left ((min_le_left _ _).trans (not_lt.mp notBelow))).symm

theorem discounted_le (d : Discount) (base : Nat) : discounted d base ≤ base := by
  rw [discounted_eq_max]
  exact max_le (reduced_rounded_le d base) (min_le_right _ _)

@[simp] theorem perPerson_of_count_zero (d : Discount) (applies : Bool) (base : Nat) : perPerson d applies base 0 = 0 := rfl

theorem perPerson_of_applies (d : Discount) (base : Nat) {count : Nat} (h : 1 ≤ count) :
    perPerson d true base count = discounted d base := if_neg (by omega)

theorem perPerson_of_not_applies (d : Discount) (base : Nat) {count : Nat} (h : 1 ≤ count) :
    perPerson d false base count = base := if_neg (by omega)

/-- No figure exceeds its base (R33). -/
theorem perPerson_le (d : Discount) (applies : Bool) (base count : Nat) : perPerson d applies base count ≤ base := by
  rcases Nat.eq_zero_or_pos count with rfl | some_persons
  · exact Nat.zero_le base
  · cases applies with
    | true => exact (perPerson_of_applies d base some_persons).trans_le (discounted_le d base)
    | false => exact (perPerson_of_not_applies d base some_persons).le

/-! ### The figures of an ISSUE (R32) -/

/-- The Fare Unit answers with figures just when the sum of the two lines is within the limit. -/
theorem fare_eq_some_iff {d : Discount} {adult child na nc : Nat} {f : Figures} :
    fare d adult child na nc = some f ↔
      f.pAdult = perPerson d d.adult adult na ∧ f.pChild = perPerson d d.child child nc ∧
      f.total = f.pAdult * na + f.pChild * nc ∧ f.name = d.name ∧ f.total ≤ Config.maxTotal := by
  obtain ⟨pa, pc, total, name⟩ := f
  simp only [fare, Option.ite_none_right_eq_some, Option.some.injEq, Figures.mk.injEq]
  constructor
  · rintro ⟨within, rfl, rfl, rfl, rfl⟩
    exact ⟨rfl, rfl, rfl, rfl, within⟩
  · rintro ⟨rfl, rfl, rfl, rfl, within⟩
    exact ⟨within, rfl, rfl, rfl, rfl⟩

/-- Settles O26: the figures by `discounted_eq_max` and `perPerson_le`; the bound on the total follows line by line. -/
theorem fareFigures : Obligations.FareFigures := by
  refine ⟨fun d base count _ counted => ?_, fun d adult child na nc f _ answered => ?_⟩
  · exact ⟨(perPerson_of_applies d base counted).trans (discounted_eq_max d base), perPerson_le d true base count,
      perPerson_of_not_applies d base counted, perPerson_of_count_zero d true base, perPerson_of_count_zero d false base⟩
  · obtain ⟨hAdult, hChild, hTotal, hName, within⟩ := fare_eq_some_iff.mp answered
    have adult_le : f.pAdult ≤ adult := hAdult ▸ perPerson_le d d.adult adult na
    have child_le : f.pChild ≤ child := hChild ▸ perPerson_le d d.child child nc
    have total_le : f.total ≤ na * adult + nc * child := by
      calc f.total = na * f.pAdult + nc * f.pChild := by rw [hTotal, Nat.mul_comm na, Nat.mul_comm nc]
        _ ≤ na * adult + nc * child := by gcongr
    exact ⟨hTotal, hAdult, hChild, hName, adult_le, child_le, total_le, within⟩

end Sys2Proof.Machine
end

section
/-! A CASH-UP of a settled drawer (R154 to R158): the four lines meet the reconciliation's rules whatever the drawer holds, and
the take comes to one entry given beside one change of the drawer. -/

namespace Sys2Proof.Machine

/-! ### The classes (R157) -/

@[simp] theorem cashClass_zero (tolerance : Nat) : cashClass tolerance 0 = .balanced := rfl

theorem cashClass_of_within {tolerance : Nat} {v : Int} (h0 : v ≠ 0) (h : |v| ≤ tolerance) :
    cashClass tolerance v = .within := by
  have inside : v.natAbs ≤ tolerance := by rw [Int.abs_eq_natAbs] at h; omega
  rw [cashClass, if_neg h0, if_pos inside]

theorem cashClass_of_over {tolerance : Nat} {v : Int} (h : (tolerance : Int) < v) : cashClass tolerance v = .over := by
  have outside : ¬ v.natAbs ≤ tolerance := by omega
  rw [cashClass, if_neg (by omega), if_neg outside, if_pos (by omega)]

theorem cashClass_of_short {tolerance : Nat} {v : Int} (h : v < -(tolerance : Int)) : cashClass tolerance v = .short := by
  have outside : ¬ v.natAbs ≤ tolerance := by omega
  rw [cashClass, if_neg (by omega), if_neg outside, if_neg (by omega)]

/-- A CASH variance is 0, or within the tolerance, or beyond it on one of the two sides. -/
theorem variance_cases (tolerance : Nat) (v : Int) :
    v = 0 ∨ (v ≠ 0 ∧ |v| ≤ tolerance) ∨ (tolerance : Int) < v ∨ v < -(tolerance : Int) := by
  rw [abs_le]
  omega

/-- The five classes of a CASH variance, each by its own condition. -/
theorem cashClass_eq_iff (tolerance : Nat) (v : Int) :
    (cashClass tolerance v = .balanced ↔ v = 0) ∧
    (cashClass tolerance v = .within ↔ v ≠ 0 ∧ |v| ≤ tolerance) ∧
    (cashClass tolerance v = .over ↔ (tolerance : Int) < v) ∧
    (cashClass tolerance v = .short ↔ v < -(tolerance : Int)) ∧
    cashClass tolerance v ≠ .mismatch := by
  rcases variance_cases tolerance v with rfl | ⟨h0, inside⟩ | above | below
  · simp
  · have bounds := abs_le.mp inside
    simp only [cashClass_of_within h0 inside, reduceCtorEq, ne_eq, false_iff, true_iff, not_false_eq_true, and_true, abs_le]
    omega
  · simp only [cashClass_of_over above, reduceCtorEq, ne_eq, false_iff, true_iff, not_false_eq_true, and_true, abs_le]
    omega
  · simp only [cashClass_of_short below, reduceCtorEq, ne_eq, false_iff, true_iff, not_false_eq_true, and_true, abs_le]
    omega

/-- The two classes of another tender's variance. -/
theorem paperClass_eq_iff (v : Int) :
    (paperClass v = .balanced ↔ v = 0) ∧ (paperClass v = .mismatch ↔ v ≠ 0) ∧
    paperClass v ≠ .within ∧ paperClass v ≠ .over ∧ paperClass v ≠ .short := by
  by_cases h : v = 0 <;> simp [paperClass, h]

/-! ### The four lines (R156) -/

theorem cashLines_get_cash (d : Drawer) (tolerance : Nat) (decl : ByTender Nat) :
    (cashLines d tolerance decl).get .cash = cashLine d.float tolerance (d.acc.get .cash) (decl.get .cash) := rfl

theorem cashLines_get_of_ne (d : Drawer) (tolerance : Nat) (decl : ByTender Nat) {T : Tender} (h : T ≠ .cash) :
    (cashLines d tolerance decl).get T = paperLine (d.acc.get T) (decl.get T) := by
  cases T with
  | cash => exact absurd rfl h
  | card | warrant | voucher => rfl

/-- The lines of the model are those of a reconciliation, for every drawer, tolerance and declaration. -/
theorem cashLines_reconciled (d : Drawer) (tolerance : Nat) (decl : ByTender Nat) :
    Reconciled d tolerance decl (cashLines d tolerance decl) := by
  intro T
  by_cases h : T = .cash
  · subst h
    rw [cashLines_get_cash]
    obtain ⟨isBalanced, isWithin, isOver, isShort, isMismatch⟩ :=
      cashClass_eq_iff tolerance (decl.get .cash - (d.float + (d.acc.get .cash).net))
    refine ⟨rfl, ?_, rfl, isBalanced, isWithin.trans (and_iff_right rfl).symm, isOver.trans (and_iff_right rfl).symm,
      isShort.trans (and_iff_right rfl).symm, iff_of_false isMismatch fun wrong => wrong.1 rfl⟩
    simp only [cashLine, Accumulators.net, if_true]
    omega
  · rw [cashLines_get_of_ne d tolerance decl h]
    obtain ⟨isBalanced, isMismatch, isWithin, isOver, isShort⟩ := paperClass_eq_iff (decl.get T - (d.acc.get T).net)
    refine ⟨rfl, ?_, rfl, isBalanced, iff_of_false isWithin fun wrong => h wrong.1, iff_of_false isOver fun wrong => h wrong.1,
      iff_of_false isShort fun wrong => h wrong.1, isMismatch.trans (and_iff_right h).symm⟩
    simp only [paperLine, Accumulators.net, h, if_false]
    omega

/-! ### An entry given beside a change of a drawer -/

/-- Two changes of one drawer are one. -/
theorem State.onDrawer_onDrawer (s : State) (w : Window) (f g : Drawer → Drawer) :
    (s.onDrawer w f).onDrawer w g = s.onDrawer w (g ∘ f) := by
  simp [State.onDrawer, Table.upd]

/-- The gate does not look at the drawers. -/
theorem closeGate_onDrawer (s : State) (w : Window) (f : Drawer → Drawer) :
    closeGate (s.onDrawer w f) = (closeGate s).onDrawer w f := by
  unfold closeGate
  rw [State.onDrawer_journal]
  split <;> rfl

/-- Giving an entry and changing a drawer can be done in either order. -/
theorem give_onDrawer {s : State} (quiet : s.host.busIn = none) (b : EntryBody) (w : Window) (f : Drawer → Drawer) :
    give b (s.onDrawer w f) = (give b s).onDrawer w f := by
  have sameWrite : canWriteNow (s.onDrawer w f) = canWriteNow s := rfl
  have sameQueue : canQueue (s.onDrawer w f) = canQueue s := rfl
  have quiet' : (s.onDrawer w f).host.busIn = none := quiet
  unfold give place
  rw [sameWrite, sameQueue]
  split
  · simp only [writeEntry, access_quiet quiet, access_quiet quiet', if_true, ← closeGate_onDrawer]
    rfl
  · split <;> rw [← closeGate_onDrawer] <;> rfl

/-- A change of a drawer leaves the Journal Writer as it stands. -/
theorem SameJournal.onDrawer {s t : State} (h : SameJournal s t) (w : Window) (f : Drawer → Drawer) :
    SameJournal s (t.onDrawer w f) :=
  ⟨h.journal, h.ring, h.alerts, h.state, h.base, h.offset, h.day, h.clock⟩

/-- Before an accepted order's changes the Journal Writer stands as it did at the offer. -/
theorem takenState_sameJournal (s : State) (r : OrderRule) (o : OrderHdr) (b : OrderBody) (src : Source) :
    SameJournal s (takenState s r o b src) := by
  constructor <;> simp [takenState, advanceTag, markTaken, openContext]

/-- Before an accepted order's changes nothing but the exchange and host memory differs from the offer, and no access error
has come. -/
theorem takenState_frame (s : State) (r : OrderRule) (o : OrderHdr) (b : OrderBody) (src : Source) :
    ∃ x h, takenState s r o b src = { s with exch := x, host := h } ∧ h.busIn = s.host.busIn := by
  simp only [takenState, advanceTag, markTaken, openContext, State.onExch, State.onSweep, State.onHost]
  exact ⟨_, _, rfl, rfl⟩

/-! ### The Till Unit's part in the take (R154, R155, R158) -/

/-- With no live job and no suspense a drawer that has begun its cash-up meets the cash-up condition. -/
theorem beginCashUp_settled {d : Drawer} (live : d.live = 0) (suspense : d.suspense = 0) (p : PendingCashUp) :
    (d.beginCashUp p).settled = true := decide_eq_true ⟨rfl, live, suspense⟩

/-- A cash-up that completes at its take gives its entry and closes the drawer. -/
theorem applyCashUp_settled {s : State} {w : Window} (quiet : s.host.busIn = none) (live : s.till[w].live = 0)
    (suspense : s.till[w].suspense = 0) (p : PendingCashUp) :
    applyCashUp w p s =
      give (cashUpEntry w s.till[w] s.office.settings.tolerance p.declared) (s.onDrawer w Drawer.close) := by
  have begun : (s.onDrawer w fun d => d.beginCashUp p).till[w] = s.till[w].beginCashUp p := Table.upd_same _ _ _
  simp only [applyCashUp, begun, beginCashUp_settled live suspense, if_true]
  rw [← give_onDrawer (s := s.onDrawer w fun d => d.beginCashUp p) quiet, State.onDrawer_onDrawer]
  rfl

/-- A cash-up that completes at its take is answered CASHED_UP within it. -/
theorem cashUpReply_settled {s : State} {w : Window} (live : s.till[w].live = 0) (suspense : s.till[w].suspense = 0)
    (p : PendingCashUp) :
    cashUpReply w p s = some fun _ => (.cashedUp, cashUpFields s.till[w] s.office.settings.tolerance p.declared) := by
  simp only [cashUpReply, beginCashUp_settled live suspense, if_true]
  rfl

/-- Declared amounts that each lie in range pass the check. -/
theorem declaredOk_of_le {decl : ByTender Nat} (h : ∀ T : Tender, decl.get T ≤ Config.maxAccumulator) :
    declaredOk decl = true := decide_eq_true ⟨h .cash, h .card, h .warrant, h .voucher⟩

/-- The owner to which a CASH-UP is given at its take (R154). -/
def cashUpOwner (i : SlotNo) (decl : ByTender Nat) (src : Source) (tag : Tag) (_ : Option (List Byte)) (s : State) : Verdict :=
  forWindow src fun w => cashUpVerdict ⟨i, tag, decl⟩ w s

/-- A CASH-UP is a take whose owner is `cashUpOwner`. -/
theorem exec_cashUp (o : OrderHdr) (decl : ByTender Nat) (e : Env) (s : State) :
    exec (.cashUp o decl e) s = .next (takeOrder cashUpRule o (.cashUp decl) e (cashUpOwner o.slot decl) s) := rfl

/-- The verdict on a CASH-UP that a window's OPEN drawer takes and settles at once (R43, R154). -/
theorem Takeable.cashUp_verdict {s : State} {o : OrderHdr} {decl : ByTender Nat} {w : Window} {tag : Tag}
    (h : Takeable s o.slot w.castSucc tag) (opened : s.till[w].state = .opened)
    (inRange : ∀ T : Tender, decl.get T ≤ Config.maxAccumulator) (live : s.till[w].live = 0)
    (suspense : s.till[w].suspense = 0) :
    verdictOf cashUpRule o w.castSucc (cashUpOwner o.slot decl w.castSucc tag) s =
      .accept (applyCashUp w ⟨o.slot, tag, decl⟩)
        (some fun _ => (.cashedUp, cashUpFields s.till[w] s.office.settings.tolerance decl)) := by
  rw [h.verdict rfl (decide_eq_true w.isLt), cashUpOwner, forWindow_window, cashUpVerdict, opened]
  simp only [declaredOk_of_le inRange, cashUpReply_settled live suspense, if_true]

/-- Settles O11: `Takeable.cashUp_verdict` is the take's verdict, `applyCashUp_settled` its changes as one entry given, and
`cashLines_reconciled` what the figures are. -/
theorem cashUpCompletes : Obligations.CashUpCompletes := by
  intro s o decl w tag takeable opened inRange live suspense
  have verdict := takeable.cashUp_verdict opened inRange live suspense
  obtain ⟨x, h, frame, quiet⟩ := takenState_frame s cashUpRule o (.cashUp decl) w.castSucc
  have changes : applyCashUp w ⟨o.slot, tag, decl⟩ (takenState s cashUpRule o (.cashUp decl) w.castSucc) =
      giveAll [cashUpEntry w s.till[w] s.office.settings.tolerance decl]
        ((takenState s cashUpRule o (.cashUp decl) w.castSucc).onDrawer w Drawer.close) := by
    rw [frame]
    exact applyCashUp_settled (s := { s with exch := x, host := h }) (quiet.trans takeable.quiet) live suspense _
  obtain ⟨t, taken, rest, gives, answers⟩ := takeOrder_gives takeable.toOffers verdict changes ⟨rfl, rfl⟩
    ((takenState_sameJournal ..).onDrawer w Drawer.close) takeable.quiet
  rw [frame] at rest answers
  have till : t.till = s.till.upd w Drawer.close := congrArg State.till rest
  refine ⟨t, cashLines s.till[w] s.office.settings.tolerance decl, (exec_cashUp ..).trans (congrArg _ taken),
    cashLines_reconciled _ _ _, ?_, ?_, ?_, gives, answers⟩
  · rw [till]
    exact rest
  · intro v other
    rw [till]
    exact Table.upd_ne _ _ _ _ other
  · rw [till]
    exact Table.upd_same _ _ _

end Sys2Proof.Machine
end

section
/-! What every command leaves: each has a next state, which keeps the queue of commands and the forms of `Keeps`; the
owners' verdicts are gone through once. -/

namespace Sys2Proof.Machine

/-- The command has a next state, and it keeps the queue and the forms that hold at every moment. -/
def Completes (s : State) (r : Host.Outcome State Fault Refusal) : Prop := ∃ t, r = .next t ∧ Keeps s t

theorem Completes.of_keeps {s t : State} (h : Keeps s t) : Completes s (.next t) := ⟨t, rfl, h⟩

namespace Keeps

/-! ### The owners' verdicts -/

theorem officeOpenVerdict (b : OpenBody) (s : State) : Sound (officeOpenVerdict b s) := by
  unfold Machine.officeOpenVerdict
  split
  · exact refuse _
  · split
    · exact refuse _
    · split
      · exact acceptDone (applyOfficeOpen b _) _
      · exact refuse _

theorem dayCloseVerdict (s : State) : Sound (dayCloseVerdict s) := by
  unfold Machine.dayCloseVerdict
  split
  · exact refuse _
  · exact acceptDone applyDayClose _

/-- Records that pass the check of the indexes write no entry 0 (R24). -/
theorem index_ne_zero {rs : List DiscountRec} (h : discountRefusal rs = none) : ∀ r ∈ rs, r.index ≠ 0 := by
  intro r hr zero
  have named : (rs.any fun r => decide (r.index = 0)) = true := List.any_eq_true.2 ⟨r, hr, decide_eq_true zero⟩
  unfold discountRefusal at h
  rw [named] at h
  split at h <;> simp at h

theorem setDiscountsVerdict (n : Nat) (att : Option (List Byte)) : Sound (setDiscountsVerdict n att) := by
  unfold Machine.setDiscountsVerdict
  split
  · exact refuse _
  · split
    · dsimp only
      split
      · exact refuse _
      · rename_i passed
        exact acceptDone (applyDiscounts (index_ne_zero passed)) _
    · exact refuse _

theorem setRefundFeesVerdict (ps : List (Nat × Nat)) (s : State) : Sound (setRefundFeesVerdict ps s) := by
  unfold Machine.setRefundFeesVerdict
  split
  · exact refuse _
  · exact acceptDone (applyFees ps) _

theorem setLayoutVerdict (n : Nat) (att : Option (List Byte)) : Sound (setLayoutVerdict n att) := by
  unfold Machine.setLayoutVerdict
  split
  · exact refuse _
  · dsimp only
    split
    · exact refuse _
    · split
      · exact refuse _
      · exact acceptDone (applyLayout n _) _

theorem stockReceiveVerdict (k f c : Nat) (s : State) : Sound (stockReceiveVerdict k f c s) := by
  unfold Machine.stockReceiveVerdict receiveVerdict
  split
  · exact refuse _
  · split
    · split
      · exact refuse _
      · split
        · exact refuse _
        · split
          · exact refuse _
          · exact acceptDone (applyReceive _ f c _) _
    · exact refuse _

theorem magazineLoadVerdict (l k f c : Nat) (s : State) : Sound (magazineLoadVerdict l k f c s) := by
  unfold Machine.magazineLoadVerdict loadVerdict
  split
  · split
    · split
      · exact refuse _
      · split
        · exact refuse _
        · split
          · exact refuse _
          · split
            · exact refuse _
            · split
              · exact refuse _
              · exact acceptDone (applyLoad _ _ f c) _
    · exact refuse _
  · exact refuse _

theorem magazineUnloadVerdict (l : Nat) (s : State) : Sound (magazineUnloadVerdict l s) := by
  unfold Machine.magazineUnloadVerdict unloadVerdict
  split
  · exact refuse _
  · split
    · exact refuse _
    · split
      · exact refuse _
      · split
        · exact refuse _
        · exact acceptDone (applyUnload _ _ _) _

theorem laneStartVerdict (l : Nat) (s : State) : Sound (laneStartVerdict l s) := by
  unfold Machine.laneStartVerdict startVerdict
  split
  · exact refuse _
  · split
    · exact refuse _
    · exact refuse _
    · exact refuse _
    · exact refuse _
    · exact acceptDone (toStarting _ _) _
    · exact acceptDone (toStarting _ _) _

theorem parkVerdict (l : Lane) (s : State) : Sound (parkVerdict l s) := by
  have parks : Sound (if laneHolds s l then .refuse .laneBusy
      else Machine.acceptDone (Machine.park l .supervisor .supervisor) (.lane l (.parked .supervisor))) := by
    split
    · exact refuse _
    · exact acceptDone (park l _ _) _
  unfold Machine.parkVerdict
  split
  · exact refuse _
  · exact refuse _
  · exact acceptDone (fun s => onLane s l id) _
  · exact parks
  · exact parks
  · exact parks

theorem laneParkVerdict (l : Nat) (s : State) : Sound (laneParkVerdict l s) := by
  unfold Machine.laneParkVerdict
  split
  · exact refuse _
  · exact parkVerdict _ s

theorem faultClearVerdict (b : ClearBody) (s : State) : Sound (faultClearVerdict b s) := by
  unfold Machine.faultClearVerdict clearVerdict
  split
  · exact refuse _
  · split
    · exact refuse _
    · split
      · split
        · exact refuse _
        · rintro change reply ⟨⟩
          exact applyFaultClear _ b
      · exact refuse _

theorem shiftOpenVerdict (c f h : Nat) (a : Option Nat) (w : Window) (s : State) : Sound (shiftOpenVerdict c f h a w s) := by
  unfold Machine.shiftOpenVerdict
  split
  · exact refuse _
  · split
    · split
      · exact refuse _
      · split
        · exact refuse _
        · exact acceptDone (applyShiftOpen w c f _ _) _
    · exact refuse _

theorem issueLaneVerdict (o : OrderHdr) (tag : Tag) (w : Window) (f : IssueFields) (items : List Text) (s : State) :
    Sound (issueLaneVerdict o tag w f items s) := by
  unfold Machine.issueLaneVerdict
  split
  · exact refuse _
  · split
    · exact refuse _
    · split
      · exact refuse _
      · split
        · exact refuse _
        · split
          · exact refuse _
          · split
            · rintro change reply ⟨⟩
            · rintro change reply ⟨⟩
              exact applyIssue o tag w _ f _ items _

theorem issueVerdict (o : OrderHdr) (tag : Tag) (b : IssueBody) (att : Option (List Byte)) (w : Window) (s : State) :
    Sound (issueVerdict o tag b att w s) := by
  unfold Machine.issueVerdict issueFormVerdict
  split
  · exact refuse _
  · exact refuse _
  · split
    · exact refuse _
    · split
      · exact refuse _
      · split
        · exact refuse _
        · exact issueLaneVerdict o tag w _ _ s

theorem voidVerdict (k n : Nat) (w : Window) (s : State) : Sound (voidVerdict k n w s) := by
  unfold Machine.voidVerdict voidEntryVerdict
  split
  · exact refuse _
  · exact refuse _
  · split
    · exact refuse _
    · split
      · split
        · exact refuse _
        · split
          · exact refuse _
          · split
            · exact refuse _
            · exact acceptDone (applyVoid w _) _
      · exact refuse _

theorem refundVerdict (k n r : Nat) (w : Window) (s : State) : Sound (refundVerdict k n r w s) := by
  unfold Machine.refundVerdict refundEntryVerdict
  split
  · exact refuse _
  · exact refuse _
  · split
    · split
      · split
        · exact refuse _
        · split
          · exact refuse _
          · exact acceptDone (applyRefund w _ _ _) _
      · exact refuse _
    · exact refuse _

theorem cashUpVerdict (p : PendingCashUp) (w : Window) (s : State) : Sound (cashUpVerdict p w s) := by
  unfold Machine.cashUpVerdict
  split
  · exact refuse _
  · exact refuse _
  · split
    · rintro change reply ⟨⟩
      exact applyCashUp w p
    · exact refuse _

theorem withdrawVerdict (w : Window) (s : State) : Sound (withdrawVerdict w s) := by
  unfold Machine.withdrawVerdict
  split
  · exact acceptDone (applyWithdraw w) _
  · exact refuse _
  · exact refuse _

theorem cashUpWithdrawOwner (src : Source) (n : Nat) (s : State) :
    Sound (match withdrawWindow src n with
      | none => .refuse .outOfRange
      | some w => Machine.withdrawVerdict w s) := by
  split
  · exact refuse _
  · exact withdrawVerdict _ s

/-! ### Register writes and the events of Office Control -/

theorem writeRegister (off : Nat) (v : BitVec 64) (s : State) : Keeps s (writeRegister off v s) := by
  unfold Machine.writeRegister
  refine ite (fun _ => onExch s _) fun _ => ite (fun _ => ?_) fun _ => ite (fun _ => onExch s _) fun _ =>
    ite (fun _ => onExch s _) fun _ => ite (fun _ => onAlerts s _) fun _ => refl s
  exact ite (fun _ => doReset .soft s) fun _ => onExch s _

theorem sampleLane (l : Lane) (s : State) : Keeps s (sampleLane l s) :=
  onAct s l fun ⟨a, _, c, d, e, g⟩ => ⟨a, satAdd_le _ _ _, c, d, e, g⟩

theorem cutBy (cut : Option ResetKind) (s : State) : Keeps s (cutBy cut s) := by
  unfold Machine.cutBy
  split
  · exact refl s
  · exact doReset _ s

theorem pulseUnderLevels (l : Lane) (e : LineEvent) (s : State) :
    Keeps s (Machine.withBus e.bus (fun s => Machine.stepPulse l (Machine.setPins l e.pins s)) s) :=
  withBus e.bus (fun s => (setPins l e.pins s).trans (stepPulse l _)) s

/-- Every command has a next state, with the queue as it was and the forms kept. -/
theorem exec (c : Instr) (s : State) : Completes s (Machine.exec c s) := by
  refine match c with
  | .officeOpen o b e => .of_keeps (takeOrder (fun _ _ _ => officeOpenVerdict b) o _ e s)
  | .dayClose o e => .of_keeps (takeOrder (fun _ _ _ => dayCloseVerdict) o _ e s)
  | .setDiscounts o n e => .of_keeps (takeOrder (fun _ _ att _ => setDiscountsVerdict n att) o _ e s)
  | .setRefundFees o ps e => .of_keeps (takeOrder (fun _ _ _ => setRefundFeesVerdict ps) o _ e s)
  | .setLayout o n e => .of_keeps (takeOrder (fun _ _ att _ => setLayoutVerdict n att) o _ e s)
  | .stockReceive o k f n e => .of_keeps (takeOrder (fun _ _ _ => stockReceiveVerdict k f n) o _ e s)
  | .magazineLoad o l k f n e => .of_keeps (takeOrder (fun _ _ _ => magazineLoadVerdict l k f n) o _ e s)
  | .magazineUnload o l e => .of_keeps (takeOrder (fun _ _ _ => magazineUnloadVerdict l) o _ e s)
  | .laneStart o l e => .of_keeps (takeOrder (fun _ _ _ => laneStartVerdict l) o _ e s)
  | .lanePark o l e => .of_keeps (takeOrder (fun _ _ _ => laneParkVerdict l) o _ e s)
  | .faultClear o b e => .of_keeps (takeOrder (fun _ _ _ => faultClearVerdict b) o _ e s)
  | .shiftOpen o n f h a e =>
    .of_keeps (takeOrder (fun _ _ _ s => forWindow fun w => shiftOpenVerdict n f h a w s) o _ e s)
  | .issue o b e => .of_keeps (takeOrder (fun _ tag att s => forWindow fun w => issueVerdict o tag b att w s) o _ e s)
  | .void o k n e => .of_keeps (takeOrder (fun _ _ _ s => forWindow fun w => voidVerdict k n w s) o _ e s)
  | .refund o k n r e => .of_keeps (takeOrder (fun _ _ _ s => forWindow fun w => refundVerdict k n r w s) o _ e s)
  | .cashUp o d e => .of_keeps (takeOrder (fun _ _ _ s => forWindow fun w => cashUpVerdict _ w s) o _ e s)
  | .cashUpWithdraw o n e => .of_keeps (takeOrder (fun src _ _ s => cashUpWithdrawOwner src n s) o _ e s)
  | .statusRead o d n e =>
    .of_keeps (takeOrder (fun _ _ _ _ => by rintro change reply ⟨⟩; exact writeSnapshot d n) o _ e s)
  | .unknownOrderKind o n e => .of_keeps (takeUnknown o n e s)
  | .sweepTimerExpiry => .of_keeps (onExch s _)
  | .sweepRequest _ => .of_keeps (onExch s _)
  | .sweep n r hs e => .of_keeps ((withBus e.bus (sweepSteps n r.toNat hs) s).trans (cutBy e.cut _))
  | .areaBaseWrite _ => .of_keeps (onExch s _)
  | .exchangeEnableSet => .of_keeps (onExch s _)
  | .exchangeEnableClear => .of_keeps (onExch s _)
  | .softReset => .of_keeps (doReset .soft s)
  | .noticeEnableWrite _ _ _ => .of_keeps (onExch s _)
  | .alertClear _ => .of_keeps (onAlerts s _)
  | .registerWrite off v => .of_keeps (writeRegister off v s)
  | .exchangeStart n o r bus => .of_keeps (withBus bus (startExchangeArea n.toNat o.toNat r.toNat) s)
  | .powerOn => .of_keeps (doReset .powerOn s)
  | .resetLine => .of_keeps (doReset .resetLine s)
  | .linkReset => .of_keeps (doReset .linkReset s)
  | .backupGoodChange _ => .of_keeps (onOffice s _)
  | .startUpEnd => .of_keeps (endStartUp s)
  | .officeClockTick => .of_keeps (onOffice s _)
  | .queueOccupancySample => .of_keeps (forLanes sampleLane s)
  | .pollTimerExpiry l p => .of_keeps (pollTimer l p s)
  | .lbyRelease l low => .of_keeps (busyReleased l low s)
  | .stretchLimit l bus => .of_keeps (withBus bus (abandonAt l _ _) s)
  | .clearPulseLimit l bus => .of_keeps (withBus bus (abandonAt l _ _) s)
  | .frameSent l => .of_keeps (frameEnds l s)
  | .responseTimeout l p bus => .of_keeps (withBus bus (failsAt l _ p) s)
  | .reportBad l p bus => .of_keeps (withBus bus (failsAt l _ p) s)
  | .malformedReport l p bus => .of_keeps (withBus bus (malformedEnds l p) s)
  | .capacity l _ _ _ _ p bus => .of_keeps (reportEnds l _ p bus s)
  | .nothing l p bus => .of_keeps (reportEnds l _ p bus s)
  | .accepted l _ _ p bus => .of_keeps (reportEnds l _ p bus s)
  | .printed l _ _ p bus => .of_keeps (reportEnds l _ p bus s)
  | .ejected l _ _ p bus => .of_keeps (reportEnds l _ p bus s)
  | .spoiled l _ _ _ p bus => .of_keeps (reportEnds l _ p bus s)
  | .flushed l _ _ p bus => .of_keeps (reportEnds l _ p bus s)
  | .jammed l _ p bus => .of_keeps (reportEnds l _ p bus s)
  | .outOfStock l _ p bus => .of_keeps (reportEnds l _ p bus s)
  | .step l e => .of_keeps (pulseUnderLevels l e s)
  | .missedMarkLimit l e => .of_keeps (ite (fun _ => pulseUnderLevels l e s) fun _ => refl s)
  | .mark l e => .of_keeps (withBus e.bus (fun s => (setPins l e.pins s).trans (markEdge l _)) s)
  | .patienceExpiry x => .of_keeps ((setLines x.lines s).trans (patienceEnds x.lane _))
  | .reportStart l => .of_keeps (reportBegins l s)
  | .ldiIdleAfterPulse l n bus => .of_keeps (withBus bus (idleAfter l n) s)

end Keeps

/-- Settles O16: `Keeps.exec` goes through the commands. -/
theorem everyCommandCompletes : Obligations.EveryCommandCompletes := fun c s =>
  let ⟨t, runs, keeps⟩ := Keeps.exec c s
  ⟨t, runs, keeps.pending⟩

/-- Settles O15: the two cases of the queue. -/
theorem stepRunsFrontCommand : Obligations.StepRunsFrontCommand := by
  refine ⟨fun c rest s queued => ?_, fun s idle => ?_⟩
  · rw [step, queued]
  · rw [step, idle]

/-! ### A step -/

/-- A property of states that the length of the queue does not touch and that every command keeps is kept by every step. -/
theorem step_keeps {P : State → Prop} (queue : ∀ s rest, P s → P { s with pending := rest })
    (command : ∀ c s t, P s → exec c s = .next t → P t) (s t : State) (h : P s) (stepped : step s = .next t) : P t := by
  rcases queued : s.pending with _ | ⟨c, rest⟩
  · rw [stepRunsFrontCommand.2 s queued] at stepped
    cases stepped
    exact h
  · rw [stepRunsFrontCommand.1 c rest s queued] at stepped
    exact command c _ t (queue s rest h) stepped

/-- What a command leaves, in the form in which it is used. -/
theorem exec_keeps {c : Instr} {s t : State} (runs : exec c s = .next t) : Keeps s t := by
  obtain ⟨u, runs', keeps⟩ := Keeps.exec c s
  cases runs.symm.trans runs'
  exact keeps

/-- Settles O17: none of the three forms looks at the queue, and `exec_keeps` keeps each. -/
theorem stepKeepsTablesAndJournal : Obligations.StepKeepsTablesAndJournal :=
  ⟨step_keeps (P := FixedTables) (fun _ _ h => h) fun _ _ _ h runs => (exec_keeps runs).tables h,
    step_keeps (P := RingForm) (fun _ _ h => h) fun _ _ _ h runs => (exec_keeps runs).ring h,
    step_keeps (P := GateForm) (fun _ _ h => h) fun _ _ _ h runs => (exec_keeps runs).gate h⟩

/-- Settles O18: the counters do not look at the queue, and `exec_keeps` keeps their bounds. -/
theorem stepKeepsCountersBounded : Obligations.StepKeepsCountersBounded :=
  step_keeps (P := CountersBounded) (fun _ _ h => h) fun _ _ _ h runs => (exec_keeps runs).counters h

end Sys2Proof.Machine
end

section
/-! The registers, the attention line and the enabling of the exchange (R36, R38, R50 to R53), and the passing of time (R94,
R170). -/

namespace Sys2Proof.Machine

/-! ### Lane by lane -/

/-- Lane-by-lane changes that each touch only their own lane give every lane its own change. -/
theorem foldl_lanes {f : Lane → State → State} {g : Lane → State → LaneRec → LaneRec}
    (own : ∀ l s, f l s = s.onLane l (g l s)) (same : ∀ l m s h, m ≠ l → g m (s.onLane l h) = g m s) :
    ∀ (ls : List Lane) (s : State), ls.Nodup → ls.foldl (fun s l => f l s) s = { s with lanes := (ls.foldl (fun s l => f l s) s).lanes } ∧
      ∀ m : Lane, (ls.foldl (fun s l => f l s) s).lanes[m] = if m ∈ ls then g m s s.lanes[m] else s.lanes[m]
  | [], s, _ => ⟨rfl, fun m => by simp⟩
  | l :: ls, s, nodup => by
    obtain ⟨fresh, nodup⟩ := List.nodup_cons.1 nodup
    obtain ⟨rest, lanes⟩ := foldl_lanes own same ls (f l s) nodup
    rw [List.foldl_cons]
    refine ⟨by rw [rest, own]; rfl, fun m => ?_⟩
    rw [lanes m, own]
    by_cases here : m = l
    · subst here
      rw [if_neg fresh, if_pos List.mem_cons_self, State.onLane_same]
    · rw [State.onLane_ne _ _ here, same l m s _ here]
      simp only [List.mem_cons, here, false_or]

/-- A change of every lane in turn, each by its own record. -/
theorem forLanes_own {f : Lane → State → State} {g : Lane → State → LaneRec → LaneRec} (own : ∀ l s, f l s = s.onLane l (g l s))
    (same : ∀ l m s h, m ≠ l → g m (s.onLane l h) = g m s) (s : State) :
    forLanes f s = { s with lanes := (forLanes f s).lanes } ∧ ∀ m : Lane, (forLanes f s).lanes[m] = g m s s.lanes[m] := by
  obtain ⟨rest, lanes⟩ := foldl_lanes own same (List.finRange 8) s (List.nodup_finRange 8)
  exact ⟨rest, fun m => (lanes m).trans (if_pos (List.mem_finRange m))⟩

/-! ### Time (R94, R170, R173) -/

/-- The record of a lane after a sample of its queue occupancy. -/
def sampled (l : Lane) (s : State) (r : LaneRec) : LaneRec :=
  match r.state with
  | .parked _ => r
  | _ => { r with act := { r.act with occupancy := satAdd Config.max32 r.act.occupancy s.lanes[l].queue.length } }

theorem sampled_parked {l : Lane} {s : State} {r : LaneRec} {p : ParkReason} (h : r.state = .parked p) : sampled l s r = r := by
  simp only [sampled, h]

theorem sampled_of_not_parked {l : Lane} {s : State} {r : LaneRec} (h : ∀ p, r.state ≠ .parked p) :
    sampled l s r = { r with act := { r.act with occupancy := satAdd Config.max32 r.act.occupancy s.lanes[l].queue.length } } := by
  unfold sampled
  split
  · exact absurd ‹_› (h _)
  · rfl

/-- Settles O25: a sample goes lane by lane, and the two other events change Office Control alone. -/
theorem timePasses : Obligations.TimePasses := by
  intro s
  refine ⟨⟨_, rfl, rfl, ?_⟩, fun good => ⟨_, rfl, rfl, rfl⟩, ?_⟩
  · show s.office.tick = _
    rcases none_or_some : s.office.startUp with _ | u <;> simp [OfficeControl.tick, none_or_some]
  · obtain ⟨rest, lanes⟩ := forLanes_own (f := sampleLane) (g := sampled) (fun l s => rfl)
      (fun l m s h other => by funext r; simp only [sampled, State.onLane_ne _ _ other]) s
    refine ⟨_, rfl, rest, fun l => ⟨fun p parked => ?_, fun notParked => ?_⟩⟩
    · rw [lanes, sampled_parked parked]
    · rw [lanes, sampled_of_not_parked notParked]
      rfl

/-! ### The registers as written (R36, R38, R39, R50, R51, R53) -/

theorem writeEnable_true (x : ExchangeController) :
    x.writeEnable true = if x.enable then x else
      { x with enable := true, state := if x.state = .stopped then .starting else x.state } := by
  unfold ExchangeController.writeEnable
  cases x.enable <;> rfl

theorem writeEnable_false (x : ExchangeController) :
    x.writeEnable false = if x.enable = false then x
      else if x.sweep.isSome then { x with enable := false, stopAtEnd := true }
      else { x with enable := false, state := .stopped, timer := none, again := false } := by
  unfold ExchangeController.writeEnable ExchangeController.clearEnable
  cases x.enable <;> rfl

theorem writeBase_eq (x : ExchangeController) (v : BitVec 64) :
    x.writeBase v = { x with areaBase := if x.state = .stopped then v else x.areaBase } := by
  unfold ExchangeController.writeBase
  split <;> rfl

theorem timerSweep_eq (x : ExchangeController) :
    timerSweep x = if x.state = .running ∧ x.sweep = none ∧ x.timer ≠ none then
      { x with sweep := some Sweep.fresh, timer := none, again := false } else x := by
  simp only [timerSweep, ← Option.isSome_iff_ne_none]
  rfl

theorem requestSweep_eq (x : ExchangeController) :
    requestSweep x = if x.state ≠ .running then x
      else if x.sweep ≠ none then { x with again := true }
      else { x with sweep := some Sweep.fresh, timer := none, again := false } := by
  simp only [requestSweep, ← Option.isSome_iff_ne_none]
  by_cases running : x.state = .running
  · rw [if_pos running, if_neg (not_not_intro running)]
    rfl
  · rw [if_neg running, if_pos running]

/-- A Run Control write that is no reset is a write of the enable bit and one of the notice enables. -/
theorem writeRunControl_eq {v : BitVec 64} (h : v.getLsbD 1 = false) (s : State) :
    writeRunControl v s =
      (s.onExch fun x => x.writeEnable (v.getLsbD 0)).onExch fun x =>
        x.writeNotices (v.getLsbD 4) (v.getLsbD 5) (v.getLsbD 6) := by
  simp only [writeRunControl, h, Bool.false_eq_true, if_false]
  rfl

/-- A write to Notice Status clears the flags of its four bits. -/
theorem clearBits_setWidth (a : Alerts) (v : BitVec 64) :
    a.clearBits (v.setWidth 32) =
      ⟨a.lane && !v.getLsbD 16, a.pressure && !v.getLsbD 17, a.busFault && !v.getLsbD 18, a.retentionLost && !v.getLsbD 19⟩ := by
  simp [Alerts.clearBits]

/-- Settles O33: each register's write as its own change of the exchange. -/
theorem registerWritesAndSweepStarts : Obligations.RegisterWritesAndSweepStarts := by
  intro s v
  refine ⟨⟨_, rfl, rfl, rfl, writeBase_eq _ v⟩, fun reset => ?_, fun noReset => ?_, fun a j n => ⟨_, rfl, rfl⟩, ⟨_, rfl, rfl⟩, rfl,
    ⟨_, rfl, rfl, ?_⟩, fun off unnamed => ?_, ⟨_, rfl, rfl, writeEnable_true _⟩, ⟨_, rfl, rfl, writeEnable_false _⟩,
    ⟨_, rfl, rfl, timerSweep_eq _⟩, fun r => ⟨_, rfl, rfl, requestSweep_eq _⟩⟩
  · exact congrArg Host.Outcome.next (if_pos reset)
  · refine ⟨_, s.onExch fun x => x.writeEnable (v.getLsbD 0), congrArg Host.Outcome.next (writeRunControl_eq noReset s), ?_, rfl⟩
    cases v.getLsbD 0 <;> rfl
  · show (s.onAlerts fun a => a.clearBits (v.setWidth 32)) = _
    rw [← clearBits_setWidth]
    rfl
  · simp only [List.mem_cons, List.not_mem_nil, or_false, not_or] at unnamed
    obtain ⟨base, control, period, request, notices⟩ := unnamed
    show Host.Outcome.next (writeRegister off v s) = _
    rw [writeRegister, if_neg base, if_neg control, if_neg period, if_neg request, if_neg notices]

/-! ### The registers as read and the attention line (R47, R51, R53) -/

theorem unreturned_eq (s : State) : unreturned s = (List.finRange 64).countP fun i => s.exch.marks[i] := by
  have marks : s.exch.marks.toList = (List.finRange 64).map fun i => s.exch.marks[i] := by
    apply List.ext_getElem <;> simp
  rw [unreturned, marks, List.countP_map]
  rfl

theorem unreturned_le (s : State) : unreturned s ≤ 64 := by
  rw [unreturned_eq]
  exact List.countP_le_length.trans_eq (List.length_finRange)

theorem unreturned_pos (s : State) : 0 < unreturned s ↔ ∃ i : SlotNo, s.exch.marks[i] = true := by
  rw [unreturned_eq, List.countP_pos_iff]
  simp

theorem bitAt_eq (b : Bool) (n : Nat) : bitAt b n = b.toNat * 2 ^ n := by
  cases b <;> simp [bitAt]

/-- A bit of a number spelt by four flags. -/
theorem testBit_four (a b c d : Bool) (n : Nat) :
    (a.toNat + 2 * b.toNat + 4 * c.toNat + 8 * d.toNat).testBit n = true ↔
      n = 0 ∧ a = true ∨ n = 1 ∧ b = true ∨ n = 2 ∧ c = true ∨ n = 3 ∧ d = true := by
  by_cases low : n < 4
  · interval_cases n <;> revert a b c d <;> decide
  · have small : a.toNat + 2 * b.toNat + 4 * c.toNat + 8 * d.toNat < 2 ^ n := by
      calc _ < 2 ^ 4 := by have := a.toNat_le; have := b.toNat_le; have := c.toNat_le; have := d.toNat_le; omega
        _ ≤ 2 ^ n := Nat.pow_le_pow_right (by decide) (by omega)
    rw [Nat.testBit_lt_two_pow small]
    have : n ≠ 0 ∧ n ≠ 1 ∧ n ≠ 2 ∧ n ≠ 3 := by omega
    simp [this]

/-- The bits of Run Control: the enable bit at 0 and the notice enables from 4 on. -/
theorem runControl_testBit (x : ExchangeController) (n : Nat) :
    (runControl x).testBit n = true ↔ n = 0 ∧ x.enable = true ∨ n = 4 ∧ x.answerNotice = true ∨
      n = 5 ∧ x.journalNotice = true ∨ n = 6 ∧ x.alertNotice = true := by
  have split : runControl x =
      2 ^ 4 * (x.answerNotice.toNat + 2 * x.journalNotice.toNat + 4 * x.alertNotice.toNat + 8 * false.toNat) + x.enable.toNat := by
    simp only [runControl, bitAt_eq, Bool.toNat_false]
    omega
  have small : x.enable.toNat < 2 ^ 4 := lt_of_le_of_lt x.enable.toNat_le (by decide)
  rw [split, Nat.testBit_two_pow_mul_add _ small]
  by_cases low : n < 4
  · rw [if_pos low]
    have enable := testBit_four x.enable false false false n
    simp only [Bool.toNat_false, Nat.mul_zero, Nat.add_zero, Bool.false_eq_true, and_false, or_false] at enable
    have : n ≠ 4 ∧ n ≠ 5 ∧ n ≠ 6 := by omega
    simp [enable, this]
  · rw [if_neg low, testBit_four]
    have : n ≠ 0 ∧ (n - 4 = 0 ↔ n = 4) ∧ (n - 4 = 1 ↔ n = 5) ∧ (n - 4 = 2 ↔ n = 6) := by omega
    simp [this]

/-- Notice Status, with its alert flags apart from what lies below them. -/
theorem noticeStatus_split (s : State) :
    noticeStatus s = 2 ^ 16 * (s.exch.alerts.lane.toNat + 2 * s.exch.alerts.pressure.toNat + 4 * s.exch.alerts.busFault.toNat +
      8 * s.exch.alerts.retentionLost.toNat) + (unreturned s + 256 * s.exch.state.code + 4096 * resetCode s.office.cause) := by
  simp only [noticeStatus, bitAt_eq]
  omega

theorem code_le (e : ExState) : e.code ≤ 3 := by cases e <;> decide

theorem resetCode_le (k : ResetKind) : resetCode k ≤ 3 := by cases k <;> decide

/-- The alert flags of Notice Status (R50). -/
theorem noticeStatus_testBit (s : State) {n : Nat} (high : 16 ≤ n) :
    (noticeStatus s).testBit n = true ↔ n = 16 ∧ s.exch.alerts.lane = true ∨ n = 17 ∧ s.exch.alerts.pressure = true ∨
      n = 18 ∧ s.exch.alerts.busFault = true ∨ n = 19 ∧ s.exch.alerts.retentionLost = true := by
  have small : unreturned s + 256 * s.exch.state.code + 4096 * resetCode s.office.cause < 2 ^ 16 := by
    have := unreturned_le s
    have := code_le s.exch.state
    have := resetCode_le s.office.cause
    omega
  rw [noticeStatus_split, Nat.testBit_two_pow_mul_add _ small, if_neg (by omega), testBit_four]
  have : (n - 16 = 0 ↔ n = 16) ∧ (n - 16 = 1 ↔ n = 17) ∧ (n - 16 = 2 ↔ n = 18) ∧ (n - 16 = 3 ↔ n = 19) := by omega
  simp [this]

/-- The count, the exchange state and the reset cause of Notice Status, each at its place. -/
theorem noticeStatus_fields (s : State) :
    noticeStatus s % 256 = unreturned s ∧ noticeStatus s / 256 % 16 = s.exch.state.code ∧
      noticeStatus s / 4096 % 16 = resetCode s.office.cause := by
  have := unreturned_le s
  have := code_le s.exch.state
  have := resetCode_le s.office.cause
  rw [noticeStatus_split]
  omega

theorem attention_iff (s : State) : attention s = true ↔
    (s.exch.answerNotice = true ∧ 0 < unreturned s) ∨ (s.exch.journalNotice = true ∧ journalAwaits s.journal = true) ∨
      (s.exch.alertNotice = true ∧ s.exch.alerts.any = true) := by
  simp [attention, or_assoc]

theorem journalAwaits_iff (j : JournalWriter) : journalAwaits j = true ↔ ∃ r, j.release = some r ∧ r ≠ j.head := by
  cases h : j.release <;> simp [journalAwaits, h]

/-- Settles O34: the three conditions of the line, and each register by its places. -/
theorem attentionAndRegisters : Obligations.AttentionAndRegisters := by
  refine ⟨fun s => ?_, fun s => ⟨rfl, runControl_testBit s.exch, rfl, ⟨?_, ?_, ?_, fun n => noticeStatus_testBit s⟩, fun small => ?_,
    fun off unnamed => ?_⟩⟩
  · rw [attention_iff, unreturned_pos, journalAwaits_iff]
    simp only [Alerts.any, Bool.or_eq_true, or_assoc]
  · exact (noticeStatus_fields s).1.trans (unreturned_eq s)
  · rw [show readRegister s 0x14 = noticeStatus s from rfl, (noticeStatus_fields s).2.1]
    cases s.exch.state <;> rfl
  · rw [show readRegister s 0x14 = noticeStatus s from rfl, (noticeStatus_fields s).2.2]
    cases s.office.cause <;> rfl
  · rw [show readRegister s 0x18 = s.journal.head + 65536 * s.journal.pass.toNat from rfl]
    omega
  · simp only [List.mem_cons, List.not_mem_nil, or_false, not_or] at unnamed
    obtain ⟨base, control, period, notices, head⟩ := unnamed
    rw [readRegister, if_neg base, if_neg control, if_neg period, if_neg notices, if_neg head]

/-! ### The start of the exchange (R36, R38, R52, R177) -/

theorem usableCount_iff (n : Nat) : usableCount n = true ↔ ∃ e, 8 ≤ e ∧ e ≤ 13 ∧ n = 2 ^ e := by
  simp only [usableCount, List.contains_iff_mem, List.mem_cons, List.not_mem_nil, or_false]
  constructor
  · rintro (rfl | rfl | rfl | rfl | rfl | rfl)
    · exact ⟨8, by decide⟩
    · exact ⟨9, by decide⟩
    · exact ⟨10, by decide⟩
    · exact ⟨11, by decide⟩
    · exact ⟨12, by decide⟩
    · exact ⟨13, by decide⟩
  · rintro ⟨e, low, high, rfl⟩
    interval_cases e <;> decide

/-- Two accesses both succeed when no error is under way, or it comes at a later one. -/
theorem accesses_two (s : State) :
    (s.access.2 = true ∧ s.access.1.access.2 = true) ↔ ∀ b, s.host.busIn = some b → 2 ≤ b := by
  rcases h : s.host.busIn with _ | _ | _ | b <;> simp [State.access, h]

theorem setBus_setBus (s : State) (a b : Option Nat) : (s.setBus a).setBus b = s.setBus b := rfl

/-- An event that changes the journal and the exchange alone, with no access error under way before it. -/
theorem setBus_event {s : State} (quiet : s.host.busIn = none) (a : Option Nat) (f : JournalWriter → JournalWriter)
    (g : ExchangeController → ExchangeController) :
    (((s.setBus a).onJournal f).onExch g).setBus none = { s with journal := f s.journal, exch := g s.exch } := by
  have host : { s.host with busIn := none } = s.host := by rw [← quiet]
  simp only [State.setBus, State.onHost, State.onJournal, State.onExch, host]

/-- An exchange that starts from a usable header, both accesses good. -/
theorem startExchangeArea_good {s : State} {count offset release : Nat} (starting : s.exch.state = .starting) (up : s.up = true)
    (count_ok : usableCount count = true) (offset_ok : usableOffset offset = true)
    (good : s.access.2 = true ∧ s.access.1.access.2 = true) :
    startExchangeArea count offset release s =
      (s.access.1.access.1.onJournal fun j => j.resize count release).onExch fun x =>
        ({ x with latchedCount := count, latchedOffset := offset, state := .running } : ExchangeController).beginSweep := by
  simp [startExchangeArea, starting, up, count_ok, offset_ok, good.1, good.2]

/-- An exchange that cannot start meets a fault, at whichever of the reads. -/
theorem startExchangeArea_bad {s : State} {count offset release : Nat} (starting : s.exch.state = .starting) (up : s.up = true)
    (bad : ¬ ((usableCount count = true ∧ usableOffset offset = true) ∧ s.access.2 = true ∧ s.access.1.access.2 = true)) :
    ∃ b, startExchangeArea count offset release s = busFault (s.setBus b) := by
  have once := access_fst s
  have twice : s.access.1.access.1 = s.setBus (s.access.1.host.busIn.bind fun n => if n = 0 then none else some (n - 1)) := by
    conv_lhs => rw [access_fst s.access.1, once]
    rw [setBus_setBus, ← once]
  simp only [startExchangeArea, starting, up, and_self, if_true]
  split
  · exact ⟨_, by rw [once]⟩
  next first =>
    split
    · exact ⟨_, by rw [once]⟩
    next usable =>
      split
      · exact ⟨_, by rw [twice]⟩
      next second =>
        simp only [Bool.not_eq_eq_eq_not, Bool.not_true, Bool.not_eq_false, Bool.and_eq_true] at first usable second
        exact absurd ⟨usable, first, second⟩ bad

/-- Settles O35: the two outcomes of the reads, at whichever access an error comes. -/
theorem exchangeStarts : Obligations.ExchangeStarts := by
  intro s count offset release bus starting upNow quiet noStop
  have up : s.up = true := by rw [State.up, upNow]; rfl
  have readable : (s.setBus bus).access.2 = true ∧ (s.setBus bus).access.1.access.2 = true ↔ ∀ b, bus = some b → 2 ≤ b :=
    accesses_two (s.setBus bus)
  have usable : usableOffset offset.toNat = true ↔ 20480 ≤ offset.toNat ∧ offset.toNat % 4096 = 0 := decide_eq_true_iff
  refine ⟨_, rfl, fun ⟨count_ok, offset_low, offset_page, good⟩ => ?_, fun bad => ?_⟩
  · have starts := startExchangeArea_good (s := s.setBus bus) (release := release.toNat) starting up
      ((usableCount_iff _).2 count_ok) (usable.2 ⟨offset_low, offset_page⟩) (readable.2 good)
    rw [withBus, starts, access_fst, access_fst, setBus_setBus, setBus_setBus, setBus_event quiet]
    exact ⟨rfl, rfl, rfl⟩
  · have wrong : ¬ ((usableCount count.toNat = true ∧ usableOffset offset.toNat = true) ∧
        (s.setBus bus).access.2 = true ∧ (s.setBus bus).access.1.access.2 = true) := by
      rw [usableCount_iff, usable, readable]
      rintro ⟨⟨count_ok, offset_ok⟩, good⟩
      exact bad ⟨count_ok, offset_ok.1, offset_ok.2, good⟩
    obtain ⟨b, stops⟩ := startExchangeArea_bad (s := s.setBus bus) (release := release.toNat) starting up wrong
    have faulted : (busFault ((s.setBus bus).setBus b)).setBus none = { s with exch := (busFault s).exch } :=
      setBus_event quiet b id _
    rw [withBus, stops, faulted]
    exact ⟨rfl, by simp [busFault, noStop]⟩

end Sys2Proof.Machine
end

section
/-! Resets and restarts (R173 to R176), and the forms of the state after reset. -/

namespace Sys2Proof.Machine

/-! ### The state after reset -/

@[simp] theorem reset_lane (l : Lane) : State.reset.lanes[l] = LaneRec.off := by simp [State.reset]

@[simp] theorem reset_drawer (w : Window) : State.reset.till[w] = Drawer.empty := by simp [State.reset]

@[simp] theorem reset_record (l : Lane) : State.reset.faults.recs[l] = FaultRec.clear := by simp [State.reset, FaultTable.empty]

@[simp] theorem reset_mag (l : Lane) : State.reset.stock.mags[l] = none := by simp [State.reset, StockRegister.empty]

@[simp] theorem reset_counters (k : StockKind) : State.reset.stock.counters[k] = ⟨0, 0, 0, 0, 0⟩ := by
  simp [State.reset, StockRegister.empty]

theorem laneBound_off : LaneBound LaneRec.off := by
  refine ⟨?_, ?_, ?_, ?_, ?_, ?_⟩ <;> exact Nat.zero_le _

theorem drawerBound_empty : DrawerBound Drawer.empty :=
  ⟨fun T => by cases T <;> decide, by decide, by decide, by decide, by decide⟩

theorem faultBound_clear : FaultBound FaultRec.clear := fun _ h => nomatch h

theorem reset_countersBounded : CountersBounded State.reset :=
  ⟨fun l => by rw [reset_lane]; exact laneBound_off, fun w => by rw [reset_drawer]; exact drawerBound_empty,
    fun l => by rw [reset_record]; exact faultBound_clear⟩

/-- A lane that is OFF with nothing in it has the credits' form. -/
theorem creditForm_off : CreditForm LaneRec.off where
  unlinked := fun _ => rfl
  linked   := fun h => absurd h (by decide)
  printing := by decide
  absent   := fun _ => rfl
  sum      := fun _ h => nomatch h
  out      := fun _ h => absurd h List.not_mem_nil
  starting := fun h => absurd h (by decide)

/-- Where every lane is empty no job exists. -/
theorem allJobs_eq_nil {s : State} (h : ∀ l : Lane, s.lanes[l].queue = [] ∧ s.lanes[l].out = []) : allJobs s = [] := by
  simp only [allJobs, List.flatMap_eq_nil_iff, List.append_eq_nil_iff]
  exact fun l _ => h l

theorem reset_allJobs : allJobs State.reset = [] := allJobs_eq_nil fun l => by rw [reset_lane]; exact ⟨rfl, rfl⟩

theorem reset_creditsForm : CreditsForm State.reset where
  lanes   := fun _ l => by rw [reset_lane]; exact creditForm_off
  down    := fun h => absurd rfl h
  buffers := by rw [reset_allJobs]; exact List.nodup_nil
  images  := by rw [reset_allJobs]; exact fun _ h => absurd h List.not_mem_nil

theorem reset_heldSlots : heldSlots State.reset = [] := by
  have drawers : (List.finRange 12).filterMap (fun w => State.reset.till[w].cashUp.map PendingCashUp.slot) = [] := by
    simp only [List.filterMap_eq_nil_iff, reset_drawer]
    exact fun _ _ => rfl
  rw [heldSlots, reset_allJobs, drawers]
  rfl

theorem reset_slotsForm : SlotsForm State.reset where
  single  := by rw [reset_heldSlots]; exact List.nodup_nil
  context := by rw [reset_heldSlots]; exact fun _ h => absurd h List.not_mem_nil
  offered := fun _ _ h => nomatch h

theorem runsForm_nil : RunsForm [] := ⟨fun _ h => absurd h List.not_mem_nil, List.Pairwise.nil⟩

theorem sentRun_empty {r : LaneRec} {m : Option Loaded} (h : r.out = []) : SentRun r m :=
  ⟨[], [], h, fun _ h => absurd h List.not_mem_nil, fun _ h => absurd h List.not_mem_nil, fun h => absurd rfl h⟩

theorem reset_inMagazines (k : StockKind) : inMagazines State.reset k = 0 := by
  simp only [inMagazines_eq_sum, reset_mag, blanksOf, Finset.sum_const_zero]

theorem reset_stockForm : StockForm State.reset where
  runs      := runsForm_nil
  mags      := fun l m h => by rw [reset_mag] at h; cases h
  single    := fun k n => by
    have none_loaded : ((List.finRange 8).countP fun l => State.reset.stock.mags[l].any fun m =>
        decide (m.kind = k ∧ m.next ≤ n ∧ n ≤ m.last)) = 0 :=
      List.countP_eq_zero.2 fun l _ => by rw [reset_mag]; exact Bool.false_ne_true
    rw [holders, none_loaded]
    exact Nat.zero_le 1
  conserved := fun k => by
    rw [reset_counters, reset_inMagazines]
    rfl
  sold      := fun k => Nat.zero_le _
  flight    := fun _ => by
    simp only [reset_lane]
    exact List.Perm.refl []
  sent      := fun l => by rw [reset_lane]; exact sentRun_empty rfl

/-- Settles O22: every table of the state after reset is uniform, so each form holds row by row. -/
theorem resetMeetsForms : Obligations.ResetMeetsForms :=
  ⟨Keeps.empty_tables, reset_ring_wf, fun _ => rfl, reset_countersBounded, reset_creditsForm, reset_slotsForm, reset_stockForm,
    runsForm_nil⟩

/-! ### The resets (R173) -/

@[simp] theorem doReset_lane (k : ResetKind) (s : State) (l : Lane) : (doReset k s).lanes[l] = s.lanes[l].afterReset := by
  simp [doReset]

@[simp] theorem doReset_drawer (k : ResetKind) (s : State) (w : Window) : (doReset k s).till[w] = s.till[w].afterReset := by
  simp [doReset]

@[simp] theorem doReset_image (k : ResetKind) (s : State) (b : Buffer) : (doReset k s).images[b] = none := by simp [doReset]

@[simp] theorem doReset_mark (k : ResetKind) (s : State) (i : SlotNo) : (doReset k s).exch.marks[i] = false := by
  simp [doReset, ExchangeController.afterReset, ExchangeController.reset]

@[simp] theorem doReset_context (k : ResetKind) (s : State) (i : SlotNo) : (doReset k s).exch.contexts[i] = none := by
  simp [doReset, ExchangeController.afterReset, ExchangeController.reset]

theorem doReset_unreturned (k : ResetKind) (s : State) : unreturned (doReset k s) = 0 := by
  rw [unreturned_eq, List.countP_eq_zero]
  exact fun i _ => by rw [doReset_mark]; exact Bool.false_ne_true

theorem doReset_noticeStatus (k : ResetKind) (s : State) : noticeStatus (doReset k s) = 4096 * resetCode k := by
  rw [noticeStatus_split, doReset_unreturned]
  simp [doReset, ExchangeController.afterReset, ExchangeController.reset, ExState.code, OfficeControl.afterReset]

theorem doReset_attention (k : ResetKind) (s : State) : attention (doReset k s) = false := rfl

/-- Each of the four commands is a reset of its kind. -/
theorem exec_reset {c : Instr} {k : ResetKind}
    (h : (c, k) ∈ [(Instr.powerOn, ResetKind.powerOn), (.resetLine, .resetLine), (.softReset, .soft), (.linkReset, .linkReset)])
    (s : State) : exec c s = .next (doReset k s) := by
  simp only [List.mem_cons, Prod.mk.injEq, List.not_mem_nil, or_false] at h
  rcases h with ⟨rfl, rfl⟩ | ⟨rfl, rfl⟩ | ⟨rfl, rfl⟩ | ⟨rfl, rfl⟩ <;> rfl

/-- Settles O23: what `doReset` leaves, record by record. -/
theorem resetLosesAllButRetained : Obligations.ResetLosesAllButRetained := by
  intro c k s reset
  refine ⟨doReset k s, exec_reset reset s, rfl, doReset_image k s, fun l => ?_, fun w => doReset_drawer k s w, rfl, rfl, ?_,
    fun i => ⟨doReset_mark k s i, doReset_context k s i⟩, rfl, doReset_noticeStatus k s, rfl, rfl, doReset_attention k s⟩
  · rw [doReset_lane]
    repeat' constructor
  · repeat' constructor

/-! ### The restart with retention (R175) -/

/-- The drawers after the blanks in flight have come into suspense (R175, step 1). -/
def suspendFlight (fs : List FlightEntry) (till : Table 12 Drawer) : Table 12 Drawer :=
  fs.foldl (fun till e => till.upd e.window fun d => d.suspend e.total) till

/-- Step 1 puts each blank in flight in doubt and its total in suspense. -/
theorem foldl_doubtFlight (fs : List FlightEntry) (s : State) :
    fs.foldl doubtFlight s =
      { s with
        stock := { s.stock with doubts := s.stock.doubts ++ fs.map FlightEntry.doubt }
        till := suspendFlight fs s.till } := by
  induction fs generalizing s with
  | nil => simp [suspendFlight]
  | cons e fs ih =>
    rw [List.foldl_cons, ih]
    simp only [doubtFlight, State.onDrawer_stock, State.onStock_stock, List.map_cons, List.append_assoc, List.singleton_append]
    rfl

/-- The flight entries of a window add their totals to its suspense. -/
theorem suspendFlight_get (fs : List FlightEntry) (till : Table 12 Drawer) (w : Window) :
    (suspendFlight fs till)[w] = { till[w] with
      suspense := till[w].suspense + ((fs.filter fun e => decide (e.window = w)).map FlightEntry.total).sum } := by
  induction fs generalizing till with
  | nil => rfl
  | cons e fs ih =>
    rw [suspendFlight, List.foldl_cons, ← suspendFlight, ih, Table.upd_get]
    by_cases own : w = e.window
    · simp [own, Drawer.suspend, Nat.add_assoc]
    · simp [own, Ne.symm own]

/-- The state of a restart with retention before its entries are given (R175, steps 1 to 4). -/
def keptState (s : State) : State :=
  { s with
    stock := { s.stock with doubts := s.stock.doubts ++ s.office.flight.map FlightEntry.doubt }
    issue := { s.issue with reserved := (s.stock.doubts ++ s.office.flight.map FlightEntry.doubt).length }
    till := (suspendFlight s.office.flight s.till).map Drawer.reopen
    lanes := s.lanes.map LaneRec.afterRestart
    office := { s.office with flight := [], kept := true, startUp := none } }

/-- A restart with retention changes its records and then gives its entries. -/
theorem restartKept_eq (s : State) :
    restartKept s =
      giveAll (.restart s.office.cause true s.office.flight.length 1 :: s.office.flight.map FlightEntry.entry) (keptState s) := by
  simp only [restartKept, foldl_doubtFlight]
  rfl

/-- A restart leaves a PARKED lane. -/
theorem afterRestart_parked {r : LaneRec} {p : ParkReason} (h : r.state = .parked p) : r.afterRestart = r := by
  simp only [LaneRec.afterRestart, h]

/-- A restart leaves any other lane OFF. -/
theorem afterRestart_off {r : LaneRec} (h : ∀ p, r.state ≠ .parked p) : r.afterRestart = { r with state := .off } := by
  unfold LaneRec.afterRestart
  split
  · exact absurd ‹_› (h _)
  · rfl

/-! ### The restart without retention (R176) -/

/-- The state of a restart without retention before its entry is given. -/
def lostState (s : State) : State :=
  { s with
    stock := StockRegister.empty
    fare := FareUnit.empty
    issue := IssueController.empty
    lanes := s.lanes.map fun r => { r with state := .off }
    faults := FaultTable.empty
    till := Vector.replicate 12 Drawer.empty
    journal := JournalWriter.empty
    office := s.office.lost
    exch := { s.exch with tags := Vector.replicate 13 0, alerts := { s.exch.alerts with retentionLost := true } } }

/-- While no Release Word was read an entry given to an empty Journal Writer waits, and nothing else changes. -/
theorem give_empty {s : State} (h : s.journal = JournalWriter.empty) (b : EntryBody) :
    give b s = { s with journal := { JournalWriter.empty with holding := [stamp s b] } } := by
  simp [give, place, canWriteNow, canQueue, closeGate, h, JournalWriter.empty, JournalWriter.hasRoom, JournalWriter.free,
    JournalWriter.mustClose, Config.holdingRoom, State.onJournal]

theorem restartLost_eq (s : State) :
    restartLost s =
      { lostState s with journal := { JournalWriter.empty with holding := [⟨0, 0, .restart s.office.cause false 0 1⟩] } } :=
  give_empty (s := lostState s) rfl _

/-- Entry 0 of the empty Discount Table is the full fare, every other is blank (R23). -/
theorem empty_discounts {i : Fin 16} (h : i ≠ 0) : FareUnit.empty.discounts[i] = ⟨spaces12, 0, 1, 0, false, false⟩ := by
  have : (0 : Nat) ≠ i.val := fun e => h (Fin.ext e.symm)
  simp [FareUnit.empty, this]

/-- Settles O24: `restartKept_eq` and `restartLost_eq` give the state before the entries, read off record by record. -/
theorem startUpEnds : Obligations.StartUpEnds := by
  intro s u startUp quiet
  have ends : endStartUp s = if u.lost then restartLost s else restartKept s := by rw [endStartUp, startUp]
  refine ⟨_, rfl, fun kept => ?_, fun powerOn bad => ?_⟩
  · have notLost : u.lost = false := by
      rw [Bool.eq_false_iff]
      exact fun lost => kept ((Bool.and_eq_true _ _).mp lost)
    rw [ends, notLost, if_neg Bool.false_ne_true, restartKept_eq]
    have journalled := giveAll_journalled (s := keptState s) quiet
      (.restart s.office.cause true s.office.flight.length 1 :: s.office.flight.map FlightEntry.entry)
    have gives : Gives (.restart s.office.cause true s.office.flight.length 1 :: s.office.flight.map FlightEntry.entry) s
        (giveAll (.restart s.office.cause true s.office.flight.length 1 :: s.office.flight.map FlightEntry.entry) (keptState s)) :=
      Gives.of_same (u := keptState s) ⟨rfl, rfl, rfl, rfl, rfl, rfl, rfl, rfl⟩ quiet quiet rfl rfl rfl
    generalize giveAll _ (keptState s) = t at journalled gives
    have till : t.till = (keptState s).till := by rw [journalled.rest]
    have lanes : t.lanes = (keptState s).lanes := by rw [journalled.rest]
    refine ⟨by rw [journalled.rest]; rfl, by rw [journalled.rest]; rfl, ?_, fun w => ?_, fun l => ?_, by rw [journalled.rest]; rfl,
      gives, journalled.exch, journalled.host⟩
    · rw [journalled.rest]
      simp [keptState]
    · rw [till]
      simp only [keptState, Fin.getElem_fin, Vector.getElem_map]
      rw [← Fin.getElem_fin, suspendFlight_get]
      rfl
    · have row : t.lanes[l] = s.lanes[l].afterRestart := by rw [lanes]; simp [keptState]
      exact ⟨fun p parked => row.trans (afterRestart_parked parked), fun other => row.trans (afterRestart_off other)⟩
  · have lost : u.lost = true := by rw [StartUp.lost, powerOn, bad]; rfl
    rw [ends, lost, if_pos rfl, restartLost_eq]
    refine ⟨fun k => ?_, rfl, fun l => ?_, rfl, Keeps.empty_tables.1, fun i other => empty_discounts other, fun i => ?_, rfl, rfl,
      fun i => ?_, fun l => ?_, rfl, fun w => ?_, rfl, fun l => ?_, rfl, rfl, fun v => ?_, rfl, rfl⟩
    · constructor <;> simp [lostState, StockRegister.empty, spaces12]
    · simp [lostState, StockRegister.empty]
    · simp [lostState, FareUnit.empty]
    · simp [lostState, IssueController.empty, layout0]
    · simp [lostState, FaultTable.empty, FaultRec.clear]
    · simp [lostState, Drawer.empty, ByTender.all]
    · simp [lostState]
    · simp [lostState]

end Sys2Proof.Machine
end

section
/-! The Office Runs under merging and splitting (R2 to R4): each puts new runs in the place of old ones, between two parts of the
list that stay as they are. -/

namespace Sys2Proof.Machine

/-! ### The order of the list -/

/-- The order of the list, with the gap that lies between two runs of a kind (R2). -/
def Run.Gap (a b : Run) : Prop := a.kind < b.kind ∨ (a.kind = b.kind ∧ a.first + a.count < b.first)

theorem Run.Gap.trans {a b c : Run} (h : a.Gap b) (g : b.Gap c) : a.Gap c := by
  simp only [Run.Gap, Fin.lt_def, Fin.ext_iff] at *
  omega

theorem Run.Gap.ne {a b : Run} (h : a.Gap b) : a ≠ b := by
  rintro rfl
  simp only [Run.Gap, Fin.lt_def] at h
  omega

/-- Two runs of a kind have their gap in the order of their first serials. -/
theorem Run.Gap.of_kind {a b : Run} (h : a.Gap b) (kind : a.kind = b.kind) : a.first + a.count < b.first := by
  simp only [Run.Gap, Fin.lt_def, Fin.ext_iff] at h kind
  omega

theorem RunsForm.gap {rs : List Run} (h : RunsForm rs) {a b : Run} (ha : a ∈ rs) (hb : b ∈ rs) (ne : a ≠ b) :
    a.Gap b ∨ b.Gap a := by
  have symmetric : Std.Symm fun a b : Run => a.Gap b ∨ b.Gap a := ⟨fun _ _ => Or.symm⟩
  have either : rs.Pairwise fun a b => a.Gap b ∨ b.Gap a := h.2.imp Or.inl
  exact either.forall ha hb ne

theorem RunsForm.nodup {rs : List Run} (h : RunsForm rs) : rs.Nodup := h.2.imp Run.Gap.ne

/-- Two runs of a kind that are not the same lie apart. -/
theorem RunsForm.apart {rs : List Run} (h : RunsForm rs) {a b : Run} (ha : a ∈ rs) (hb : b ∈ rs) (kind : a.kind = b.kind)
    (ne : a ≠ b) : a.first + a.count < b.first ∨ b.first + b.count < a.first :=
  (h.gap ha hb ne).imp (fun gap => gap.of_kind kind) fun gap => gap.of_kind kind.symm

/-- A run of the list stands between those before it and those after it. -/
theorem RunsForm.split {rs : List Run} (h : RunsForm rs) {b : Run} (hb : b ∈ rs) :
    ∃ before later, rs = before ++ [b] ++ later ∧ b ∉ before ∧ b ∉ later := by
  obtain ⟨before, later, rfl⟩ := List.append_of_mem hb
  have nodup := h.nodup
  simp only [List.nodup_append, List.nodup_cons, List.mem_cons, ne_eq, forall_eq_or_imp] at nodup
  exact ⟨before, later, by simp, fun m => (nodup.2.2 b m).1 rfl, nodup.2.1.1⟩

/-- Runs that keep the gaps to what stands before and after them may take the place of others. -/
theorem RunsForm.replace {before old new later : List Run} (h : RunsForm (before ++ old ++ later)) (form : RunsForm new)
    (below : ∀ x ∈ before, ∀ r ∈ new, x.Gap r) (above : ∀ y ∈ later, ∀ r ∈ new, r.Gap y) :
    RunsForm (before ++ new ++ later) := by
  obtain ⟨count, pairwise⟩ := h
  simp only [List.pairwise_append, List.mem_append, or_imp, forall_and] at pairwise count ⊢
  obtain ⟨⟨hBefore, -, -⟩, hLater, outer, -⟩ := pairwise
  refine ⟨?_, ?_⟩
  · simp only [List.mem_append, or_imp, forall_and]
    exact ⟨⟨count.1.1, form.1⟩, count.2⟩
  · simp only [List.pairwise_append, List.mem_append, or_imp, forall_and]
    exact ⟨⟨hBefore, form.2, below⟩, hLater, outer, fun r hr y hy => above y hy r hr⟩

theorem runsForm_singleton {r : Run} (h : 1 ≤ r.count) : RunsForm [r] :=
  ⟨fun _ m => by rwa [List.mem_singleton.1 m], List.pairwise_singleton _ _⟩

/-! ### What a list holds -/

theorem holds_append {xs ys : List Run} {k : StockKind} {n : Nat} : Holds (xs ++ ys) k n ↔ Holds xs k n ∨ Holds ys k n := by
  simp [Holds, or_and_right, exists_or]

theorem holds_singleton {r : Run} {k : StockKind} {n : Nat} : Holds [r] k n ↔ r.kind = k ∧ r.first ≤ n ∧ n < r.first + r.count := by
  simp [Holds]

theorem blanksIn_append (k : StockKind) (xs ys : List Run) : blanksIn k (xs ++ ys) = blanksIn k xs + blanksIn k ys := by
  simp [blanksIn]

theorem blanksIn_singleton (k : StockKind) (r : Run) : blanksIn k [r] = if r.kind = k then r.count else 0 := by
  by_cases h : r.kind = k <;> simp [blanksIn, h]

/-! ### Merging (R3) -/

/-- No run of the list holds a serial of the range. -/
def FreeOf (rs : List Run) (k : StockKind) (f c : Nat) : Prop := ∀ n, f ≤ n → n < f + c → ¬ Holds rs k n

/-- A run of the kind lies below a range that it holds no serial of, or above it. -/
theorem FreeOf.beside {rs : List Run} {k : StockKind} {f c : Nat} (free : FreeOf rs k f c) (hc : 1 ≤ c) {r : Run} (hr : r ∈ rs)
    (kind : r.kind = k) (count : 1 ≤ r.count) : r.first + r.count ≤ f ∨ f + c ≤ r.first := by
  by_contra overlap
  push Not at overlap
  refine free (max f r.first) (le_max_left _ _) (by omega) ⟨r, hr, kind, by omega, by omega⟩

/-- A run below and a run above of the range. -/
theorem runBefore_eq_none {k : StockKind} {f : Nat} {rs : List Run} :
    runBefore k f rs = none ↔ ∀ r ∈ rs, ¬ (r.kind = k ∧ r.first + r.count = f) :=
  List.find?_eq_none.trans (forall₂_congr fun _ _ => not_congr decide_eq_true_iff)

theorem runAfter_eq_none {k : StockKind} {f : Nat} {rs : List Run} :
    runAfter k f rs = none ↔ ∀ r ∈ rs, ¬ (r.kind = k ∧ r.first = f) :=
  List.find?_eq_none.trans (forall₂_congr fun _ _ => not_congr decide_eq_true_iff)

/-- The runs that touch a range (R3). -/
def touches (k : StockKind) (f c : Nat) (r : Run) : Bool := decide (r.kind = k ∧ (r.first + r.count = f ∨ r.first = f + c))

/-- What merging a range into a list comes to (R3). -/
structure Merged (k : StockKind) (f c : Nat) (rs rs' : List Run) : Prop where
  form   : RunsForm rs'
  holds  : ∀ q n, Holds rs' q n ↔ Holds rs q n ∨ q = k ∧ f ≤ n ∧ n < f + c
  blanks : blanksIn k rs' = blanksIn k rs + c
  others : ∀ q, q ≠ k → blanksIn q rs' = blanksIn q rs
  length : rs'.length + rs.countP (touches k f c) = rs.length + 1

/-- A run that stands apart from every other of the list is inserted between those below it and those above it. -/
theorem insertSorted_split (x : Run) : ∀ rs : List Run, rs.Pairwise Run.Gap → (∀ a ∈ rs, x.Gap a ∨ a.Gap x) →
    ∃ before later, rs = before ++ later ∧ insertSorted x rs = before ++ [x] ++ later ∧ (∀ a ∈ before, a.Gap x) ∧
      ∀ a ∈ later, x.Gap a
  | [], _, _ => ⟨[], [], rfl, rfl, fun _ h => absurd h List.not_mem_nil, fun _ h => absurd h List.not_mem_nil⟩
  | a :: as, pairwise, apart => by
    obtain ⟨first, rest⟩ := List.pairwise_cons.1 pairwise
    rw [insertSorted]
    split
    next hbefore =>
      have below : x.Gap a := (apart a List.mem_cons_self).resolve_right fun gap => by
        simp only [Run.before, Run.Gap, Bool.or_eq_true, Bool.and_eq_true, decide_eq_true_eq, Fin.lt_def, Fin.ext_iff] at hbefore gap
        omega
      exact ⟨[], a :: as, rfl, rfl, fun _ h => absurd h List.not_mem_nil, fun b hb =>
        (List.mem_cons.1 hb).elim (fun e => e ▸ below) fun m => below.trans (first b m)⟩
    next hafter =>
      have above : a.Gap x := (apart a List.mem_cons_self).resolve_left fun gap => by
        simp only [Run.before, Run.Gap, Bool.or_eq_true, Bool.and_eq_true, decide_eq_true_eq, Fin.lt_def, Fin.ext_iff] at hafter gap
        omega
      obtain ⟨before, later, eq, ins, hb, hl⟩ := insertSorted_split x as rest fun b hb => apart b (List.mem_cons_of_mem _ hb)
      exact ⟨a :: before, later, by rw [eq]; rfl, by rw [ins]; rfl, fun b m =>
        (List.mem_cons.1 m).elim (fun e => e ▸ above) (hb b), hl⟩

/-- A range that touches no run is inserted as a run of its own. -/
theorem merged_insert {k : StockKind} {f c : Nat} {rs : List Run} (hc : 1 ≤ c) (h : RunsForm rs) (free : FreeOf rs k f c)
    (noBefore : ∀ r ∈ rs, ¬ (r.kind = k ∧ r.first + r.count = f)) (noAfter : ∀ r ∈ rs, ¬ (r.kind = k ∧ r.first = f + c)) :
    Merged k f c rs (insertSorted ⟨k, f, c⟩ rs) := by
  have apart : ∀ a ∈ rs, (⟨k, f, c⟩ : Run).Gap a ∨ a.Gap ⟨k, f, c⟩ := by
    intro a ha
    have hb := noBefore a ha
    have hl := noAfter a ha
    rcases lt_trichotomy a.kind k with less | kind | greater
    · exact .inr (.inl less)
    · rcases free.beside hc ha kind (h.1 a ha) with low | high
      · exact .inr (.inr ⟨kind, lt_of_le_of_ne low fun e => hb ⟨kind, e⟩⟩)
      · exact .inl (.inr ⟨kind.symm, lt_of_le_of_ne high fun e => hl ⟨kind, e.symm⟩⟩)
    · exact .inl (.inl greater)
  obtain ⟨before, later, rfl, ins, below, above⟩ := insertSorted_split ⟨k, f, c⟩ rs h.2 apart
  have untouched : (before ++ later).countP (touches k f c) = 0 := by
    rw [List.countP_eq_zero]
    intro r hr touch
    obtain ⟨kind, low | high⟩ := of_decide_eq_true touch
    · exact noBefore r hr ⟨kind, low⟩
    · exact noAfter r hr ⟨kind, high⟩
  rw [ins]
  refine ⟨RunsForm.replace (old := []) (by simpa using h) (runsForm_singleton hc) (fun x hx r hr => ?_) (fun y hy r hr => ?_),
    fun q n => ?_, ?_, fun q other => ?_, ?_⟩
  · rw [List.mem_singleton.1 hr]; exact below x hx
  · rw [List.mem_singleton.1 hr]; exact above y hy
  · simp only [holds_append, holds_singleton]
    tauto
  · simp only [blanksIn_append, blanksIn_singleton, if_true]
    omega
  · simp only [blanksIn_append, blanksIn_singleton, if_neg (Ne.symm other), Nat.add_zero]
  · rw [untouched]
    simp only [List.length_append, List.length_singleton]
    omega

/-- One run of the list replaced. -/
theorem map_replace {before later : List Run} {b : Run} {g : Run → Run} (hb : b ∉ before) (hl : b ∉ later) :
    ((before ++ [b] ++ later).map fun r => if r = b then g r else r) = before ++ [g b] ++ later := by
  have same : ∀ xs : List Run, b ∉ xs → (xs.map fun r => if r = b then g r else r) = xs := by
    intro xs hx
    have unchanged : ∀ r ∈ xs, (if r = b then g r else r) = id r := fun r hr => if_neg (by rintro rfl; exact hx hr)
    rw [List.map_congr_left unchanged, List.map_id]
  simp [same before hb, same later hl]

/-- One run of the list taken away. -/
theorem filter_remove {before later : List Run} {a : Run} (hb : a ∉ before) (hl : a ∉ later) :
    ((before ++ [a] ++ later).filter fun r => decide (r ≠ a)) = before ++ later := by
  have same : ∀ xs : List Run, a ∉ xs → (xs.filter fun r => decide (r ≠ a)) = xs := fun xs hx =>
    List.filter_eq_self.2 fun r hr => decide_eq_true fun e => hx (e ▸ hr)
  simp only [List.filter_append, same before hb, same later hl]
  simp

/-- The runs that touch a range, where only one does. -/
theorem countP_touches_one {k : StockKind} {f c : Nat} {rs : List Run} (h : RunsForm rs) {b : Run} (hb : b ∈ rs)
    (only : ∀ r ∈ rs, touches k f c r = true ↔ r = b) : rs.countP (touches k f c) = 1 := by
  have : rs.countP (touches k f c) = rs.count b := by
    rw [List.count]
    exact List.countP_congr fun r hr => by rw [only r hr, beq_iff_eq]
  rw [this, List.count_eq_one_of_mem h.nodup hb]

/-- What replacing one run by another, longer one does to the blanks and the serials. -/
theorem merged_replace {k : StockKind} {f c : Nat} {before later : List Run} {b b' : Run} (form : RunsForm (before ++ [b'] ++ later))
    (kind : b.kind = k) (kind' : b'.kind = k) (count : b'.count = b.count + c)
    (holds : ∀ n, b'.first ≤ n ∧ n < b'.first + b'.count ↔ (b.first ≤ n ∧ n < b.first + b.count) ∨ f ≤ n ∧ n < f + c)
    (one : (before ++ [b] ++ later).countP (touches k f c) = 1) :
    Merged k f c (before ++ [b] ++ later) (before ++ [b'] ++ later) := by
  refine ⟨form, fun q n => ?_, ?_, fun q other => ?_, ?_⟩
  · simp only [holds_append, holds_singleton, kind, kind', holds n]
    tauto
  · simp only [blanksIn_append, blanksIn_singleton, kind, kind', if_true, count]
    omega
  · simp only [blanksIn_append, blanksIn_singleton, kind, kind', if_neg (Ne.symm other)]
  · rw [one]
    simp

/-- A range that touches a run below it and none above lengthens that run. -/
theorem merged_below {k : StockKind} {f c : Nat} {rs : List Run} (hc : 1 ≤ c) (h : RunsForm rs) (free : FreeOf rs k f c) {b : Run}
    (hb : b ∈ rs) (kind : b.kind = k) (stop : b.first + b.count = f) (noAfter : ∀ r ∈ rs, ¬ (r.kind = k ∧ r.first = f + c)) :
    Merged k f c rs (rs.map fun r => if r = b then { r with count := r.count + c } else r) := by
  have only : ∀ r ∈ rs, touches k f c r = true ↔ r = b := by
    intro r hr
    refine ⟨fun touch => ?_, by rintro rfl; exact decide_eq_true ⟨kind, .inl stop⟩⟩
    obtain ⟨rkind, low | high⟩ := of_decide_eq_true touch
    · by_contra ne
      rcases h.apart hr hb (rkind.trans kind.symm) ne with gap | gap
      · have := h.1 b hb; omega
      · have := h.1 r hr; omega
    · exact absurd ⟨rkind, high⟩ (noAfter r hr)
  have one := countP_touches_one h hb only
  obtain ⟨before, later, rfl, nb, nl⟩ := h.split hb
  obtain ⟨⟨-, -, below⟩, -, above⟩ := by simpa only [List.pairwise_append] using h.2
  rw [map_replace nb nl]
  refine merged_replace (h.replace (runsForm_singleton ?_) ?_ ?_) kind kind rfl (fun n => ?_) one
  · show 1 ≤ b.count + c
    omega
  · intro x hx r hr
    rw [List.mem_singleton.1 hr]
    exact below x hx b (List.mem_singleton_self b)
  · intro y hy r hr
    rw [List.mem_singleton.1 hr]
    have gap := above b (by simp) y hy
    rcases gap with less | ⟨same, apart⟩
    · exact .inl less
    · have member : y ∈ before ++ [b] ++ later := by simp [hy]
      have beside := free.beside hc member (same.symm.trans kind) (h.1 y member)
      have notAfter := noAfter y member
      refine .inr ⟨same, ?_⟩
      show b.first + (b.count + c) < y.first
      have : y.first ≠ f + c := fun e => notAfter ⟨same.symm.trans kind, e⟩
      omega
  · show b.first ≤ n ∧ n < b.first + (b.count + c) ↔ _
    omega

/-- A range that touches a run above it and none below lengthens that run downwards. -/
theorem merged_above {k : StockKind} {f c : Nat} {rs : List Run} (hc : 1 ≤ c) (h : RunsForm rs) (free : FreeOf rs k f c) {a : Run}
    (ha : a ∈ rs) (kind : a.kind = k) (start : a.first = f + c)
    (noBefore : ∀ r ∈ rs, ¬ (r.kind = k ∧ r.first + r.count = f)) :
    Merged k f c rs (rs.map fun r => if r = a then { r with first := f, count := r.count + c } else r) := by
  have only : ∀ r ∈ rs, touches k f c r = true ↔ r = a := by
    intro r hr
    refine ⟨fun touch => ?_, by rintro rfl; exact decide_eq_true ⟨kind, .inr start⟩⟩
    obtain ⟨rkind, low | high⟩ := of_decide_eq_true touch
    · exact absurd ⟨rkind, low⟩ (noBefore r hr)
    · by_contra ne
      rcases h.apart hr ha (rkind.trans kind.symm) ne with gap | gap <;> omega
  have one := countP_touches_one h ha only
  obtain ⟨before, later, rfl, nb, nl⟩ := h.split ha
  obtain ⟨⟨-, -, below⟩, -, above⟩ := by simpa only [List.pairwise_append] using h.2
  rw [map_replace nb nl]
  refine merged_replace (h.replace (runsForm_singleton ?_) ?_ ?_) kind kind rfl (fun n => ?_) one
  · show 1 ≤ a.count + c
    omega
  · intro x hx r hr
    rw [List.mem_singleton.1 hr]
    rcases below x hx a (List.mem_singleton_self a) with less | ⟨same, apart⟩
    · exact .inl less
    · have member : x ∈ before ++ [a] ++ later := by simp [hx]
      have beside := free.beside hc member (same.trans kind) (h.1 x member)
      have notBefore := noBefore x member
      refine .inr ⟨same, ?_⟩
      show x.first + x.count < f
      have : x.first + x.count ≠ f := fun e => notBefore ⟨same.trans kind, e⟩
      have := h.1 x member
      omega
  · intro y hy r hr
    rw [List.mem_singleton.1 hr]
    rcases above a (by simp) y hy with less | ⟨same, apart⟩
    · exact .inl less
    · refine .inr ⟨same, ?_⟩
      show f + (a.count + c) < y.first
      omega
  · show f ≤ n ∧ n < f + (a.count + c) ↔ _
    omega

/-- A range that touches runs on both sides joins them: the run above is taken away, and the one below lengthened by the range
and by it. -/
theorem merged_both {k : StockKind} {f c : Nat} {rs : List Run} (hc : 1 ≤ c) (h : RunsForm rs) (free : FreeOf rs k f c) {a b : Run}
    (hb : b ∈ rs) (bkind : b.kind = k) (stop : b.first + b.count = f) (ha : a ∈ rs) (akind : a.kind = k)
    (start : a.first = f + c) :
    Merged k f c rs ((rs.filter fun r => decide (r ≠ a)).map fun r => if r = b then { r with count := r.count + c + a.count } else r) := by
  have ne : b ≠ a := by rintro rfl; omega
  obtain ⟨before, later, rfl, nb, nl⟩ := h.split ha
  rw [filter_remove nb nl]
  have rest : RunsForm (before ++ later) := by
    simpa using RunsForm.replace (new := []) h runsForm_nil (fun _ _ _ h => absurd h List.not_mem_nil)
      (fun _ _ _ h => absurd h List.not_mem_nil)
  have sub : ∀ r ∈ before ++ later, r ∈ before ++ [a] ++ later ∧ r ≠ a := by
    intro r hr
    refine ⟨by simp only [List.mem_append, List.mem_singleton] at hr ⊢; tauto, ?_⟩
    rintro rfl
    exact (List.mem_append.1 hr).elim nb nl
  have hb' : b ∈ before ++ later := by
    simp only [List.mem_append, List.mem_singleton] at hb ⊢
    tauto
  have free' : FreeOf (before ++ later) k f (c + a.count) := by
    rintro n low high ⟨r, hr, rkind, rlow, rhigh⟩
    obtain ⟨member, other⟩ := sub r hr
    have := free.beside hc member rkind (h.1 r member)
    have := h.apart member ha (rkind.trans akind.symm) other
    have := h.1 r member
    omega
  have noAfter : ∀ r ∈ before ++ later, ¬ (r.kind = k ∧ r.first = f + (c + a.count)) := by
    rintro r hr ⟨rkind, rstart⟩
    obtain ⟨member, other⟩ := sub r hr
    have := h.apart member ha (rkind.trans akind.symm) other
    have := h.1 r member
    omega
  have merged := merged_below (by omega) rest free' hb' bkind stop noAfter
  have lengthen : ((before ++ later).map fun r => if r = b then { r with count := r.count + c + a.count } else r) =
      (before ++ later).map fun r => if r = b then { r with count := r.count + (c + a.count) } else r := by
    simp only [Nat.add_assoc]
  have touched : (before ++ [a] ++ later).countP (touches k f c) =
      (before ++ later).countP (touches k f (c + a.count)) + 1 := by
    have here : touches k f c a = true := decide_eq_true ⟨akind, .inr start⟩
    have alike : ∀ r ∈ before ++ later, touches k f c r = true ↔ touches k f (c + a.count) r = true := by
      intro r hr
      obtain ⟨member, other⟩ := sub r hr
      have after := noAfter r hr
      simp only [touches, decide_eq_true_eq]
      refine and_congr_right fun rkind => or_congr_right ⟨fun e => ?_, fun e => absurd ⟨rkind, e⟩ after⟩
      have := h.apart member ha (rkind.trans akind.symm) other
      omega
    rw [← List.countP_congr alike]
    simp only [List.countP_append, List.countP_singleton, here, if_true]
    omega
  rw [lengthen]
  refine ⟨merged.form, fun q n => ?_, ?_, fun q other => ?_, ?_⟩
  · rw [merged.holds q n]
    have joined : (f ≤ n ∧ n < f + (c + a.count)) ↔ (a.first ≤ n ∧ n < a.first + a.count) ∨ f ≤ n ∧ n < f + c := by omega
    rw [joined]
    simp only [holds_append, holds_singleton, akind, and_or_left, eq_comm (a := k), or_assoc, or_left_comm]
  · rw [merged.blanks]
    simp only [blanksIn_append, blanksIn_singleton, akind, if_true]
    omega
  · rw [merged.others q other]
    simp only [blanksIn_append, blanksIn_singleton, akind, if_neg (Ne.symm other), Nat.add_zero]
  · have := merged.length
    rw [touched]
    simp only [List.length_append, List.length_singleton] at this ⊢
    omega

/-- Merging fails exactly where a new run is needed and the list is full (R3). -/
theorem mergeRun_eq_none {k : StockKind} {f c : Nat} {rs : List Run} :
    mergeRun k f c rs = none ↔
      (∀ r ∈ rs, ¬ (r.kind = k ∧ r.first + r.count = f)) ∧ (∀ r ∈ rs, ¬ (r.kind = k ∧ r.first = f + c)) ∧
        32 ≤ rs.length := by
  rw [← runBefore_eq_none, ← runAfter_eq_none, mergeRun]
  rcases runBefore k f rs with _ | b <;> rcases runAfter k (f + c) rs with _ | a
  · by_cases room : rs.length < 32 <;> simp [Config.maxRuns, room]; omega
  all_goals simp

/-- Merging a range that no run holds a serial of (R3). -/
theorem mergeRun_merged {k : StockKind} {f c : Nat} {rs rs' : List Run} (hc : 1 ≤ c) (h : RunsForm rs) (free : FreeOf rs k f c)
    (merges : mergeRun k f c rs = some rs') : Merged k f c rs rs' := by
  unfold mergeRun at merges
  rcases hb : runBefore k f rs with _ | b <;> rcases ha : runAfter k (f + c) rs with _ | a <;> simp only [hb, ha] at merges
  · split at merges
    · cases merges
      exact merged_insert hc h free (runBefore_eq_none.1 hb) (runAfter_eq_none.1 ha)
    · cases merges
  · cases merges
    obtain ⟨member, kind, start⟩ := runAfter_some ha
    exact merged_above hc h free member kind start (runBefore_eq_none.1 hb)
  · cases merges
    obtain ⟨member, kind, stop⟩ := runBefore_some hb
    exact merged_below hc h free member kind stop (runAfter_eq_none.1 ha)
  · cases merges
    obtain ⟨amember, akind, start⟩ := runAfter_some ha
    obtain ⟨bmember, bkind, stop⟩ := runBefore_some hb
    exact merged_both hc h free bmember bkind stop amember akind start

/-! ### Splitting (R4) -/

/-- What taking a range out of a list comes to (R4). -/
structure Taken (k : StockKind) (f c : Nat) (rs rs' : List Run) : Prop where
  form   : RunsForm rs'
  holds  : ∀ q n, Holds rs' q n ↔ Holds rs q n ∧ ¬ (q = k ∧ f ≤ n ∧ n < f + c)
  blanks : blanksIn k rs' + c = blanksIn k rs
  others : ∀ q, q ≠ k → blanksIn q rs' = blanksIn q rs

/-- Only the run that holds the range is touched. -/
theorem takeRange_split {k : StockKind} {f c : Nat} {before later : List Run} {r : Run} (hc : 1 ≤ c)
    (h : RunsForm (before ++ [r] ++ later)) (nb : r ∉ before) (nl : r ∉ later) (kind : r.kind = k) (low : r.first ≤ f)
    (high : f + c ≤ r.first + r.count) :
    takeRange k f c (before ++ [r] ++ later) = before ++ r.without f c ++ later := by
  have here : r.holds k f c = true := decide_eq_true ⟨kind, low, high⟩
  have same : ∀ xs : List Run, (∀ x ∈ xs, x ∈ before ++ [r] ++ later ∧ x ≠ r) →
      (xs.flatMap fun x => if x.holds k f c then x.without f c else [x]) = xs := by
    intro xs others
    refine (List.flatMap_congr (g := fun x => [x]) fun x hx => if_neg fun held => ?_).trans (by simp)
    obtain ⟨member, ne⟩ := others x hx
    obtain ⟨xkind, xlow, xhigh⟩ := of_decide_eq_true held
    have := h.apart member (by simp : r ∈ before ++ [r] ++ later) (xkind.trans kind.symm) ne
    simp only [Run.stop] at xhigh
    omega
  simp only [takeRange, List.flatMap_append, List.flatMap_singleton, here, if_true]
  rw [same before fun x hx => ⟨by simp [hx], fun e => nb (e ▸ hx)⟩, same later fun x hx => ⟨by simp [hx], fun e => nl (e ▸ hx)⟩]

/-- What is left of a run has its form, holds what the range does not, and counts the rest. -/
theorem without_facts {r : Run} {f c : Nat} (hc : 1 ≤ c) (low : r.first ≤ f) (high : f + c ≤ r.first + r.count) :
    RunsForm (r.without f c) ∧
    (∀ x ∈ r.without f c, x.kind = r.kind ∧ r.first ≤ x.first ∧ x.first + x.count ≤ r.first + r.count) ∧
    (∀ q n, Holds (r.without f c) q n ↔ Holds [r] q n ∧ ¬ (q = r.kind ∧ f ≤ n ∧ n < f + c)) ∧
    (∀ q, blanksIn q (r.without f c) + (if r.kind = q then c else 0) = blanksIn q [r]) ∧
    (r.without f c).length = (if r.first < f then 1 else 0) + (if f + c < r.first + r.count then 1 else 0) := by
  unfold Run.without Run.stop
  by_cases below : r.first < f <;> by_cases above : f + c < r.first + r.count <;>
    simp only [below, above, if_true, if_false, List.append_nil, List.nil_append, List.singleton_append]
  · have gap : (⟨r.kind, r.first, f - r.first⟩ : Run).Gap ⟨r.kind, f + c, r.first + r.count - (f + c)⟩ :=
      .inr ⟨rfl, by dsimp only; omega⟩
    refine ⟨⟨?_, List.pairwise_pair.2 gap⟩, ?_, fun q n => ?_, fun q => ?_, rfl⟩
    · simp only [List.mem_cons, List.not_mem_nil, or_false, forall_eq_or_imp, forall_eq]
      omega
    · simp only [List.mem_cons, List.not_mem_nil, or_false, forall_eq_or_imp, forall_eq, true_and]
      omega
    · simp only [Holds, List.mem_cons, List.not_mem_nil, or_false, exists_eq_or_imp, exists_eq_left, eq_comm (a := q)]
      by_cases kind : r.kind = q <;> simp only [kind, true_and, false_and, or_self]
      omega
    · rw [← List.singleton_append, blanksIn_append]
      simp only [blanksIn_singleton]
      split <;> omega
  · refine ⟨runsForm_singleton (by dsimp only; omega), ?_, fun q n => ?_, fun q => ?_, rfl⟩
    · simp only [List.mem_singleton, forall_eq, true_and]
      omega
    · simp only [holds_singleton, eq_comm (a := q)]
      by_cases kind : r.kind = q <;> simp only [kind, true_and, false_and]
      omega
    · simp only [blanksIn_singleton]
      split <;> omega
  · refine ⟨runsForm_singleton (by dsimp only; omega), ?_, fun q n => ?_, fun q => ?_, rfl⟩
    · simp only [List.mem_singleton, forall_eq, true_and]
      omega
    · simp only [holds_singleton, eq_comm (a := q)]
      by_cases kind : r.kind = q <;> simp only [kind, true_and, false_and]
      omega
    · simp only [blanksIn_singleton]
      split <;> omega
  · refine ⟨runsForm_nil, fun _ h => absurd h List.not_mem_nil, fun q n => ?_, fun q => ?_, rfl⟩
    · simp only [Holds, List.not_mem_nil, false_and, exists_false, List.mem_singleton, exists_eq_left, eq_comm (a := q)]
      by_cases kind : r.kind = q <;> simp only [kind, true_and, false_and, false_iff]
      omega
    · rw [blanksIn_singleton]
      simp only [blanksIn, List.filter_nil, List.map_nil, List.sum_nil, Nat.zero_add]
      split <;> omega

/-- A range inside one run is taken out of it (R4). -/
theorem takeRange_taken {k : StockKind} {f c : Nat} {rs : List Run} {r : Run} (hc : 1 ≤ c) (h : RunsForm rs) (hr : r ∈ rs)
    (kind : r.kind = k) (low : r.first ≤ f) (high : f + c ≤ r.first + r.count) :
    Taken k f c rs (takeRange k f c rs) ∧
      (takeRange k f c rs).length + 1 =
        rs.length + (if r.first < f then 1 else 0) + (if f + c < r.first + r.count then 1 else 0) := by
  have apart := fun x hx ne => h.apart (a := x) (b := r) hx hr (ne := ne)
  obtain ⟨before, later, rfl, nb, nl⟩ := h.split hr
  rw [takeRange_split hc h nb nl kind low high]
  obtain ⟨form, inside, holds, blanks, length⟩ := without_facts hc low high
  obtain ⟨⟨-, -, below⟩, -, above⟩ := by simpa only [List.pairwise_append] using h.2
  have untouched : ∀ x : Run, x ∈ before ++ [r] ++ later → x ≠ r → x.kind = k → ∀ n, f ≤ n → n < f + c →
      ¬ (x.first ≤ n ∧ n < x.first + x.count) := by
    intro x hx ne xkind n _ _ _
    have := apart x hx (kind := xkind.trans kind.symm) ne
    omega
  have clear : ∀ xs : List Run, (∀ x ∈ xs, x ∈ before ++ [r] ++ later ∧ x ≠ r) → ∀ q n,
      Holds xs q n → ¬ (q = k ∧ f ≤ n ∧ n < f + c) := by
    rintro xs others q n ⟨x, hx, xkind, inRun⟩ ⟨rfl, lo, hi⟩
    exact untouched x (others x hx).1 (others x hx).2 xkind n lo hi inRun
  have clearBefore := clear before fun x hx => ⟨by simp [hx], fun e => nb (e ▸ hx)⟩
  have clearLater := clear later fun x hx => ⟨by simp [hx], fun e => nl (e ▸ hx)⟩
  refine ⟨⟨h.replace form (fun x hx y hy => ?_) (fun x hx y hy => ?_), fun q n => ?_, ?_, fun q other => ?_⟩, ?_⟩
  · obtain ⟨ykind, ylow, -⟩ := inside y hy
    rcases below x hx r (List.mem_singleton_self r) with less | ⟨same, gap⟩
    · exact .inl (ykind.symm ▸ less)
    · exact .inr ⟨same.trans ykind.symm, by omega⟩
  · obtain ⟨ykind, -, yhigh⟩ := inside y hy
    rcases above r (by simp) x hx with less | ⟨same, gap⟩
    · exact .inl (ykind.symm ▸ less)
    · exact .inr ⟨ykind.trans same, by omega⟩
  · have hb := clearBefore q n
    have hl := clearLater q n
    simp only [holds_append, holds q n, kind]
    by_cases taken : q = k ∧ f ≤ n ∧ n < f + c
    · exact iff_of_false (by rintro ((h | h) | h); exacts [hb h taken, h.2 taken, hl h taken]) fun h => h.2 taken
    · simp only [taken, not_false_eq_true, and_true]
  · have here := blanks k
    simp only [kind, if_true] at here
    simp only [blanksIn_append]
    omega
  · have here := blanks q
    simp only [kind, if_neg (Ne.symm other), Nat.add_zero] at here
    simp only [blanksIn_append, here]
  · simp only [List.length_append, length, List.length_singleton]
    omega

/-- Settles O27: `mergeRun_merged` and `takeRange_taken`. -/
theorem runsMergeAndSplit : Obligations.RunsMergeAndSplit := by
  refine ⟨fun k f c rs hc h free => ⟨mergeRun_eq_none, fun rs' merges => ?_⟩, fun k f c rs r hc h hr kind low high => ?_⟩
  · have merged := mergeRun_merged hc h free merges
    exact ⟨merged.form, merged.holds, merged.blanks, merged.others, merged.length⟩
  · obtain ⟨taken, length⟩ := takeRange_taken hc h hr kind low high
    exact ⟨taken.form, taken.holds, taken.blanks, taken.others, length⟩

end Sys2Proof.Machine
end

section
/-! The placing of an entry (R163 to R166, R168): in the ring, in the holding queue, or on the overflow line, folded or at the
back; and the deferral of FAULT entries (R140). -/

namespace Sys2Proof.Machine

/-! ### The gate after a placement (R168) -/

/-- The state with the gate closed where `m` says that it must close, and JOURNAL_PRESSURE set at that. -/
def gated (m : Bool) (s : State) : State :=
  { s with
    journal := { s.journal with closed := s.journal.closed || m }
    exch := { s.exch with alerts := { s.exch.alerts with pressure := s.exch.alerts.pressure || (m && !s.journal.closed) } } }

theorem closeGate_eq_gated (s : State) : closeGate s = gated s.journal.mustClose s := by
  obtain ⟨_, _, _, _, _, _, _, _, ⟨n, head, pass, seq, release, holding, overflow, closed⟩, _,
    ⟨_, _, _, _, _, _, _, ⟨_, pressure, _, _⟩, _, _, _, _, _, _, _, _, _, _, _, _⟩, _⟩ := s
  generalize h : JournalWriter.mustClose ⟨n, head, pass, seq, release, holding, overflow, closed⟩ = m
  cases m <;> cases closed <;> simp [closeGate, gated, h, State.onJournal, State.onAlerts, State.onExch]

/-- Where an entry waits the gate must be CLOSED exactly while a Release Word is held (R168). -/
theorem mustClose_of_waiting {j : JournalWriter} (h : j.holding ≠ [] ∨ j.overflow ≠ []) : j.mustClose = j.release.isSome := by
  rw [JournalWriter.mustClose, JournalWriter.free, Option.any_map]
  cases j.release with
  | none => rfl
  | some r =>
    rcases h with waits | waits <;>
      simp only [Option.any_some, List.isEmpty_eq_false_iff.2 waits, Bool.not_false, Bool.or_true, Bool.true_or,
        Option.isSome_some]

/-- With nothing waiting the gate must be CLOSED while fewer than 64 places are free (R168). -/
theorem mustClose_of_none_waiting {j : JournalWriter} {r : Nat} (release : j.release = some r) (holding : j.holding = [])
    (overflow : j.overflow = []) : j.mustClose = decide (j.n - 1 - (j.head + (j.n - r)) % j.n < 64) := by
  rw [JournalWriter.mustClose, JournalWriter.free, release, holding, overflow]
  exact (Bool.or_false _).trans (Bool.or_false _)

/-! ### An entry that can be written at once (R164, R165) -/

theorem canWriteNow_iff (s : State) : canWriteNow s = true ↔
    s.exch.state = .running ∧ s.journal.holding = [] ∧ s.journal.overflow = [] ∧
      ∃ r, s.journal.release = some r ∧ s.journal.used r + 2 ≤ s.journal.n := by
  have room : s.journal.hasRoom = true ↔ ∃ r, s.journal.release = some r ∧ s.journal.used r + 2 ≤ s.journal.n := by
    rw [JournalWriter.hasRoom, JournalWriter.free]
    cases s.journal.release with
    | none => simp
    | some r =>
      simp only [Option.map_some, Option.any_some, decide_eq_true_eq, Option.some.injEq, exists_eq_left']
      omega
  simp only [canWriteNow, Bool.and_eq_true, decide_eq_true_eq, List.isEmpty_iff, room, and_assoc]

theorem canQueue_iff (s : State) : canQueue s = true ↔ s.journal.overflow = [] ∧ s.journal.holding.length < 256 := by
  rw [canQueue, Bool.and_eq_true, List.isEmpty_iff, decide_eq_true_iff]
  rfl

/-- The state after an entry has been written at the head, before the gate is evaluated (R164). -/
def ringWritten (b : EntryBody) (s : State) : State :=
  { s with
    journal := s.journal.advance
    host := { s.host with
      journal := Memory.put (journalAddress s s.journal.head) ⟨stamp s b, s.journal.seq, s.journal.pass⟩ s.host.journal } }

theorem give_written {s : State} (quiet : s.host.busIn = none) (now : canWriteNow s = true) (b : EntryBody) :
    give b s = gated (ringWritten b s).journal.mustClose (ringWritten b s) := by
  rw [← closeGate_eq_gated]
  simp only [give, place, now, if_true, writeEntry, access_quiet quiet]
  rfl

/-! ### An entry that joins the holding queue (R165) -/

theorem give_queued {s : State} (notNow : canWriteNow s = false) (queues : canQueue s = true) (b : EntryBody) :
    give b s = gated s.journal.release.isSome
      { s with journal := { s.journal with holding := s.journal.holding ++ [stamp s b] } } := by
  have must := mustClose_of_waiting (j := { s.journal with holding := s.journal.holding ++ [stamp s b] })
    (.inl (List.append_ne_nil_of_right_ne_nil _ (List.cons_ne_nil _ _)))
  rw [give, place, notNow, queues, if_neg Bool.false_ne_true, if_pos rfl, closeGate_eq_gated]
  exact congrArg (gated · _) must

/-! ### The bytes of a written entry (R163) -/

@[simp] theorem leBytes_length (n v : Nat) : (leBytes n v).length = n := by
  induction n generalizing v with
  | zero => rfl
  | succ n ih => simp [leBytes, ih]

theorem entryHeader_length (w : Written) : (entryHeader w).length = 16 := by simp [entryHeader]

/-- The kind fields in use, and zeros behind them. -/
theorem entryArea_length (b : EntryBody) : (entryArea b).length = 48 := by
  have := (Config.kindFieldBytes b.code).isLt
  simp only [entryArea, List.length_append, List.length_map, List.length_range, List.length_replicate]
  omega

theorem entryArea_zero (b : EntryBody) {i : Nat} (unused : (Config.kindFieldBytes b.code).val ≤ i) (inside : i < 48) :
    (entryArea b)[i]? = some 0 := by
  simp only [entryArea]
  rw [List.getElem?_append_right (by simpa using unused)]
  simp only [List.length_map, List.length_range, List.getElem?_replicate]
  rw [if_pos (by omega)]

/-- The second byte of a header is the number of kind field bytes in use. -/
theorem entryHeader_used (w : Written) : (byteAt (entryHeader w) 1).toNat = (Config.kindFieldBytes w.entry.body.code).val := by
  have := (Config.kindFieldBytes w.entry.body.code).isLt
  simp only [byteAt, entryHeader, List.cons_append, List.getD_cons_succ, List.getD_cons_zero, BitVec.toNat_ofNat]
  omega

/-- Settles O31: `give_written`, `give_queued`, and the bytes of an entry. -/
theorem entryIsPlaced : Obligations.EntryIsPlaced := by
  refine ⟨fun s b quiet overflow => ⟨fun r running holding release room => ?_, fun held few => ?_⟩, fun w => ⟨?_, ?_, ?_⟩⟩
  · have now : canWriteNow s = true := (canWriteNow_iff s).2 ⟨running, holding, overflow, r, release, room⟩
    have must : (ringWritten b s).journal.mustClose =
        decide (s.journal.n - 1 - ((ringWritten b s).journal.head + (s.journal.n - r)) % s.journal.n < 64) :=
      mustClose_of_none_waiting (j := (ringWritten b s).journal) release holding overflow
    refine ⟨_, _, give_written quiet now b, rfl, rfl, ?_, fun c other => ?_, rfl, rfl, ?_, ?_⟩
    · exact Memory.read_put_same _ _ _
    · exact Memory.read_put_ne other _ _
    · show (s.journal.closed || (ringWritten b s).journal.mustClose) = true ↔ _
      rw [must, Bool.or_eq_true, decide_eq_true_iff]
      rfl
    · generalize (ringWritten b s).journal.mustClose = m
      simp only [gated, ringWritten, JournalWriter.advance]
      cases m <;> cases s.journal.closed <;> rfl
  · have notNow : canWriteNow s = false := by
      rw [Bool.eq_false_iff, ne_eq, canWriteNow_iff]
      rintro ⟨running, holding, -, r, release, room⟩
      rcases held with h | h | h
      · exact h running
      · exact h holding
      · exact absurd room (Nat.not_le.2 (h r release))
    refine ⟨_, give_queued notNow ((canQueue_iff s).2 ⟨overflow, few⟩) b, rfl, rfl, ?_⟩
    simp only [gated]
    cases s.journal.release <;> cases s.journal.closed <;> rfl
  · rw [entryBytes, List.length_append, entryHeader_length, entryArea_length]
  · rw [entryBytes, List.take_append_of_le_length (entryHeader_length w).ge, List.take_of_length_le (entryHeader_length w).le]
  · intro i unused inside
    rw [entryHeader_used] at unused
    rw [entryBytes, List.getElem?_append_right (by rw [entryHeader_length]; omega), entryHeader_length]
    exact entryArea_zero _ (by omega) (by omega)

/-! ### Folding (R166) -/

/-- The item of the line is a SPOILT entry of cause UNEXPECTED_FEED, of the kind and the lane, that can take one more. -/
def TakesSpoilt (k : StockKind) (l : Lane) (x : OverflowItem) : Prop :=
  ∃ d u f g c w, x = .entry ⟨d, u, .spoilt k f g c l w .unexpectedFeed⟩ ∧ c < 65535

/-- The item of the line is a RESTART entry. -/
def IsRestart (x : OverflowItem) : Prop := ∃ d u c q n r, x = .entry ⟨d, u, .restart c q n r⟩

theorem foldSpoilt_hit {k : StockKind} {l : Lane} {n d f g c : Nat} {u : BitVec 32} {w : Option Window} (room : c < 65535)
    (later : List OverflowItem) :
    foldSpoilt k l n (.entry ⟨d, u, .spoilt k f g c l w .unexpectedFeed⟩ :: later) =
      some (.entry ⟨d, u, .spoilt k f n (c + 1) l w .unexpectedFeed⟩ :: later) := by
  simp [foldSpoilt, room]

theorem foldSpoilt_miss {k : StockKind} {l : Lane} {n : Nat} {x : OverflowItem} (miss : ¬ TakesSpoilt k l x)
    (later : List OverflowItem) : foldSpoilt k l n (x :: later) = (foldSpoilt k l n later).map (x :: ·) := by
  rw [foldSpoilt.eq_def]
  split
  · rename_i empty
    cases empty
  · rename_i same
    cases same
    refine if_neg ?_
    rintro ⟨rfl, rfl, room⟩
    exact miss ⟨_, _, _, _, _, _, rfl, room⟩
  · rename_i same
    cases same
    rfl

theorem foldRestart_hit {cause c : ResetKind} {kept q : Bool} {blanks d n r : Nat} {u : BitVec 32} (later : List OverflowItem) :
    foldRestart cause kept blanks (.entry ⟨d, u, .restart c q n r⟩ :: later) =
      some (.entry ⟨d, u, .restart cause kept (n + blanks) (min 255 (r + 1))⟩ :: later) := rfl

theorem foldRestart_miss {cause : ResetKind} {kept : Bool} {blanks : Nat} {x : OverflowItem} (miss : ¬ IsRestart x)
    (later : List OverflowItem) : foldRestart cause kept blanks (x :: later) = (foldRestart cause kept blanks later).map (x :: ·) := by
  rw [foldRestart.eq_def]
  split
  · rename_i empty
    cases empty
  · rename_i same
    cases same
    exact absurd ⟨_, _, _, _, _, _, rfl⟩ miss
  · rename_i same
    cases same
    rfl

/-- A search of the line that passes over every item up to a place goes on from there. -/
theorem search_append {fold : List OverflowItem → Option (List OverflowItem)} {before : List OverflowItem}
    (miss : ∀ x ∈ before, ∀ r, fold (x :: r) = (fold r).map (x :: ·)) (r : List OverflowItem) :
    fold (before ++ r) = (fold r).map (before ++ ·) := by
  induction before with
  | nil => simp
  | cons x xs ih =>
    rw [List.cons_append, miss x List.mem_cons_self, ih fun y hy => miss y (List.mem_cons_of_mem _ hy), Option.map_map]
    rfl

/-- A search that passes over every item finds none. -/
theorem search_none {fold : List OverflowItem → Option (List OverflowItem)} {o : List OverflowItem} (empty : fold [] = none)
    (miss : ∀ x ∈ o, ∀ r, fold (x :: r) = (fold r).map (x :: ·)) : fold o = none := by
  have h := search_append miss []
  rwa [empty, List.append_nil] at h

theorem foldSpoilt_ne_nil {k : StockKind} {l : Lane} {n : Nat} : ∀ {o o' : List OverflowItem}, foldSpoilt k l n o = some o' → o' ≠ []
  | [], _, h => by cases h
  | x :: r, o', h => by
    by_cases takes : TakesSpoilt k l x
    · obtain ⟨d, u, f, g, c, w, rfl, room⟩ := takes
      rw [foldSpoilt_hit room] at h
      cases h
      exact List.cons_ne_nil _ _
    · rw [foldSpoilt_miss takes, Option.map_eq_some_iff] at h
      obtain ⟨_, -, rfl⟩ := h
      exact List.cons_ne_nil _ _

theorem foldRestart_ne_nil {c : ResetKind} {q : Bool} {n : Nat} : ∀ {o o' : List OverflowItem}, foldRestart c q n o = some o' → o' ≠ []
  | [], _, h => by cases h
  | x :: r, o', h => by
    by_cases takes : IsRestart x
    · obtain ⟨d, u, c', q', n', r', rfl⟩ := takes
      rw [foldRestart_hit] at h
      cases h
      exact List.cons_ne_nil _ _
    · rw [foldRestart_miss takes, Option.map_eq_some_iff] at h
      obtain ⟨_, -, rfl⟩ := h
      exact List.cons_ne_nil _ _

/-- What has come to the line is there, folded or at the back. -/
theorem joinOverflow_ne_nil (e : Entry) (o : List OverflowItem) : joinOverflow e o ≠ [] := by
  have back : o ++ [OverflowItem.entry e] ≠ [] := List.append_ne_nil_of_right_ne_nil _ (List.cons_ne_nil _ _)
  unfold joinOverflow
  split
  · rcases folded : foldSpoilt _ _ _ o with _ | o'
    · exact back
    · exact foldSpoilt_ne_nil folded
  · rcases folded : foldRestart _ _ _ o with _ | o'
    · exact back
    · exact foldRestart_ne_nil folded
  · exact back

/-- An entry that no item of the line can take joins at the back. -/
theorem joinOverflow_back {e : Entry} {o : List OverflowItem}
    (spoilt : ∀ k f n c l w, e.body = .spoilt k f n c l w .unexpectedFeed → ∀ x ∈ o, ¬ TakesSpoilt k l x)
    (restart : ∀ c q n r, e.body = .restart c q n r → ∀ x ∈ o, ¬ IsRestart x) : joinOverflow e o = o ++ [.entry e] := by
  unfold joinOverflow
  split
  · rename_i body
    rw [search_none (fold := foldSpoilt _ _ _) rfl fun x hx => foldSpoilt_miss (spoilt _ _ _ _ _ _ body x hx)]
    rfl
  · rename_i body
    rw [search_none (fold := foldRestart _ _ _) rfl fun x hx => foldRestart_miss (restart _ _ _ _ body x hx)]
    rfl
  · rfl

/-! ### The overflow line (R140, R165) -/

/-- Nothing is written or queued while the line is not empty or the holding queue is full. -/
theorem notPlaced_of_full {s : State} (full : s.journal.overflow ≠ [] ∨ 256 ≤ s.journal.holding.length) :
    canWriteNow s = false ∧ canQueue s = false := by
  simp only [Bool.eq_false_iff, ne_eq, canWriteNow_iff, canQueue_iff]
  refine ⟨?_, fun ⟨overflow, few⟩ => full.elim (· overflow) (Nat.not_le.2 few)⟩
  rintro ⟨-, holding, overflow, -⟩
  rcases full with waits | long
  · exact waits overflow
  · rw [holding] at long
    exact absurd long (by decide)

theorem give_overflowed {s : State} (full : s.journal.overflow ≠ [] ∨ 256 ≤ s.journal.holding.length) (b : EntryBody) :
    give b s = gated s.journal.release.isSome
      { s with journal := { s.journal with overflow := joinOverflow (stamp s b) s.journal.overflow } } := by
  obtain ⟨notNow, notQueue⟩ := notPlaced_of_full full
  rw [give, place, notNow, notQueue, if_neg Bool.false_ne_true, if_neg Bool.false_ne_true, closeGate_eq_gated]
  exact congrArg (gated · _) (mustClose_of_waiting
    (j := { s.journal with overflow := joinOverflow (stamp s b) s.journal.overflow }) (.inr (joinOverflow_ne_nil _ _)))

/-- A FAULT entry that can neither be written nor join the holding queue is deferred (R140). -/
theorem giveFault_deferred {s : State} (full : s.journal.overflow ≠ [] ∨ 256 ≤ s.journal.holding.length) {l : Lane}
    (free : s.faults.recs[l].deferred = none) (k : FaultKind) (recovered : Bool) (repeats : Nat) :
    giveFault l k recovered repeats s = gated s.journal.release.isSome
      { s with
        faults := ⟨s.faults.recs.upd l fun r => { r with deferred := some (k, recovered) }, s.faults.deferral ++ [l]⟩
        journal := { s.journal with overflow := s.journal.overflow ++ [.place l] } } := by
  obtain ⟨notNow, notQueue⟩ := notPlaced_of_full full
  have notDeferred : ¬ s.faults.recs[l].deferred.isSome = true := by rw [free]; exact Bool.false_ne_true
  rw [giveFault, if_neg notDeferred, notNow, notQueue, Bool.or_false, if_neg Bool.false_ne_true, closeGate_eq_gated]
  exact congrArg (gated · _) (mustClose_of_waiting (j := { s.journal with overflow := s.journal.overflow ++ [.place l] })
    (.inr (List.append_ne_nil_of_right_ne_nil _ (List.cons_ne_nil _ _))))

/-- Settles O32: `give_overflowed` with the searches of the line, and `giveFault_deferred`. -/
theorem entriesWait : Obligations.EntriesWait := by
  intro s full
  refine ⟨fun b => ⟨_, give_overflowed full b, rfl, rfl, rfl, ?_, ?_, fun spoilt restart => ?_⟩, fun l k recovered repeats =>
    ⟨fun deferred => ?_, fun free => ⟨_, giveFault_deferred full free k recovered repeats, rfl, rfl, rfl, rfl⟩⟩⟩
  · rintro k n l before later day first last count time w rfl line room passed
    have misses : ∀ x ∈ before, ¬ TakesSpoilt k l x := by
      rintro x hx ⟨d, u, f, g, c, v, rfl, small⟩
      exact absurd small (Nat.not_lt.2 (passed d u f g c v hx))
    simp only [gated, joinOverflow, stamp, line]
    rw [search_append (fold := foldSpoilt _ _ _) fun x hx => foldSpoilt_miss (misses x hx), foldSpoilt_hit room]
    rfl
  · rintro c cause kept q blanks old restarts before later day time rfl line passed
    have misses : ∀ x ∈ before, ¬ IsRestart x := by
      rintro x hx ⟨d, u, c', q', n', r', rfl⟩
      exact passed d u c' q' n' r' hx
    simp only [gated, joinOverflow, stamp, line]
    rw [search_append (fold := foldRestart _ _ _) fun x hx => foldRestart_miss (misses x hx), foldRestart_hit]
    rfl
  · show joinOverflow (stamp s b) s.journal.overflow = _
    refine joinOverflow_back (fun k f n c l w body x hx takes => ?_) (fun c q n r body x hx isRestart => ?_)
    · obtain ⟨d, u, g, h, i, v, rfl, small⟩ := takes
      exact absurd small (Nat.not_lt.2 (spoilt k f n c l w body d u g h i v hx))
    · obtain ⟨d, u, c', q', n', r', rfl⟩ := isRestart
      exact restart c q n r body d u c' q' n' r' hx
  · exact if_pos (Option.isSome_iff_ne_none.2 deferred)

end Sys2Proof.Machine
end

section
/-! The Lane Link's frames and bits (R96, R99 to R101): every well-formed report is read back from its bits. -/

namespace Sys2Proof.Machine

/-! ### Bits and bytes (R96) -/

/-- A byte is spelt by its bits, least significant first. -/
theorem ofBits_byteBits (b : Byte) : BitVec.ofNat 8 (ofBits (byteBits b)) = b := by
  apply BitVec.eq_of_toNat_eq
  have spelt : ofBits (byteBits b) = b.toNat := by
    have small := b.isLt
    have bit (n : Nat) : (if n % 2 = 1 then 1 else 0) = n % 2 := by split <;> omega
    simp only [byteBits, List.range_succ, List.range_zero, List.nil_append, List.cons_append, List.map_cons, List.map_nil, ofBits,
      BitVec.getLsbD, Nat.testBit_eq_decide_div_mod_eq, Bool.toNat, Bool.cond_decide, bit]
    norm_num
    omega
  rw [spelt, BitVec.ofNat_toNat, BitVec.setWidth_eq]

theorem bytesOfBits_lineBits : ∀ bs : List Byte, bytesOfBits (lineBits bs) = bs
  | [] => rfl
  | b :: bs => by
    have head : bytesOfBits (lineBits (b :: bs)) = BitVec.ofNat 8 (ofBits (byteBits b)) :: bytesOfBits (lineBits bs) := rfl
    rw [head, ofBits_byteBits, bytesOfBits_lineBits bs]

/-! ### Frames (R99) -/

theorem ofLe_two {n : Nat} (small : n < 65536) : ofLe (leBytes 2 n) = n := by
  simp only [leBytes, ofLe, BitVec.toNat_ofNat]
  omega

/-- A frame is its flag, type and length, its payload, and the check over all but the flag. -/
theorem frameOf_eq (type : Byte) (payload : List Byte) :
    frameOf type payload = 0x96 :: type :: BitVec.ofNat 8 payload.length :: BitVec.ofNat 8 (payload.length / 256) ::
      (payload ++ crcBytes (type :: BitVec.ofNat 8 payload.length :: BitVec.ofNat 8 (payload.length / 256) :: payload)) := rfl

/-- A frame of at most 1,000 payload bytes is read back (R99). -/
theorem readFrame_frameOf (type : Byte) {payload : List Byte} (short : payload.length ≤ 1000) :
    readFrame (frameOf type payload) = some (type, payload) := by
  have length : ofLe [BitVec.ofNat 8 payload.length, BitVec.ofNat 8 (payload.length / 256)] = payload.length :=
    ofLe_two (by omega)
  rw [frameOf_eq, readFrame]
  simp only [length, List.take_left, List.drop_left, List.length_append]
  exact if_pos ⟨trivial, short, rfl, trivial⟩

/-! ### Reports (R101) -/

/-- The identity text of a CAPACITY in range fits its length byte. -/
theorem identity_length {q k w : Byte} {i : Text} (h : (Report.capacity q k w i).wellFormed = true) : i.length ≤ 32 := by
  simp only [Report.wellFormed, Report.inRange, Bool.and_eq_true, decide_eq_true_eq] at h
  exact h.1.2.2

theorem payload_length {r : Report} (h : r.wellFormed = true) : r.payload.length ≤ 1000 := by
  cases r with
  | capacity q k w i =>
    have := identity_length h
    simp only [Report.payload, List.length_cons]
    omega
  | nothing | accepted | printed | ejected | spoiled | flushed | jammed | outOfStock => exact Nat.le_of_ble_eq_true rfl

/-- The fields of a report are found in its payload. -/
theorem ofPayload_payload {r : Report} (h : r.wellFormed = true) : Report.ofPayload r.type r.payload = some r := by
  cases r with
  | capacity q k w i =>
    have := identity_length h
    refine if_pos ?_
    rw [BitVec.toNat_ofNat]
    omega
  | nothing | accepted | printed | ejected | spoiled | flushed | jammed | outOfStock => rfl

/-- Settles O29: bits to bytes, bytes to a frame, a frame to a report. -/
theorem reportsReadBack : Obligations.ReportsReadBack := by
  refine ⟨fun b bs => rfl, fun r wellFormed => ?_⟩
  rw [readLine, bytesOfBits_lineBits, readReport, Report.bytes, readFrame_frameOf _ (payload_length wellFormed)]
  simp only [ofPayload_payload wellFormed, wellFormed, if_true]

end Sys2Proof.Machine
end

section
/-! Images and what carries them (R56, R63, R86, R99, R100). -/

namespace Sys2Proof.Machine

/-! ### Figures in decimal (R63) -/

/-- The number that digits spell. -/
def spelt (t : Text) : Nat := t.foldl (fun v c => 10 * v + (c.toNat - 48)) 0

/-- Every character is a digit. -/
def AllDigits (t : Text) : Prop := ∀ c ∈ t, 48 ≤ c.toNat ∧ c.toNat ≤ 57

theorem digitChar_toNat (n : Nat) : (digitChar n).toNat = 48 + n % 10 := by
  rw [digitChar, BitVec.toNat_ofNat]
  omega

theorem spelt_snoc (t : Text) (n : Nat) : spelt (t ++ [digitChar n]) = 10 * spelt t + n % 10 := by
  rw [spelt, List.foldl_append, ← spelt, List.foldl_cons, List.foldl_nil, digitChar_toNat]
  omega

theorem allDigits_snoc {t : Text} (h : AllDigits t) (n : Nat) : AllDigits (t ++ [digitChar n]) := by
  intro c hc
  rcases List.mem_append.1 hc with m | m
  · exact h c m
  · rw [List.mem_singleton.1 m, digitChar_toNat]
    omega

theorem allDigits_nil : AllDigits [] := fun _ h => absurd h List.not_mem_nil

theorem digitsOnto_append : ∀ (fuel n : Nat) (acc : Text), digitsOnto fuel n acc = digitsOnto fuel n [] ++ acc
  | 0, _, _ => rfl
  | fuel + 1, n, acc => by
    rw [digitsOnto, digitsOnto]
    split
    · rfl
    · rw [digitsOnto_append fuel _ (digitChar n :: acc), digitsOnto_append fuel _ [digitChar n], List.append_assoc,
        List.singleton_append]

/-- The digits of a number of one digit, and those of a longer one: the last behind those of the rest. -/
theorem digitsOnto_small (fuel : Nat) {n : Nat} (h : n < 10) : digitsOnto (fuel + 1) n [] = [] ++ [digitChar n] := by
  rw [digitsOnto, if_pos h]
  rfl

theorem digitsOnto_large (fuel : Nat) {n : Nat} (h : 10 ≤ n) :
    digitsOnto (fuel + 1) n [] = digitsOnto fuel (n / 10) [] ++ [digitChar n] := by
  rw [digitsOnto, if_neg (Nat.not_lt.2 h), digitsOnto_append]

/-- Digits enough for a number spell it. -/
theorem digitsOnto_spells : ∀ {fuel n : Nat}, n < 10 ^ fuel → AllDigits (digitsOnto fuel n []) ∧ spelt (digitsOnto fuel n []) = n
  | 0, n, h => ⟨allDigits_nil, (Nat.lt_one_iff.1 h).symm⟩
  | fuel + 1, n, h => by
    rcases Nat.lt_or_ge n 10 with small | large
    · rw [digitsOnto_small fuel small, spelt_snoc]
      exact ⟨allDigits_snoc allDigits_nil n, (Nat.zero_add _).trans (Nat.mod_eq_of_lt small)⟩
    · have fits : n / 10 < 10 ^ fuel := by rw [pow_succ] at h; omega
      obtain ⟨digits, value⟩ := digitsOnto_spells fits
      rw [digitsOnto_large fuel large, spelt_snoc, value]
      exact ⟨allDigits_snoc digits n, by omega⟩

/-- No number above 0 has a leading zero. -/
theorem digitsOnto_head : ∀ {fuel n : Nat}, n < 10 ^ fuel → 1 ≤ n → ∃ c t, digitsOnto fuel n [] = c :: t ∧ c ≠ 0x30
  | 0, n, h, pos => by omega
  | fuel + 1, n, h, pos => by
    rcases Nat.lt_or_ge n 10 with small | large
    · refine ⟨digitChar n, [], digitsOnto_small fuel small, fun zero => ?_⟩
      have := congrArg BitVec.toNat zero
      rw [digitChar_toNat] at this
      have : 48 + n % 10 = 48 := this
      omega
    · obtain ⟨c, t, digits, nonzero⟩ := digitsOnto_head (fuel := fuel) (n := n / 10) (by rw [pow_succ] at h; omega) (by omega)
      exact ⟨c, t ++ [digitChar n], by rw [digitsOnto_large fuel large, digits]; rfl, nonzero⟩

theorem decimal_leading_zero {n : Nat} (h : n < 10 ^ 20) (zero : (decimal n).head? = some 0x30) : decimal n = [0x30] := by
  rcases Nat.eq_zero_or_pos n with rfl | pos
  · rfl
  · obtain ⟨c, t, digits, nonzero⟩ := digitsOnto_head h pos
    rw [decimal, digits] at zero
    exact absurd (Option.some.inj zero) nonzero

theorem fixedDigits_spells : ∀ w n : Nat,
    (fixedDigits w n).length = w ∧ AllDigits (fixedDigits w n) ∧ spelt (fixedDigits w n) = n % 10 ^ w
  | 0, n => ⟨rfl, allDigits_nil, by rw [pow_zero, Nat.mod_one]; rfl⟩
  | w + 1, n => by
    obtain ⟨length, digits, value⟩ := fixedDigits_spells w (n / 10)
    refine ⟨?_, allDigits_snoc digits n, ?_⟩
    · rw [fixedDigits, List.length_append, length, List.length_singleton]
    · rw [fixedDigits, spelt_snoc, value, pow_succ', Nat.mod_mul]
      omega

/-! ### Composition (R63) -/

/-- Whether a source is left-aligned, and its text before it is cut or padded (R63). -/
def sourceText (d : ImageData) (n : Nat) : FieldSource → Bool × Text
  | .text k => (true, d.items.getD k.val [])
  | .fareTotal => (false, decimal d.figures.total)
  | .adultFare => (false, decimal d.figures.pAdult)
  | .childFare => (false, decimal d.figures.pChild)
  | .passengers => (true, passengers d.na d.nc)
  | .discountName => (true, d.figures.name)
  | .serial => (false, asterisks n)
  | .kindName => (true, d.kindName)
  | .window => (false, fixedDigits 2 d.window.val)
  | .issueDay => (false, decimal d.day)
  | .issueTime => (false, decimal d.time.toNat)

theorem alignRight_asterisks (n : Nat) : alignRight n (asterisks n) = asterisks n := by
  simp [alignRight, asterisks]

theorem fieldText_eq (d : ImageData) (n : Nat) (src : FieldSource) :
    fieldText d n src = if (sourceText d n src).1 then alignLeft n (sourceText d n src).2 else alignRight n (sourceText d n src).2 := by
  cases src with
  | serial => exact (alignRight_asterisks n).symm
  | text | fareTotal | adultFare | childFare | passengers | discountName | kindName | window | issueDay | issueTime => rfl

theorem compose_getElem? {d : ImageData} {layout : List LayoutField} {i : Nat} {f : LayoutField} (h : layout[i]? = some f) :
    (compose d layout)[i]? = some (composeField d f) := by
  rw [compose, List.getElem?_map, h]
  rfl

/-! ### The frames of an image (R100) -/

theorem bytes_length (f : ImageField) : f.bytes.length = 3 + f.text.length := by
  simp only [ImageField.bytes, List.length_cons]
  omega

/-- The leading fields fit, and with the first field of the rest they would not. -/
theorem splitFields_spec : ∀ (room : Nat) (fs : List ImageField),
    fs = (splitFields room fs).1 ++ (splitFields room fs).2 ∧
    (((splitFields room fs).1.map fun f => 3 + f.text.length).sum ≤ room) ∧
    ∀ f later, (splitFields room fs).2 = f :: later →
      room < (((splitFields room fs).1.map fun f => 3 + f.text.length).sum) + (3 + f.text.length)
  | room, [] => ⟨rfl, Nat.zero_le _, fun _ _ h => by cases h⟩
  | room, f :: fs => by
    rw [splitFields]
    split
    next fits =>
      obtain ⟨whole, sum, last⟩ := splitFields_spec (room - f.bytes.length) fs
      rw [bytes_length] at fits whole sum last ⊢
      refine ⟨congrArg (f :: ·) whole, ?_, fun g later rest => ?_⟩
      · rw [List.map_cons, List.sum_cons]
        omega
      · have := last g later rest
        rw [List.map_cons, List.sum_cons]
        omega
    next tooLong =>
      rw [bytes_length] at tooLong
      refine ⟨rfl, Nat.zero_le _, fun g later rest => ?_⟩
      cases rest
      rw [List.map_nil, List.sum_nil]
      omega

theorem partFields_eq (im : List ImageField) (part : Nat) :
    partFields im part = if part = 1 then (splitFields 992 im).1 else if part = 2 then (splitFields 992 im).2 else im := by
  unfold partFields
  split
  · rfl
  · rfl
  · rename_i notFirst notSecond
    rw [if_neg notFirst, if_neg notSecond]

theorem leBytes_four (n : Nat) : leBytes 4 n =
    [BitVec.ofNat 8 n, BitVec.ofNat 8 (n / 256), BitVec.ofNat 8 (n / 65536), BitVec.ofNat 8 (n / 16777216)] := by
  simp only [leBytes, Nat.div_div_eq_div_mul, Nat.reduceMul]

/-! ### Text items (R56) -/

theorem textItems_cons (n : Nat) (len : Byte) (rest : List Byte) :
    textItems (n + 1) (len :: rest) =
      if len.toNat ≤ 40 ∧ len.toNat ≤ rest.length then
        (textItems n (rest.drop len.toNat)).map (rest.take len.toNat :: ·)
      else none := rfl

/-- The items of an area are the length-led pieces at its front. -/
theorem textItems_iff : ∀ (n : Nat) (area : List Byte) (items : List Text), textItems n area = some items ↔
    items.length = n ∧ (∀ i ∈ items, i.length ≤ 40) ∧
      ∃ rest, area = (items.flatMap fun i => BitVec.ofNat 8 i.length :: i) ++ rest
  | 0, area, items => by
    constructor
    · rintro ⟨⟩
      exact ⟨rfl, fun _ h => absurd h List.not_mem_nil, area, rfl⟩
    · rintro ⟨empty, -⟩
      rw [List.length_eq_zero_iff.1 empty]
      rfl
  | n + 1, [], items => by
    refine ⟨fun h => (by cases h), ?_⟩
    rintro ⟨length, -, rest, area⟩
    obtain ⟨i, is, rfl⟩ := List.exists_cons_of_length_eq_add_one length
    cases area
  | n + 1, len :: rest, items => by
    rw [textItems_cons]
    constructor
    · intro found
      split at found
      next fits =>
        obtain ⟨is, later, rfl⟩ := Option.map_eq_some_iff.1 found
        obtain ⟨length, short, behind, area⟩ := (textItems_iff n _ is).1 later
        have taken : (rest.take len.toNat).length = len.toNat := List.length_take_of_le fits.2
        refine ⟨by rw [List.length_cons, length], ?_, behind, ?_⟩
        · rintro i (_ | ⟨_, m⟩)
          · exact taken.trans_le fits.1
          · exact short i m
        · rw [List.flatMap_cons, taken, BitVec.ofNat_toNat, BitVec.setWidth_eq, List.cons_append, List.cons_append,
            List.append_assoc, ← area, List.take_append_drop]
      next => cases found
    · rintro ⟨length, short, behind, area⟩
      obtain ⟨i, is, rfl⟩ := List.exists_cons_of_length_eq_add_one length
      rw [List.flatMap_cons, List.cons_append, List.cons_append, List.append_assoc, List.cons.injEq] at area
      obtain ⟨rfl, rfl⟩ := area
      have small : i.length ≤ 40 := short i List.mem_cons_self
      have value : (BitVec.ofNat 8 i.length).toNat = i.length := by rw [BitVec.toNat_ofNat]; omega
      rw [value, if_pos ⟨small, by rw [List.length_append]; omega⟩, List.drop_left, List.take_left,
        (textItems_iff n _ is).2 ⟨Nat.succ.inj length, fun j m => short j (List.mem_cons_of_mem _ m), behind, rfl⟩]
      rfl

/-! ### Buffers (R86) -/

/-- The first that meets a test in a rising list is the lowest that does. -/
theorem find?_rising {p : Buffer → Bool} {b : Buffer} : ∀ {l : List Buffer}, l.Pairwise (· < ·) →
    (l.find? p = some b ↔ b ∈ l ∧ p b = true ∧ ∀ c ∈ l, c < b → p c = false)
  | [], _ => by simp
  | a :: l, rising => by
    obtain ⟨first, rest⟩ := List.pairwise_cons.1 rising
    rw [List.find?_cons]
    split
    next here =>
      constructor
      · rintro ⟨⟩
        refine ⟨List.mem_cons_self, here, ?_⟩
        rintro c (_ | ⟨_, m⟩) less
        · exact absurd less (lt_irrefl _)
        · exact absurd less (lt_asymm (first c m))
      · rintro ⟨_ | ⟨_, m⟩, -, lowest⟩
        · rfl
        · exact absurd here (Bool.eq_false_iff.1 (lowest a List.mem_cons_self (first b m)))
    next notHere =>
      rw [find?_rising rest]
      constructor
      · rintro ⟨m, free, lowest⟩
        refine ⟨List.mem_cons_of_mem _ m, free, ?_⟩
        rintro c (_ | ⟨_, mc⟩) less
        · exact notHere
        · exact lowest c mc less
      · rintro ⟨_ | ⟨_, m⟩, free, lowest⟩
        · rw [free] at notHere
          cases notHere
        · exact ⟨m, free, fun c mc => lowest c (List.mem_cons_of_mem _ mc)⟩

theorem mem_sharedBuffers (b : Buffer) : b ∈ sharedBuffers ↔ b.val < 32 := by
  simp [sharedBuffers]

theorem sharedBuffers_rising : sharedBuffers.Pairwise (· < ·) :=
  (List.pairwise_lt_finRange 48).filter _

theorem reservedPair_rising (l : Lane) : (reservedPair l).Pairwise (· < ·) :=
  List.pairwise_pair.2 (Fin.mk_lt_mk.2 (by omega))

theorem mem_reservedPair (l : Lane) (b : Buffer) : b ∈ reservedPair l ↔ b.val = 32 + 2 * l.val ∨ b.val = 33 + 2 * l.val := by
  simp [reservedPair, Fin.ext_iff]

theorem bufferFree_eq_false (s : State) (b : Buffer) : s.bufferFree b = false ↔ s.images[b] ≠ none := by
  rw [State.bufferFree, ← Option.isSome_iff_ne_none]
  cases s.images[b] <;> simp

theorem bufferFree_eq_true (s : State) (b : Buffer) : s.bufferFree b = true ↔ s.images[b] = none := Option.isNone_iff_eq_none

/-- The buffer given for a lane: the lowest free shared one, else the lower free one of its pair (R86). -/
theorem pickBuffer_iff (s : State) (l : Lane) (b : Buffer) : pickBuffer s l = some b ↔ s.images[b] = none ∧
    (b.val < 32 ∧ (∀ c : Buffer, c < b → s.images[c] ≠ none) ∨
      (∀ c : Buffer, c.val < 32 → s.images[c] ≠ none) ∧ (b.val = 32 + 2 * l.val ∨
        b.val = 33 + 2 * l.val ∧ ∀ c : Buffer, c.val = 32 + 2 * l.val → s.images[c] ≠ none)) := by
  rw [pickBuffer, List.find?_append, Option.or_eq_some_iff, find?_rising sharedBuffers_rising,
    find?_rising (reservedPair_rising l), List.find?_eq_none]
  simp only [mem_sharedBuffers, mem_reservedPair, bufferFree_eq_false, bufferFree_eq_true, Fin.lt_def]
  constructor
  · rintro (⟨shared, free, lowest⟩ | ⟨noShared, own, free, lowest⟩)
    · exact ⟨free, .inl ⟨shared, fun c less => lowest c (less.trans shared) less⟩⟩
    · refine ⟨free, .inr ⟨noShared, own.imp_right fun upper => ⟨upper, fun c lower => lowest c (.inl lower) (by omega)⟩⟩⟩
  · rintro ⟨free, ⟨shared, lowest⟩ | ⟨noShared, own⟩⟩
    · exact .inl ⟨shared, free, fun c _ less => lowest c less⟩
    · refine .inr ⟨noShared, own.imp_right And.left, free, fun c either less => ?_⟩
      rcases own with lower | ⟨upper, taken⟩
      · omega
      · exact taken c (by omega)

/-- The check over one more byte (R99). -/
theorem crc_snoc (bs : List Byte) (b : Byte) : crc (bs ++ [b]) = (List.range 8).foldl
    (fun c _ => if c.getLsbD 15 then (c <<< 1) ^^^ 0x1021 else c <<< 1) (crc bs ^^^ (b.setWidth 16 <<< 8)) := by
  rw [crc, List.foldl_append]
  rfl

/-- Settles O30: composition, figures, the two parts, the IMAGE frame, the check, text items, buffers. -/
theorem imagesAndFrames : Obligations.ImagesAndFrames := by
  refine ⟨fun d layout => ⟨List.length_map _, fun i f found => ?_⟩, fun n small => ?_, fixedDigits_spells, fun fs => ?_, ?_,
    ⟨rfl, crc_snoc, by decide +kernel⟩, textItems_iff, pickBuffer_iff⟩
  · refine ⟨composeField d f, f.printable, (sourceText d f.printable f.source).1, (sourceText d f.printable f.source).2,
      compose_getElem? found, rfl, ?_, rfl, rfl, rfl, decide_eq_true_iff, fieldText_eq d f.printable f.source⟩
    rcases f with ⟨row, col, width, double, source⟩
    cases source <;> rfl
  · obtain ⟨digits, value⟩ := digitsOnto_spells small
    exact ⟨digits, value, decimal_leading_zero small⟩
  · obtain ⟨whole, sum, last⟩ := splitFields_spec 992 fs
    exact ⟨_, _, rfl, whole, sum, last⟩
  · rintro ref part serial kind im fs payload head fields rfl rfl
    rw [imageBytes, partFields_eq, ← fields, imagePayload, leBytes_four]
    rfl

end Sys2Proof.Machine
end

section
/-! Operations that neither see nor change the Journal Writer, the exchange and host memory, and what follows when an entry
is given among them. -/

namespace Sys2Proof.Machine

/-- The state with another Journal Writer, exchange and host memory. -/
def State.outward (s : State) (j : JournalWriter) (x : ExchangeController) (h : HostMem) : State :=
  { s with journal := j, exch := x, host := h }

/-- The operation neither sees nor changes the Journal Writer, the exchange and host memory. -/
def Inward (f : State → State) : Prop := ∀ s j x h, f (s.outward j x h) = (f s).outward j x h

namespace Inward

variable {f g : State → State}

/-- What an inward operation leaves as it was. -/
theorem rest (hf : Inward f) (s : State) : f s = (f s).outward s.journal s.exch s.host := hf s s.journal s.exch s.host

theorem journal (hf : Inward f) (s : State) : (f s).journal = s.journal := by rw [hf.rest s]; rfl

theorem exch (hf : Inward f) (s : State) : (f s).exch = s.exch := by rw [hf.rest s]; rfl

theorem host (hf : Inward f) (s : State) : (f s).host = s.host := by rw [hf.rest s]; rfl

/-- An inward operation under another exchange and host memory alone. -/
theorem under (hf : Inward f) (s : State) (x : ExchangeController) (h : HostMem) :
    f { s with exch := x, host := h } = { f s with exch := x, host := h } :=
  (hf s s.journal x h).trans (by rw [State.outward, ← hf.journal s])

theorem comp (hg : Inward g) (hf : Inward f) : Inward fun s => g (f s) := fun s j x h => by
  simp only [hf s j x h, hg (f s) j x h]

/-- An inward operation on two states that differ outward alone. -/
theorem after (hf : Inward f) {s t : State} {j : JournalWriter} {x : ExchangeController} {h : HostMem} (e : t = s.outward j x h) :
    f t = (f s).outward j x h := by
  rw [e, hf]

/-- A choice that does not look at the journal, the exchange and host memory. -/
theorem ite {p : State → Prop} [∀ s, Decidable (p s)] (hp : ∀ s j x h, p (s.outward j x h) = p s) (hf : Inward f) (hg : Inward g) :
    Inward fun s => if p s then f s else g s := fun s j x h => by
  by_cases c : p s
  · simp only [hp s j x h, if_pos c, hf s j x h]
  · simp only [hp s j x h, if_neg c, hg s j x h]

theorem id : Inward fun s => s := fun _ _ _ _ => rfl

theorem beginCarried (l : Lane) (c : Carried) : Inward (beginCarried l c) := fun s j x h => by
  rcases c with ⟨_ | _ | _ | _, _⟩ <;> rfl

theorem beginExchange (l : Lane) (f : Frame) : Inward (beginExchange l f) := fun s j x h =>
  beginCarried l (carry s l f) s j x h

theorem pump (l : Lane) : Inward (pump l) := fun s j x h => by
  have between : ((s.outward j x h).lane l).link = (s.lane l).link := rfl
  unfold Machine.pump
  rw [between]
  split
  · split
    · rfl
    · exact (beginExchange l _).after rfl
  · rfl

theorem stallEdge (was : Bool) (l : Lane) : Inward (stallEdge was l) := fun s j x h => by
  have same : stalled (s.outward j x h) l = stalled s l := rfl
  unfold Machine.stallEdge
  rw [same]
  split
  · rfl
  · split <;> rfl

theorem withStall (l : Lane) (hf : Inward f) : Inward (withStall l f) := fun s j x h => by
  have same : stalled (s.outward j x h) l = stalled s l := rfl
  rw [Machine.withStall, Machine.withStall, same, hf s j x h, stallEdge]

theorem sendFront (l : Lane) : Inward (sendFront l) := fun s j x h => by
  have queue : ((s.outward j x h).lane l).queue = (s.lane l).queue := rfl
  have mag : (s.outward j x h).mag l = s.mag l := rfl
  unfold Machine.sendFront
  rw [queue, mag]
  split <;> rfl

theorem trySend (l : Lane) : Inward (trySend l) :=
  ite (fun _ _ _ _ => rfl) ((pump l).comp ((sendFront l).withStall l)) id

theorem joinLane (l : Lane) (j : Job) : Inward (joinLane l j) :=

  fun s _ _ _ => (trySend l).after (congrArg (State.onAct · l _) (withStall l (fun _ _ _ _ => rfl) s _ _ _))

theorem linkStart (l : Lane) : Inward (linkStart l) := fun _ _ _ _ => (beginExchange l .greet).after rfl

theorem beginLinkStart (l : Lane) : Inward (beginLinkStart l) := fun s j x h => by
  have same : ((s.outward j x h).lane l).link = (s.lane l).link := rfl
  unfold Machine.beginLinkStart
  rw [same]
  split
  · rfl
  · exact linkStart l s j x h

end Inward

/-- A change of one lane's record depends on that record alone. -/
theorem State.onLane_congr {s : State} {l : Lane} {f g : LaneRec → LaneRec} (h : f s.lanes[l] = g s.lanes[l]) :
    s.onLane l f = s.onLane l g := by
  simp only [State.onLane, Table.upd, h]

theorem State.onLane_id {s : State} {l : Lane} {f : LaneRec → LaneRec} (h : f s.lanes[l] = s.lanes[l]) : s.onLane l f = s := by
  have same : s.lanes.upd l f = s.lanes := by rw [Table.upd, h]; exact Vector.set_getElem_self _
  rw [State.onLane, same]

/-! ### Stalls (R90, R91) -/

/-- A lane with this magazine is stalled (R90). -/
def laneStalled (r : LaneRec) (m : Option Loaded) : Bool := decide (r.state = .holding) || (!r.queue.isEmpty && magSpent m)

theorem stalled_eq (s : State) (l : Lane) : stalled s l = laneStalled s.lanes[l] s.stock.mags[l] := rfl

/-- The patience timer at the beginning and at the end of a stall (R91). -/
def LaneRec.edged (was now : Bool) (timer : Option Nat) (r : LaneRec) : LaneRec :=
  { r with patience := if !was && now then timer else if was && !now then none else r.patience }

@[simp] theorem LaneRec.edged_same (was : Bool) (timer : Option Nat) (r : LaneRec) : r.edged was was timer = r := by
  cases was <;> rfl

@[simp] theorem LaneRec.edged_begins (timer : Option Nat) (r : LaneRec) : r.edged false true timer = { r with patience := timer } := rfl

@[simp] theorem LaneRec.edged_ends (timer : Option Nat) (r : LaneRec) : r.edged true false timer = { r with patience := none } := rfl

theorem laneStalled_holding {r : LaneRec} (h : r.state = .holding) (m : Option Loaded) : laneStalled r m = true := by
  simp only [laneStalled, h, decide_true, Bool.true_or]

theorem laneStalled_working {r : LaneRec} (h : r.state ≠ .holding) (m : Option Loaded) :
    laneStalled r m = (!r.queue.isEmpty && magSpent m) := by
  simp only [laneStalled, h, decide_false, Bool.false_or]

theorem stallEdge_eq (was : Bool) (l : Lane) (s : State) :
    stallEdge was l s = s.onLane l fun r => r.edged was (stalled s l) (patienceTimer s) := by
  unfold stallEdge LaneRec.edged
  split
  · rfl
  · split
    · rfl
    · exact (State.onLane_id rfl).symm

/-! ### An entry given among inward operations -/

/-- An entry is given alike before and after an inward operation that leaves the day and the office time. -/
theorem give_inward {f : State → State} (hf : Inward f) {s : State} (quiet : s.host.busIn = none)
    (day : (f s).office.day = s.office.day) (clock : (f s).office.clock = s.office.clock) (b : EntryBody) :
    give b (f s) = f (give b s) := by
  have same : SameJournal s (f s) := ⟨hf.journal s, by rw [hf.host], by rw [hf.exch], by rw [hf.exch], by rw [hf.exch],
    by rw [hf.exch], day, clock⟩
  have quiet' : (f s).host.busIn = none := by rw [hf.host, quiet]
  have before := give_journalled quiet b
  have after := give_journalled quiet' b
  have alike := give_same same quiet quiet' b
  have given : f (give b s) = (f s).outward (give b s).journal (give b s).exch (give b s).host :=
    (congrArg f before.rest).trans (hf s _ _ _)
  rw [given, after.rest, alike.journal, after.exch, alike.alerts, hf.exch, ← before.exch, after.host, alike.ring, hf.host,
    ← before.host]
  rfl

end Sys2Proof.Machine
end

section
/-! Orders that are answered DONE at their take with fields fixed there: the take as one change of the part's own records and
the entries it gives; and the orders of the Stock Register (R9 to R13). -/

namespace Sys2Proof.Machine

/-- An accepted order answered DONE: `g` is the state that its changes leave of the part's own records, whatever the exchange
and host memory are; `a` is the office record under which its entries are given (R43, R165). -/
theorem Offers.done {r : OrderRule} {o : OrderHdr} {b : OrderBody} {owner : Source → Tag → Option (List Byte) → State → Verdict}
    {s g : State} {src : Source} {tag : Tag} {change : State → State} {F : AnswerFields} {es : List EntryBody} {a : OfficeControl}
    (offers : Offers s o.slot src tag) (verdict : verdictOf r o src (owner src tag) s = acceptDone change F)
    (changes : ∀ x h, h.busIn = none → change { s with exch := x, host := h } = giveAll es { g with exch := x, host := h })
    (journal : g.journal = s.journal) (day : g.office.day = a.day) (clock : g.office.clock = a.clock) :
    ∃ t, takeOrder r o b Env.quiet owner s = t ∧ t = { g with journal := t.journal, exch := t.exch, host := t.host } ∧
      Gives es { s with office := a } t ∧ Answers s t o.slot src ⟨.done, r.code, tag, g.office.clock, F⟩ := by
  obtain ⟨x, h, frame, quiet⟩ := takenState_frame s r o b src
  have quiet := quiet.trans offers.quiet
  have same := takenState_sameJournal s r o b src
  have applied := changes x h quiet
  rw [← frame] at applied
  have own : OwnEffect (takenState s r o b src) { g with exch := x, host := h } := by
    rw [frame]
    exact ⟨rfl, rfl⟩
  have alike : SameJournal { s with office := a } { g with exch := x, host := h } := by
    rw [frame] at same
    exact ⟨journal, same.ring, same.alerts, same.state, same.base, same.offset, day, clock⟩
  obtain ⟨t, taken, rest, gives, answers⟩ := takeOrder_gives offers verdict applied own alike offers.quiet
  exact ⟨t, taken, rest, gives, answers⟩

/-! ### STOCK RECEIVE (R9, R10) -/

theorem rangeOk_of {first count : Nat} (some_blank : 1 ≤ count) (few : count ≤ 100000) (last : first + count - 1 ≤ 99999999) :
    rangeOk first count = true := decide_eq_true ⟨some_blank, few, last⟩

/-- The merged list has a run with the received range inside it. -/
theorem mergeRun_holding {k : StockKind} {f c : Nat} {rs runs : List Run} (some_blank : 1 ≤ c) (merged : mergeRun k f c rs = some runs) :
    (runHolding k f c runs).isSome = true := by
  unfold mergeRun at merged
  split at merged
  · split at merged
    · cases merged
      exact runHolding_isSome (r := ⟨k, f, c⟩) ((insertSorted_perm _ _).mem_iff.2 List.mem_cons_self) rfl le_rfl le_rfl
    · cases merged
  next b below above =>
    cases merged
    obtain ⟨mem, kind, stop⟩ := runBefore_some below
    refine runHolding_isSome (List.mem_map_of_mem mem) ?_ ?_ ?_
    all_goals rw [if_pos rfl]
    · exact kind
    · show b.first ≤ f
      omega
    · show f + c ≤ b.first + (b.count + c)
      omega
  next a below above =>
    cases merged
    obtain ⟨mem, kind, start⟩ := runAfter_some above
    refine runHolding_isSome (List.mem_map_of_mem mem) ?_ ?_ ?_
    all_goals rw [if_pos rfl]
    · exact kind
    · show f + c ≤ f + (a.count + c)
      omega
  next b a below above =>
    cases merged
    obtain ⟨mem, kind, stop⟩ := runBefore_some below
    obtain ⟨_, _, start⟩ := runAfter_some above
    have distinct : b ≠ a := fun e => by rw [e] at stop; omega
    refine runHolding_isSome (List.mem_map_of_mem (List.mem_filter.2 ⟨mem, decide_eq_true distinct⟩)) ?_ ?_ ?_
    all_goals rw [if_pos rfl]
    · exact kind
    · show b.first ≤ f
      omega
    · show f + c ≤ b.first + (b.count + c + a.count)
      omega

theorem receiveVerdict_accepts {s : State} {k : StockKind} {f c : Nat} {runs : List Run} {r : Run} (apart : overlaps s k f c = false)
    (room : s.stock.counters[k].received + c ≤ 4294967295) (merged : mergeRun k f c s.stock.runs = some runs)
    (found : runHolding k f c runs = some r) :
    receiveVerdict k f c s = acceptDone (applyReceive k f c runs) (.stock k r.first r.count) := by
  simp only [receiveVerdict, apart, Bool.false_eq_true, if_false, if_neg (Nat.not_lt.2 room : ¬ Config.max32 < _), merged, found,
    Option.getD_some]

/-! ### MAGAZINE LOAD (R11, R12) -/

theorem loadVerdict_accepts {s : State} {l : Lane} {k : StockKind} {f c : Nat} {r : Run}
    (free : s.lanes[l].state = .off ∨ (∃ w, s.lanes[l].state = .parked w) ∨ (s.lanes[l].state = .ready ∧ s.lanes[l].out = []))
    (empty : s.stock.mags[l] = none) (kinds : ∀ j ∈ s.lanes[l].queue, j.kind = k)
    (found : runHolding k f c s.stock.runs = some r) (room : ¬ (r.splits f c ∧ Config.maxRuns ≤ s.stock.runs.length)) :
    loadVerdict l k f c s = acceptDone (applyLoad l k f c) (.magazine (loadedWith k f c)) := by
  have ready : loadable (s.lane l) = true := by
    have record : s.lane l = s.lanes[l] := rfl
    rcases free with off | ⟨w, parked⟩ | ⟨ready, out⟩
    · simp only [loadable, record, off]
    · simp only [loadable, record, parked]
    · simp only [loadable, record, ready, out, List.isEmpty_nil]
  have noMag : (s.mag l).isSome = false := by rw [State.mag, empty]; rfl
  have sameKind : ((s.lane l).queue.any fun j => decide (j.kind ≠ k)) = false :=
    List.any_eq_false.2 fun j mem => by rw [decide_eq_true_eq]; exact fun other => other (kinds j mem)
  simp only [loadVerdict, ready, noMag, sameKind, found, if_neg room, Bool.not_true, Bool.false_eq_true, if_false]

/-- The load itself (R12). -/
def stocked (l : Lane) (k : StockKind) (f c : Nat) (s : State) : State :=
  (s.onStock fun r => { r with runs := takeRange k f c r.runs }).setMag l (some (loadedWith k f c))

/-- The end of the stall of a queue that had no stock (R91). -/
def patienceEnded (q : LaneRec) : LaneRec := if q.queue = [] then q else { q with patience := none }

theorem trySend_office (l : Lane) (s : State) :
    (trySend l s).office = { s.office with flight := (trySend l s).office.flight } := by
  unfold trySend
  split
  · rw [(LaneOnly.pump l _).rest]
    unfold withStall
    rw [(LaneOnly.stallEdge _ l _).rest]
    unfold sendFront
    split <;> rfl
  · rfl

theorem give_stallEdge {s : State} (quiet : s.host.busIn = none) (was : Bool) (l : Lane) (b : EntryBody) :
    give b (stallEdge was l s) = stallEdge was l (give b s) :=
  give_inward (Inward.stallEdge was l) quiet (by rw [(LaneOnly.stallEdge was l s).rest]) (by rw [(LaneOnly.stallEdge was l s).rest]) b

theorem give_trySend {s : State} (quiet : s.host.busIn = none) (l : Lane) (b : EntryBody) :
    give b (trySend l s) = trySend l (give b s) :=
  give_inward (Inward.trySend l) quiet (by rw [trySend_office]) (by rw [trySend_office]) b

theorem stallEdge_stocked {s : State} {l : Lane} {k : StockKind} {f c : Nat} (some_blank : 1 ≤ c)
    (notHolding : s.lanes[l].state ≠ .holding) (empty : s.stock.mags[l] = none) :
    stallEdge (stalled s l) l (stocked l k f c s) = (stocked l k f c s).onLane l patienceEnded := by
  have full : magSpent (some (loadedWith k f c)) = false := decide_eq_false (by simp only [loadedWith]; omega)
  have before : stalled s l = laneStalled s.lanes[l] none := by rw [stalled_eq, empty]
  have after : stalled (stocked l k f c s) l = laneStalled s.lanes[l] (some (loadedWith k f c)) := by
    rw [stalled_eq, stocked, State.setMag_stock, Table.upd_same]
    rfl
  rw [stallEdge_eq, before, after]
  refine State.onLane_congr ?_
  show LaneRec.edged _ _ _ s.lanes[l] = patienceEnded s.lanes[l]
  revert notHolding
  generalize s.lanes[l] = r
  intro notHolding
  rw [laneStalled_working notHolding, laneStalled_working notHolding, full, patienceEnded, magSpent]
  rcases queue : r.queue with _ | ⟨j, q⟩ <;> simp [queue]

theorem applyLoad_eq {s : State} {l : Lane} {k : StockKind} {f c : Nat} (quiet : s.host.busIn = none) (some_blank : 1 ≤ c)
    (notHolding : s.lanes[l].state ≠ .holding) (empty : s.stock.mags[l] = none) :
    applyLoad l k f c s = give (.stock .loaded k f c (some l)) (trySend l ((stocked l k f c s).onLane l patienceEnded)) := by
  rw [← stallEdge_stocked some_blank notHolding empty]
  rw [give_trySend, give_stallEdge]
  · rfl
  · exact quiet
  · rw [(LaneOnly.stallEdge _ l _).rest]
    exact quiet

/-! ### MAGAZINE UNLOAD (R13) -/

/-- A lane that wants stock: its stall begins unless it is stalled already (R90, R91). -/
def patienceBegun (st : Settings) (m : Loaded) (q : LaneRec) : LaneRec :=
  if q.state ≠ .holding ∧ q.queue ≠ [] ∧ m.next ≤ m.last then
    { q with patience := if st.patience = 0 then none else some st.patience }
  else q

/-- The unload itself (R13). -/
def unstocked (l : Lane) (runs : List Run) (s : State) : State := (s.onStock fun r => { r with runs := runs }).setMag l none

theorem stallEdge_unstocked {s : State} {l : Lane} {m : Loaded} {runs : List Run} (mag : s.stock.mags[l] = some m) :
    stallEdge (stalled s l) l (unstocked l runs s) = (unstocked l runs s).onLane l (patienceBegun s.office.settings m) := by
  have before : stalled s l = laneStalled s.lanes[l] (some m) := by rw [stalled_eq, mag]
  have after : stalled (unstocked l runs s) l = laneStalled s.lanes[l] none := by
    rw [stalled_eq, unstocked, State.setMag_stock, Table.upd_same]
    rfl
  have timer : patienceTimer (unstocked l runs s) =
      if s.office.settings.patience = 0 then none else some s.office.settings.patience := rfl
  rw [stallEdge_eq, before, after, timer]
  refine State.onLane_congr ?_
  show LaneRec.edged _ _ _ s.lanes[l] = patienceBegun s.office.settings m s.lanes[l]
  generalize s.lanes[l] = r
  by_cases holding : r.state = .holding
  · have same : patienceBegun s.office.settings m r = r := if_neg fun begins => begins.1 holding
    rw [laneStalled_holding holding, laneStalled_holding holding, same, LaneRec.edged_same]
  · rw [laneStalled_working holding, laneStalled_working holding, patienceBegun]
    rcases queue : r.queue with _ | ⟨j, q⟩
    · simp
    · by_cases some_left : m.next ≤ m.last
      · simp [queue, magSpent, holding, some_left, Nat.not_lt.2 some_left]
      · simp [magSpent, some_left, Nat.not_le.1 some_left]

theorem applyUnload_eq {s : State} {l : Lane} {m : Loaded} (runs : List Run) (quiet : s.host.busIn = none)
    (mag : s.stock.mags[l] = some m) :
    applyUnload l m runs s = give (.stock .unloaded m.kind m.next m.remaining (some l))
      ((unstocked l runs s).onLane l (patienceBegun s.office.settings m)) := by
  rw [← stallEdge_unstocked mag, give_stallEdge]
  · rfl
  · exact quiet

theorem unloadVerdict_accepts {s : State} {l : Lane} {m : Loaded} {runs : List Run} (out : s.lanes[l].out = [])
    (sure : ∀ d ∈ s.stock.doubts, d.lane ≠ l) (mag : s.stock.mags[l] = some m) (returned : returnedRuns m s.stock.runs = some runs) :
    unloadVerdict l s = acceptDone (applyUnload l m runs) (.unloaded m.next m.remaining) := by
  have noDoubt : doubtful s l = false := List.any_eq_false.2 fun d mem => by rw [decide_eq_true_eq]; exact sure d mem
  simp only [unloadVerdict, State.lane, State.mag, out, noDoubt, mag, returned, List.isEmpty_nil, Bool.not_true, Bool.or_self,
    Bool.false_eq_true, if_false]

/-- Settles O1: each of the three takes is `Offers.done` of its verdict and of its changes. -/
theorem stockOrdersDone : Obligations.StockOrdersDone := by
  refine ⟨fun s o k first count tag runs takeable some_blank few last apart room merged => ?_,
    fun s o l k first count tag r takeable some_blank few last free empty kinds found fits => ?_,
    fun s o l m tag runs takeable out sure mag returned => ?_⟩
  · obtain ⟨r, found⟩ := Option.isSome_iff_exists.1 (mergeRun_holding some_blank merged)
    obtain ⟨mem, kind, start, stop⟩ := runHolding_some found
    have verdict : verdictOf stockReceiveRule o 12 (fun _ => stockReceiveVerdict k.val first count) s =
        acceptDone (applyReceive k first count runs) (.stock k r.first r.count) := by
      rw [takeable.verdict rfl rfl, stockReceiveVerdict, toIdx_val]
      simp only [rangeOk_of some_blank few last, if_true, receiveVerdict_accepts apart room merged found]
    obtain ⟨t, taken, rest, gives, answers⟩ := takeable.toOffers.done (b := .stockReceive k.val first count)
      (owner := fun _ _ _ => stockReceiveVerdict k.val first count) (es := [.stock .received k first count none]) (a := s.office)
      (g := (s.onStock fun r => { r with runs := runs }).onCounters k fun n => n.addReceived count) verdict
      (fun _ _ _ => rfl) rfl rfl rfl
    exact ⟨t, congrArg _ taken, rest.trans (by rw [rest]; rfl), by rw [rest]; rfl, gives, r, mem, kind, start, stop, answers⟩
  · have notHolding : s.lanes[l].state ≠ .holding := by
      rcases free with off | ⟨w, parked⟩ | ⟨ready, -⟩
      · rw [off]; decide
      · rw [parked]; exact LaneState.noConfusion
      · rw [ready]; decide
    have verdict : verdictOf magazineLoadRule o 12 (fun _ => magazineLoadVerdict l.val k.val first count) s =
        acceptDone (applyLoad l k first count) (.magazine (loadedWith k first count)) := by
      rw [takeable.verdict rfl rfl, magazineLoadVerdict, toIdx_val, toIdx_val]
      simp only [rangeOk_of some_blank few last, if_true]
      exact loadVerdict_accepts free empty kinds found fun full => by
        obtain ⟨splits, long⟩ := full
        have := of_decide_eq_true splits
        exact fits ⟨this.1, this.2, long⟩
    have changes : ∀ x h, h.busIn = none → applyLoad l k first count { s with exch := x, host := h } =
        giveAll [.stock .loaded k first count (some l)]
          { trySend l ((stocked l k first count s).onLane l patienceEnded) with exch := x, host := h } := fun x h quiet => by
      rw [← (Inward.trySend l).under]
      exact applyLoad_eq (s := { s with exch := x, host := h }) quiet some_blank notHolding empty
    have office := trySend_office l ((stocked l k first count s).onLane l patienceEnded)
    obtain ⟨t, taken, rest, gives, answers⟩ := takeable.toOffers.done (b := .magazineLoad l.val k.val first count)
      (owner := fun _ _ _ => magazineLoadVerdict l.val k.val first count) (a := s.office) verdict changes
      ((Inward.trySend l).journal _) (by rw [office]; rfl) (by rw [office]; rfl)
    rw [office] at answers
    exact ⟨t, _, _, congrArg _ taken, rfl, rfl, rest, gives, answers⟩
  · have returned' : returnedRuns m s.stock.runs = some runs := by
      unfold returnedRuns
      rcases returned with ⟨spent, rfl⟩ | ⟨some_left, merged⟩
      · exact if_pos spent
      · exact (if_neg some_left).trans merged
    have verdict : verdictOf magazineUnloadRule o 12 (fun _ => magazineUnloadVerdict l.val) s =
        acceptDone (applyUnload l m runs) (.unloaded m.next m.remaining) := by
      rw [takeable.verdict rfl rfl, magazineUnloadVerdict, toIdx_val]
      exact unloadVerdict_accepts out sure mag returned'
    obtain ⟨t, taken, rest, gives, answers⟩ := takeable.toOffers.done (b := .magazineUnload l.val)
      (owner := fun _ _ _ => magazineUnloadVerdict l.val) (a := s.office)
      (es := [.stock .unloaded m.kind m.next m.remaining (some l)])
      (g := (unstocked l runs s).onLane l (patienceBegun s.office.settings m)) verdict
      (fun x h quiet => applyUnload_eq (s := { s with exch := x, host := h }) runs quiet mag) rfl rfl rfl
    have lanes : t.lanes = s.lanes.upd l (patienceBegun s.office.settings m) := by rw [rest]; rfl
    refine ⟨t, congrArg _ taken, rest.trans (by rw [rest]; rfl), by rw [rest]; rfl, fun v other => ?_, ?_, gives, answers⟩
    · rw [lanes, Table.upd_ne _ _ _ _ other]
    · rw [lanes, Table.upd_same]
      rfl

end Sys2Proof.Machine
end

section
/-! The orders of the Fare Unit and SET LAYOUT (R24 to R27, R62): what a list of records leaves in a table, and the bytes in
which the records stand. -/

namespace Sys2Proof.Machine

theorem not_any {α : Type} {p : α → Bool} {as : List α} (h : ∀ a ∈ as, p a = false) : ¬ (as.any p = true) := by
  rw [List.any_eq_true]
  rintro ⟨a, mem, bad⟩
  rw [h a mem] at bad
  cases bad

theorem toIdx_eq_some {n k : Nat} {i : Fin n} : toIdx n k = some i ↔ k = i.val := by
  unfold toIdx
  split
  next h => rw [Option.some_inj, Fin.ext_iff]
  next h => exact iff_of_false (fun e => nomatch e) fun e => h (by rw [e]; exact i.isLt)

theorem toIdx_eq_none {n k : Nat} : toIdx n k = none ↔ n ≤ k := by
  unfold toIdx
  split <;> simp <;> omega

/-! ### Writes in turn -/

section
variable {σ ρ α : Type} {get : σ → α} {step : σ → ρ → σ} {hits : ρ → Prop} {val : ρ → α}

/-- Writes that all miss a place leave it. -/
theorem foldl_misses (miss : ∀ s r, ¬ hits r → get (step s r) = get s) : ∀ (rs : List ρ) (s : σ), (∀ r ∈ rs, ¬ hits r) →
    get (rs.foldl step s) = get s
  | [], _, _ => rfl
  | r :: rs, s, h =>
    (foldl_misses miss rs _ fun q m => h q (List.mem_cons_of_mem _ m)).trans (miss s r (h r List.mem_cons_self))

/-- Of writes of which one alone hits a place, that one decides it. -/
theorem foldl_hit (miss : ∀ s r, ¬ hits r → get (step s r) = get s) (hit : ∀ s r, hits r → get (step s r) = val r) :
    ∀ (rs : List ρ) (s : σ), rs.Pairwise (fun a b => ¬ (hits a ∧ hits b)) → ∀ r ∈ rs, hits r → get (rs.foldl step s) = val r
  | q :: rs, s, alone, r, mem, h => by
    obtain ⟨first, later⟩ := List.pairwise_cons.1 alone
    rcases List.mem_cons.1 mem with rfl | mem
    · exact (foldl_misses miss rs _ fun p m hp => first p m ⟨h, hp⟩).trans (hit s _ h)
    · exact foldl_hit miss hit rs _ later r mem h

end

/-! ### SET DISCOUNTS and SET REFUND FEES (R24 to R27) -/

theorem writeDiscount_fees (f : FareUnit) (r : DiscountRec) : (writeDiscount f r).fees = f.fees := by
  unfold writeDiscount
  split <;> rfl

theorem writeDiscount_hit (f : FareUnit) {r : DiscountRec} {i : Fin 16} (h : i.val = r.index) :
    (writeDiscount f r).discounts[i] = storedEntry r := by
  rw [writeDiscount, toIdx_eq_some.2 h.symm]
  exact Table.upd_same _ _ _

theorem writeDiscount_miss (f : FareUnit) {r : DiscountRec} {i : Fin 16} (h : ¬ i.val = r.index) :
    (writeDiscount f r).discounts[i] = f.discounts[i] := by
  unfold writeDiscount
  split
  · rfl
  next j found => exact Table.upd_ne _ _ _ _ fun e => h (by rw [e, toIdx_eq_some.1 found])

theorem writeFee_discounts (f : FareUnit) (p : Nat × Nat) : (writeFee f p).discounts = f.discounts := by
  unfold writeFee
  split
  · rfl
  · split <;> rfl

theorem writeFee_hit (f : FareUnit) {p : Nat × Nat} {i : Fin 4} (h : i.val = p.1 ∧ i ≠ 3) : (writeFee f p).fees[i] = p.2 := by
  rw [writeFee, toIdx_eq_some.2 h.1.symm]
  show (if i.val = 3 then f else _).fees[i] = p.2
  rw [if_neg fun e : i.val = 3 => h.2 (Fin.ext e)]
  exact Table.upd_same _ _ _

theorem writeFee_miss (f : FareUnit) {p : Nat × Nat} {i : Fin 4} (h : ¬ (i.val = p.1 ∧ i ≠ 3)) :
    (writeFee f p).fees[i] = f.fees[i] := by
  unfold writeFee
  split
  · rfl
  next j found =>
    split
    · rfl
    next notThree =>
      refine Table.upd_ne _ _ _ _ fun e => h ⟨by rw [e, toIdx_eq_some.1 found], fun three => notThree ?_⟩
      rw [← e, three]
      rfl

theorem discountRefusal_none {rs : List DiscountRec}
    (ok : ∀ r ∈ rs, 1 ≤ r.index ∧ r.index ≤ 15 ∧ (r.step = 1 ∨ r.step = 5 ∨ r.step = 10 ∨ r.step = 50) ∧ r.min ≤ 99999)
    (differ : (rs.map DiscountRec.index).Nodup) : discountRefusal rs = none := by
  have steps : ∀ r ∈ rs, stepOk r.step = true := fun r mem => by
    obtain ⟨-, -, step, -⟩ := ok r mem
    rw [stepOk, List.contains_iff_mem]
    simpa using step
  rw [discountRefusal, if_neg (not_any fun r mem => decide_eq_false (Nat.not_le.2 (Nat.lt_succ_of_le (ok r mem).2.1))),
    if_neg (not_any fun r mem => decide_eq_false (Nat.ne_of_gt (ok r mem).1)), if_neg (not_not.2 differ),
    if_neg (not_any fun r mem => by rw [steps r mem]; rfl),
    if_neg (not_any fun r mem => decide_eq_false (Nat.not_lt.2 (ok r mem).2.2.2 : ¬ Config.maxFee < r.min))]

theorem feeRefusal_none {ps : List (Nat × Nat)} (some_pair : 1 ≤ ps.length) (few : ps.length ≤ 4)
    (ok : ∀ p ∈ ps, p.1 ≤ 3 ∧ p.2 ≤ 99999) (differ : (ps.map Prod.fst).Nodup) (third : ∀ p ∈ ps, p.1 = 3 → p.2 = 0) :
    feeRefusal ps = none := by
  rw [feeRefusal, if_neg (not_not.2 ⟨some_pair, few⟩),
    if_neg (not_any fun p mem => decide_eq_false (not_or.2 ⟨Nat.not_lt.2 (ok p mem).1, Nat.not_lt.2 (ok p mem).2⟩ : ¬ (3 < p.1 ∨ Config.maxFee < p.2))),
    if_neg (not_not.2 differ), if_neg (not_any fun p mem => decide_eq_false fun bad => bad.2 (third p mem bad.1))]

/-! ### SET LAYOUT (R62) -/

theorem filterMap_of_map {α β : Type} {f : α → Option β} : ∀ {as : List α} {bs : List β}, as.map f = bs.map some →
    as.filterMap f = bs
  | [], [], _ => rfl
  | a :: as, b :: bs, h => by
    obtain ⟨head, tail⟩ := List.cons.inj h
    rw [List.filterMap_cons, head, filterMap_of_map tail]

theorem layoutRefusal_none {index : Nat} {rs : List LayoutRec} (low : index ≤ 15) (notFirst : index ≠ 0) (some_field : 1 ≤ rs.length)
    (few : rs.length ≤ 24) (known : ∀ r ∈ rs, (fieldSource r.source).isSome = true) (ok : ∀ r ∈ rs, layoutRecOk r = true) :
    layoutRefusal index rs = none := by
  rw [layoutRefusal, if_neg (Nat.not_lt.2 low), if_neg notFirst, if_neg (not_not.2 ⟨some_field, few⟩),
    if_neg (not_any fun r mem => by rw [← Option.not_isSome, known r mem]; rfl), if_neg (not_any fun r mem => by rw [ok r mem]; rfl)]

theorem layoutRecs_length (n : Nat) (bs : List Byte) : (layoutRecs n bs).length = n := by
  rw [layoutRecs, List.length_map, List.length_range]

/-! ### The records' bytes (03, the record layouts) -/

theorem byteAt_piece (bs : List Byte) {a n i : Nat} (h : i < n) : byteAt ((bs.drop a).take n) i = byteAt bs (a + i) := by
  simp only [byteAt, List.getD_eq_getElem?_getD, List.getElem?_take, if_pos h, List.getElem?_drop]

/-- A number of the bytes at an offset, low byte first. -/
theorem numAt_succ (bs : List Byte) (n len : Nat) : numAt bs n (len + 1) = (byteAt bs n).toNat + 256 * numAt bs (n + 1) len := by
  rcases Nat.lt_or_ge n bs.length with inside | past
  · simp only [numAt, byteAt, List.drop_eq_getElem_cons inside, List.take_succ_cons, ofLe, List.getD_eq_getElem _ _ inside]
  · have past' : bs.length ≤ n + 1 := by omega
    simp only [numAt, byteAt, List.drop_eq_nil_of_le past, List.drop_eq_nil_of_le past', List.take_nil, ofLe,
      List.getD_eq_default _ _ past]
    rfl

theorem numAt_zero (bs : List Byte) (n : Nat) : numAt bs n 0 = 0 := by
  rw [numAt, List.take_zero]
  rfl

theorem discountRecs_getElem? (bs : List Byte) {n k : Nat} (h : k < n) :
    (discountRecs n bs)[k]? = some (discountRec ((bs.drop (24 * k)).take 24)) := by
  simp only [discountRecs, List.getElem?_map, List.getElem?_range h, Option.map_some]

theorem layoutRecs_getElem? (bs : List Byte) {n k : Nat} (h : k < n) :
    (layoutRecs n bs)[k]? = some (layoutRec ((bs.drop (1 + 5 * k)).take 5)) := by
  simp only [layoutRecs, List.getElem?_map, List.getElem?_range h, Option.map_some]

theorem discountRec_piece (bs : List Byte) (a : Nat) :
    discountRec ((bs.drop a).take 24) =
      ⟨(byteAt bs a).toNat, (bs.drop (a + 1)).take 12, (byteAt bs (a + 13)).getLsbD 0, (byteAt bs (a + 13)).getLsbD 1,
        (byteAt bs (a + 14)).toNat + 256 * (byteAt bs (a + 15)).toNat,
        (byteAt bs (a + 16)).toNat + 256 * (byteAt bs (a + 17)).toNat + 65536 * (byteAt bs (a + 18)).toNat +
          16777216 * (byteAt bs (a + 19)).toNat,
        (byteAt bs (a + 20)).toNat⟩ := by
  have name : (((bs.drop a).take 24).drop 1).take 12 = (bs.drop (a + 1)).take 12 := by
    rw [List.drop_take, List.drop_drop, List.take_take]
    rfl
  simp only [discountRec, name, numAt_succ, numAt_zero, Nat.reduceAdd, byteAt_piece bs (a := a) (n := 24) (i := 0) (by decide),
    byteAt_piece bs (a := a) (n := 24) (i := 13) (by decide), byteAt_piece bs (a := a) (n := 24) (i := 14) (by decide),
    byteAt_piece bs (a := a) (n := 24) (i := 15) (by decide), byteAt_piece bs (a := a) (n := 24) (i := 16) (by decide),
    byteAt_piece bs (a := a) (n := 24) (i := 17) (by decide), byteAt_piece bs (a := a) (n := 24) (i := 18) (by decide),
    byteAt_piece bs (a := a) (n := 24) (i := 19) (by decide), byteAt_piece bs (a := a) (n := 24) (i := 20) (by decide)]
  congr 1
  omega

theorem layoutRec_piece (bs : List Byte) (a : Nat) :
    layoutRec ((bs.drop a).take 5) =
      ⟨(byteAt bs a).toNat, (byteAt bs (a + 1)).toNat, (byteAt bs (a + 2)).toNat, (byteAt bs (a + 3)).toNat,
        (byteAt bs (a + 4)).toNat⟩ := by
  simp only [layoutRec, byteAt_piece bs (a := a) (n := 5) (i := 0) (by decide), byteAt_piece bs (a := a) (n := 5) (i := 1) (by decide),
    byteAt_piece bs (a := a) (n := 5) (i := 2) (by decide), byteAt_piece bs (a := a) (n := 5) (i := 3) (by decide),
    byteAt_piece bs (a := a) (n := 5) (i := 4) (by decide), Nat.add_zero]

/-- Settles O3: each take is `Offers.done`; `foldl_hit` and `foldl_misses` read the tables that it leaves. -/
theorem tableOrdersDone : Obligations.TableOrdersDone := by
  refine ⟨fun s o count bs tag takeable attached len1 len2 read some_rec few long ok differ => ?_,
    fun s o ps tag takeable some_pair few ok differ third => ?_,
    fun s o index bs fs tag takeable attached len1 len2 read notFirst long byte some_field few known ok => ?_,
    fun bs n k small => ⟨fun _ => ?_, fun _ => ?_⟩⟩
  · have verdict : verdictOf setDiscountsRule o 12 (fun att _ => setDiscountsVerdict count att) s =
        acceptDone (applyDiscounts (discountRecs count bs))
          (.discounts count ((discountRecs count bs).countP fun r => decide (1000 < r.rate))) := by
      rw [takeable.verdict_attached rfl attached ⟨len1, len2⟩ read rfl]
      simp only [setDiscountsVerdict, some_rec, few, long, and_self, if_true, discountRefusal_none ok differ]
    obtain ⟨t, taken, rest, gives, answers⟩ := takeable.toOffers.done (b := .setDiscounts count) (es := []) (a := s.office)
      (owner := fun _ _ att _ => setDiscountsVerdict count att) (g := applyDiscounts (discountRecs count bs) s) verdict
      (fun _ _ _ => rfl) rfl rfl rfl
    have fare : t.fare = (discountRecs count bs).foldl writeDiscount s.fare := by rw [rest]; rfl
    refine ⟨t, congrArg _ taken, rest.trans (by rw [rest]; rfl), ?_, fun r mem i at_index => ?_, fun i unnamed => ?_, gives, answers⟩
    · rw [fare]
      exact foldl_misses (hits := fun _ => False) (fun f r _ => writeDiscount_fees f r) _ _ fun _ _ => not_false
    · rw [fare]
      refine foldl_hit (get := fun f : FareUnit => f.discounts[i]) (hits := fun r => i.val = r.index) (val := storedEntry)
        (fun f _ => writeDiscount_miss f) (fun f _ => writeDiscount_hit f) _ _ ?_ r mem at_index
      exact (List.pairwise_map.1 differ).imp fun other both => other (both.1.symm.trans both.2)
    · rw [fare]
      exact foldl_misses (get := fun f : FareUnit => f.discounts[i]) (hits := fun r => i.val = r.index)
        (fun f _ => writeDiscount_miss f) _ _ fun r mem at_index => unnamed r mem at_index.symm
  · have verdict : verdictOf setRefundFeesRule o 12 (fun _ => setRefundFeesVerdict ps) s =
        acceptDone (fun s => { s with fare := feesAfter ps s.fare }) (.fees (feesAfter ps s.fare).fees) := by
      rw [takeable.verdict rfl rfl]
      simp only [setRefundFeesVerdict, feeRefusal_none some_pair few ok differ third]
    obtain ⟨t, taken, rest, gives, answers⟩ := takeable.toOffers.done (b := .setRefundFees ps) (es := []) (a := s.office)
      (owner := fun _ _ _ => setRefundFeesVerdict ps) (g := { s with fare := feesAfter ps s.fare }) verdict
      (fun _ _ _ => rfl) rfl rfl rfl
    have fare : t.fare = ps.foldl writeFee s.fare := by rw [rest]; rfl
    refine ⟨t, congrArg _ taken, rest.trans (by rw [rest]), ?_, fun p mem i at_index notThree => ?_, fun i unnamed => ?_, gives, ?_⟩
    · rw [fare]
      exact foldl_misses (hits := fun _ => False) (fun f p _ => writeFee_discounts f p) _ _ fun _ _ => not_false
    · rw [fare]
      refine foldl_hit (get := fun f : FareUnit => f.fees[i]) (hits := fun p => i.val = p.1 ∧ i ≠ 3) (val := Prod.snd)
        (fun f _ => writeFee_miss f) (fun f _ => writeFee_hit f) _ _ ?_ p mem ⟨at_index, notThree⟩
      exact (List.pairwise_map.1 differ).imp fun other both => other (both.1.1.symm.trans both.2.1)
    · rw [fare]
      refine foldl_misses (get := fun f : FareUnit => f.fees[i]) (hits := fun p => i.val = p.1 ∧ i ≠ 3)
        (fun f _ => writeFee_miss f) _ _ fun p mem hit => ?_
      rcases unnamed with three | unnamed
      · exact hit.2 three
      · exact unnamed p mem hit.1.symm
    · rw [fare]
      exact answers
  · have recsLength := layoutRecs_length fs.length bs
    have fields : (layoutRecs fs.length bs).filterMap layoutFieldOf = fs := filterMap_of_map known
    have sources : ∀ r ∈ layoutRecs fs.length bs, (fieldSource r.source).isSome = true := fun r mem => by
      have := List.mem_map_of_mem (f := layoutFieldOf) mem
      rw [known] at this
      obtain ⟨f, -, found⟩ := List.mem_map.1 this
      rw [← Option.isSome_map, show (fieldSource r.source).map _ = layoutFieldOf r from rfl, ← found]
      rfl
    have verdict : verdictOf setLayoutRule o 12 (fun att _ => setLayoutVerdict index.val att) s =
        acceptDone (fun s => s.onIssue (writeLayout index.val fs)) (.layout index.val fs.length) := by
      rw [takeable.verdict_attached rfl attached ⟨len1, len2⟩ read rfl]
      simp only [setLayoutVerdict, byte, if_neg (Nat.not_lt.2 long), fields,
        layoutRefusal_none (Nat.le_of_lt_succ index.isLt) (fun e => notFirst (Fin.ext e)) (by rw [recsLength]; exact some_field)
          (by rw [recsLength]; exact few) sources fun r mem => decide_eq_true (ok r mem)]
    have written : writeLayout index.val fs s.issue = { s.issue with layouts := s.issue.layouts.upd index fun _ => fs } := by
      rw [writeLayout, toIdx_val]
      exact if_neg fun e => notFirst (Fin.ext e)
    obtain ⟨t, taken, rest, gives, answers⟩ := takeable.toOffers.done (b := .setLayout index.val) (es := []) (a := s.office)
      (owner := fun _ _ att _ => setLayoutVerdict index.val att) (g := s.onIssue (writeLayout index.val fs)) verdict
      (fun _ _ _ => rfl) rfl rfl rfl
    have issue : t.issue = { s.issue with layouts := s.issue.layouts.upd index fun _ => fs } := by
      rw [rest, ← written]
      rfl
    refine ⟨t, congrArg _ taken, rest.trans (by rw [rest]; rfl), by rw [issue], ?_, fun i other => ?_, gives, answers⟩
    · rw [issue]
      exact Table.upd_same _ _ _
    · rw [issue]
      exact Table.upd_ne _ _ _ _ other
  · rw [discountRecs_getElem? bs small, discountRec_piece]
  · rw [layoutRecs_getElem? bs small, layoutRec_piece, Nat.add_comm 1]

end Sys2Proof.Machine
end

section
/-! VOID and REFUND (R72, R73), and the moves of a lane to STARTING and to PARKED (R76, R80, R82, R171, R172). -/

namespace Sys2Proof.Machine

/-! ### VOID and REFUND (R72, R73) -/

theorem entryOf_some {s : State} {k : StockKind} {n : Nat} {e : IssueEntry} (h : entryOf s k n = some e) : e.kind = k ∧ e.serial = n := by
  have holds := List.find?_some h
  exact of_decide_eq_true holds

/-- Settles O5: each of the two takes is `Offers.done` of its verdict. -/
theorem ticketOrdersDone : Obligations.TicketOrdersDone := by
  refine ⟨fun s o k serial w e tag takeable opened range found issued window shift => ?_,
    fun s o k serial reason w e tag takeable opened range found issued => ?_⟩
  all_goals obtain ⟨rfl, rfl⟩ := entryOf_some found
  all_goals have range : e.serial ≤ Config.maxSerial := range
  · have verdict : verdictOf voidRule o w.castSucc (fun _ s => forWindow w.castSucc fun w => voidVerdict e.kind.val e.serial w s) s =
        acceptDone (applyVoid w e) (.void e.kind e.serial e.tender e.charged) := by
      rw [takeable.verdict rfl (decide_eq_true w.isLt), forWindow_window, voidVerdict, opened]
      simp only [toIdx_val]
      rw [if_pos range, voidEntryVerdict, show entryOf s e.kind e.serial = some e from found]
      simp only [issued, window, shift, ne_eq, not_true, or_self, if_false]
    obtain ⟨t, taken, rest, gives, answers⟩ := takeable.toOffers.done (b := .void e.kind.val e.serial) (a := s.office)
      (owner := fun src _ _ s => forWindow src fun w => voidVerdict e.kind.val e.serial w s)
      (es := [.voided e.kind e.serial w e.charged])
      (g := ((setEntry e.kind e.serial .voided s).onDrawer w fun d => (d.addVoid e.tender e.charged).countVoided).onCounters e.kind
        Counters.void) verdict (fun _ _ _ => rfl) rfl rfl rfl
    have till : t.till = s.till.upd w fun d => (d.addVoid e.tender e.charged).countVoided := by rw [rest]; rfl
    refine ⟨t, congrArg _ taken, rest.trans (by rw [rest]; rfl), by rw [rest]; rfl, by rw [rest]; rfl, fun v other => ?_, ?_, gives,
      answers⟩
    · rw [till]
      exact Table.upd_ne _ _ _ _ other
    · rw [till]
      exact Table.upd_same _ _ _
  · have verdict : verdictOf refundRule o w.castSucc
        (fun _ s => forWindow w.castSucc fun w => refundVerdict e.kind.val e.serial reason.val w s) s =
        acceptDone (applyRefund w e reason.val (e.charged - s.fare.fees[reason]))
          (.refund e.kind e.serial e.tender e.charged s.fare.fees[reason] (e.charged - s.fare.fees[reason])) := by
      rw [takeable.verdict rfl (decide_eq_true w.isLt), forWindow_window, refundVerdict, opened]
      simp only [toIdx_val]
      rw [if_pos range, refundEntryVerdict, show entryOf s e.kind e.serial = some e from found]
      simp only [issued, ne_eq, not_true, if_false]
      rfl
    obtain ⟨t, taken, rest, gives, answers⟩ := takeable.toOffers.done (b := .refund e.kind.val e.serial reason.val) (a := s.office)
      (owner := fun src _ _ s => forWindow src fun w => refundVerdict e.kind.val e.serial reason.val w s)
      (es := [.refunded e.kind e.serial w e.tender (e.charged - s.fare.fees[reason]) reason.val])
      (g := (setEntry e.kind e.serial (.refunded w (e.charged - s.fare.fees[reason])) s).onDrawer w fun d =>
        d.addRefund e.tender (e.charged - s.fare.fees[reason])) verdict (fun _ _ _ => rfl) rfl rfl rfl
    have till : t.till = s.till.upd w fun d => d.addRefund e.tender (e.charged - s.fare.fees[reason]) := by rw [rest]; rfl
    refine ⟨t, e.charged - s.fare.fees[reason], congrArg _ taken, ?_, rest.trans (by rw [rest]; rfl), by rw [rest]; rfl,
      fun v other => ?_, ?_, gives, answers⟩
    · split <;> omega
    · rw [till]
      exact Table.upd_ne _ _ _ _ other
    · rw [till]
      exact Table.upd_same _ _ _

/-! ### The moves of a lane (R76, R80, R82, R108, R109) -/

/-- The link start, as one change of the lane's record (R108). -/
theorem linkStart_eq (l : Lane) (s : State) :
    linkStart l s = s.onLane l fun r =>
      { r with
        repairRefs := []
        link :=
          { phase := .greeting, rate := s.office.settings.rate, ack := none, fails := 0, poll := none, repeatFrame := none,
            waiting := none, awaited := none, flushCarried := false, headFault := false,
            exchange := some (startExchange r.pins s.office.settings.stretch ⟨.greet, greetBytes⟩), restartDue := false } } := by
  simp only [linkStart, beginExchange, carry, beginCarried, clearFlush, State.onLink, State.onLane_onLane]
  refine State.onLane_congr ?_
  simp only [Function.comp_apply, State.lane, State.onLane_same, State.onLane_office]

theorem beginLinkStart_started (l : Lane) (s : State) :
    beginLinkStart l (s.onLane l fun r => { r with state := .starting, cap := none, credits := 0 }) =
      s.onLane l (startedLane s.office.settings) := by
  have link : ((s.onLane l fun r => { r with state := .starting, cap := none, credits := 0 }).lane l).link = s.lanes[l].link := by
    rw [State.lane, State.onLane_same]
  unfold beginLinkStart
  rw [link]
  split
  next busy =>
    rw [State.onLink, State.onLane_onLane]
    exact State.onLane_congr (by rw [startedLane, if_pos busy]; rfl)
  next free =>
    rw [linkStart_eq, State.onLane_onLane]
    exact State.onLane_congr (by rw [startedLane, if_neg free]; rfl)

theorem LaneOnly.office {l : Lane} {s t : State} (h : LaneOnly l s t) : t.office = s.office := by rw [h.rest]

theorem LaneOnly.quiet {l : Lane} {s t : State} (h : LaneOnly l s t) (quiet : s.host.busIn = none) : t.host.busIn = none := by
  rw [h.rest]
  exact quiet

/-- A move to STARTING: the lane's record, and its entry. -/
theorem toStarting_eq (l : Lane) (why : LaneReason) {s : State} (quiet : s.host.busIn = none) :
    toStarting l why s = give (.lane l .starting why) (s.onLane l (startedLane s.office.settings)) := by
  rw [← beginLinkStart_started, give_inward (Inward.beginLinkStart l) (by exact quiet) (by rw [(LaneOnly.beginLinkStart l _).office])
    (by rw [(LaneOnly.beginLinkStart l _).office])]
  rfl

/-- A park: the lane's record, and its entry. -/
theorem park_eq (l : Lane) (why : ParkReason) (reason : LaneReason) (s : State) :
    park l why reason s = give (.lane l (.parked why) reason) (s.onLane l (parkedLane why)) := by
  simp only [park, linkIdle, clearFlush, State.onLink, State.onLane_onLane]
  rfl

theorem startVerdict_accepts {s : State} {l : Lane} (still : s.lanes[l].state = .off ∨ ∃ w, s.lanes[l].state = .parked w) :
    startVerdict l s = acceptDone (toStarting l .start) (.lane l .starting) := by
  rcases still with off | ⟨w, parked⟩
  · simp only [startVerdict, State.lane, off]
  · simp only [startVerdict, State.lane, parked]

theorem parkVerdict_parked {s : State} {l : Lane} {w : ParkReason} (parked : s.lanes[l].state = .parked w) :
    parkVerdict l s = acceptDone (setParkReason l) (.lane l (.parked .supervisor)) := by
  simp only [parkVerdict, State.lane, parked]

theorem parkVerdict_accepts {s : State} {l : Lane}
    (still : s.lanes[l].state = .off ∨ s.lanes[l].state = .ready ∨ s.lanes[l].state = .holding) (queue : s.lanes[l].queue = [])
    (out : s.lanes[l].out = []) (sure : ∀ d ∈ s.stock.doubts, d.lane ≠ l) :
    parkVerdict l s = acceptDone (park l .supervisor .supervisor) (.lane l (.parked .supervisor)) := by
  have holds : laneHolds s l = false := by
    have noDoubt : doubtful s l = false := List.any_eq_false.2 fun d mem => by rw [decide_eq_true_eq]; exact sure d mem
    simp only [laneHolds, State.lane, queue, out, noDoubt, List.isEmpty_nil, Bool.not_true, Bool.or_self]
  rcases still with off | ready | holding
  · simp only [parkVerdict, State.lane, off, holds, Bool.false_eq_true, if_false]
  · simp only [parkVerdict, State.lane, ready, holds, Bool.false_eq_true, if_false]
  · simp only [parkVerdict, State.lane, holding, holds, Bool.false_eq_true, if_false]

/-- Settles O6: each take is `Offers.done`, its changes by `toStarting_eq` and `park_eq`. -/
theorem laneOrdersDone : Obligations.LaneOrdersDone := by
  refine ⟨fun s o l tag takeable still => ?_, fun s o l tag takeable holdsNothing => ?_⟩
  · have verdict : verdictOf laneStartRule o 12 (fun _ => laneStartVerdict l.val) s =
        acceptDone (toStarting l .start) (.lane l .starting) := by
      rw [takeable.verdict rfl rfl, laneStartVerdict, toIdx_val]
      exact startVerdict_accepts still
    obtain ⟨t, taken, rest, gives, answers⟩ := takeable.toOffers.done (b := .laneStart l.val) (a := s.office)
      (owner := fun _ _ _ => laneStartVerdict l.val) (es := [.lane l .starting .start])
      (g := s.onLane l (startedLane s.office.settings)) verdict
      (fun x h quiet => toStarting_eq l .start (s := { s with exch := x, host := h }) quiet) rfl rfl rfl
    have lanes : t.lanes = s.lanes.upd l (startedLane s.office.settings) := by rw [rest]; rfl
    refine ⟨t, congrArg _ taken, rest.trans (by rw [rest]; rfl), fun v other => ?_, ?_, gives, answers⟩
    · rw [lanes, Table.upd_ne _ _ _ _ other]
    · rw [lanes, Table.upd_same]
  · by_cases parked : ∃ w, s.lanes[l].state = .parked w
    · obtain ⟨w, parked⟩ := parked
      have verdict : verdictOf laneParkRule o 12 (fun _ => laneParkVerdict l.val) s =
          acceptDone (setParkReason l) (.lane l (.parked .supervisor)) := by
        rw [takeable.verdict rfl rfl, laneParkVerdict, toIdx_val]
        exact parkVerdict_parked parked
      obtain ⟨t, taken, rest, gives, answers⟩ := takeable.toOffers.done (b := .lanePark l.val) (a := s.office)
        (owner := fun _ _ _ => laneParkVerdict l.val) (es := []) (g := setParkReason l s) verdict (fun _ _ _ => rfl) rfl rfl rfl
      have lanes : t.lanes = s.lanes.upd l fun r => { r with state := .parked .supervisor } := by rw [rest]; rfl
      refine ⟨t, congrArg _ taken, rest.trans (by rw [rest]; rfl), fun v other => ?_, fun _ => ⟨?_, gives⟩,
        fun still => absurd parked (still w), answers⟩
      · rw [lanes, Table.upd_ne _ _ _ _ other]
      · rw [lanes, Table.upd_same]
    · obtain ⟨still, queue, out, sure⟩ := holdsNothing.resolve_left parked
      have verdict : verdictOf laneParkRule o 12 (fun _ => laneParkVerdict l.val) s =
          acceptDone (park l .supervisor .supervisor) (.lane l (.parked .supervisor)) := by
        rw [takeable.verdict rfl rfl, laneParkVerdict, toIdx_val]
        exact parkVerdict_accepts still queue out sure
      obtain ⟨t, taken, rest, gives, answers⟩ := takeable.toOffers.done (b := .lanePark l.val) (a := s.office)
        (owner := fun _ _ _ => laneParkVerdict l.val) (es := [.lane l (.parked .supervisor) .supervisor])
        (g := s.onLane l (parkedLane .supervisor)) verdict (fun _ _ _ => park_eq l .supervisor .supervisor _) rfl rfl rfl
      have lanes : t.lanes = s.lanes.upd l (parkedLane .supervisor) := by rw [rest]; rfl
      refine ⟨t, congrArg _ taken, rest.trans (by rw [rest]; rfl), fun v other => ?_, fun is => absurd is parked,
        fun _ => ⟨?_, gives⟩, answers⟩
      · rw [lanes, Table.upd_ne _ _ _ _ other]
      · rw [lanes, Table.upd_same]

end Sys2Proof.Machine
end

section
/-! OFFICE OPEN and DAY CLOSE (R171, R172): the lanes moved in turn, each with its entry. -/

namespace Sys2Proof.Machine

/-! ### What the service of the sources leaves of the other slots -/

/-- Slots that stand as they did before a service, and read as they did, were left or answered STALE_TAG by it (R41). -/
theorem Served.otherSlots {s u t : State} {srcs : List Source} {i : SlotNo} {is : List SlotNo} (h : Served srcs i u t)
    (before : ∀ j, j ∉ is → SlotKept s u j ∧ postedHeader u j = postedHeader s j) : OtherSlots is s t := fun j other => by
  obtain ⟨kept, read⟩ := before j other
  rcases h.others j with left | ⟨⟨hd, src, posted, source, late, slot⟩, mark, context⟩
  · exact .inl (kept.trans left)
  · exact .inr ⟨⟨hd, src, by rw [← read]; exact posted, source, late, slot⟩, mark, context⟩

/-- An answer leaves the other slots. -/
theorem written_kept {i j : SlotNo} (other : j ≠ i) (a : Answer) (u : State) :
    SlotKept u (written i a u) j ∧ postedHeader (written i a u) j = postedHeader u j := by
  refine ⟨⟨Table.upd_ne _ _ _ _ other, Table.upd_ne _ _ _ _ other, Table.upd_ne _ _ _ _ other⟩, ?_⟩
  unfold postedHeader written
  simp only [State.onSweep_exch, State.onExch_exch, State.onHost_exch]
  rcases u.exch.sweep with _ | w
  · rfl
  · simp only [Option.map_some, Sweep.setByte, Table.upd_ne _ _ _ _ other]

/-- A slot answered, after the service of the sources. -/
theorem Served.answeredSlot {u t : State} {srcs : List Source} {i : SlotNo} {a : Answer} (h : Served srcs i (written i a u) t) :
    AnsweredSlot t i a :=
  ⟨by rw [h.slot]; exact Table.upd_same _ _ _, by rw [h.mark]; exact Table.upd_same _ _ _,
    by rw [h.context]; exact Table.upd_same _ _ _⟩

theorem written_frame (i : SlotNo) (a : Answer) (u : State) (x : ExchangeController) (h : HostMem) :
    { written i a u with exch := x, host := h } = { u with exch := x, host := h } := rfl

theorem written_exchangeKept (i : SlotNo) (a : Answer) (u : State) : ExchangeKept u.exch (written i a u).exch :=
  ⟨by constructor <;> rfl, rfl, rfl, rfl⟩

/-! ### Lanes moved in turn -/

theorem giveAll_cons (b : EntryBody) (bs : List EntryBody) (s : State) : giveAll (b :: bs) s = giveAll bs (give b s) := rfl

theorem giveAll_append (as bs : List EntryBody) (s : State) : giveAll (as ++ bs) s = giveAll bs (giveAll as s) :=
  List.foldl_append ..

theorem giveAll_inward {f : State → State} (hf : Inward f) {s : State} (quiet : s.host.busIn = none)
    (day : (f s).office.day = s.office.day) (clock : (f s).office.clock = s.office.clock) (bs : List EntryBody) :
    giveAll bs (f s) = f (giveAll bs s) := by
  induction bs generalizing s with
  | nil => rfl
  | cons b bs ih =>
    have given := give_journalled quiet b
    have under : f (give b s) = (f s).outward (give b s).journal (give b s).exch (give b s).host :=
      (congrArg f given.rest).trans (hf s _ _ _)
    rw [giveAll_cons, giveAll_cons, give_inward hf quiet day clock]
    exact ih (given.quiet quiet) (by rw [under, given.rest]; exact day) (by rw [under, given.rest]; exact clock)

/-- The lanes of a list that meet a test have their record changed. -/
@[irreducible] def moved (p : LaneRec → Bool) (f : LaneRec → LaneRec) (ls : List Lane) (s : State) : State :=
  ls.foldl (fun s l => if p s.lanes[l] then s.onLane l f else s) s

theorem moved_nil (p : LaneRec → Bool) (f : LaneRec → LaneRec) (s : State) : moved p f [] s = s := by
  unfold moved
  rfl

theorem moved_cons (p : LaneRec → Bool) (f : LaneRec → LaneRec) (l : Lane) (ls : List Lane) (s : State) :
    moved p f (l :: ls) s = moved p f ls (if p s.lanes[l] then s.onLane l f else s) := by
  unfold moved
  rfl

theorem moved_inward (p : LaneRec → Bool) (f : LaneRec → LaneRec) : ∀ ls : List Lane, Inward (moved p f ls)
  | [] => fun s j x h => by rw [moved_nil, moved_nil]
  | l :: ls => fun s j x h => by
    have first : (if p (s.outward j x h).lanes[l] then (s.outward j x h).onLane l f else s.outward j x h) =
        (if p s.lanes[l] then s.onLane l f else s).outward j x h := by
      show (if p s.lanes[l] then _ else _) = _
      split <;> rfl
    rw [moved_cons, moved_cons]
    exact (moved_inward p f ls).after first

/-- What `moved` leaves: every lane of the list that meets the test changed once, and nothing else. -/
theorem moved_eq (p : LaneRec → Bool) (f : LaneRec → LaneRec) : ∀ (ls : List Lane) (s : State), ls.Nodup →
    moved p f ls s = { s with lanes := (moved p f ls s).lanes } ∧
      ∀ m : Lane, (moved p f ls s).lanes[m] = if m ∈ ls ∧ p s.lanes[m] = true then f s.lanes[m] else s.lanes[m]
  | [], s, _ => by
    rw [moved_nil]
    exact ⟨rfl, fun m => (if_neg fun h => List.not_mem_nil h.1).symm⟩
  | l :: ls, s, nodup => by
    obtain ⟨fresh, nodup⟩ := List.nodup_cons.1 nodup
    have first : ∃ t, (if p s.lanes[l] then s.onLane l f else s) = t ∧ t = { s with lanes := t.lanes } ∧
        (t.lanes[l] = if p s.lanes[l] = true then f s.lanes[l] else s.lanes[l]) ∧ ∀ m, m ≠ l → t.lanes[m] = s.lanes[m] := by
      refine ⟨_, rfl, ?_⟩
      split
      · exact ⟨rfl, State.onLane_same s l f, fun m other => State.onLane_ne s f other⟩
      · exact ⟨rfl, rfl, fun _ _ => rfl⟩
    obtain ⟨t, first, rest, own, others⟩ := first
    have whole : moved p f (l :: ls) s = moved p f ls t := by rw [moved_cons, first]
    obtain ⟨rest', lanes⟩ := moved_eq p f ls t nodup
    refine ⟨by rw [whole, rest', rest], fun m => ?_⟩
    rw [whole, lanes m]
    by_cases this : m = l
    · subst this
      simp only [fresh, false_and, if_false, own, List.mem_cons, true_or, true_and]
    · simp only [others m this, List.mem_cons, this, false_or]

theorem moved_finRange (p : LaneRec → Bool) (f : LaneRec → LaneRec) (s : State) :
    moved p f (List.finRange 8) s = { s with lanes := (moved p f (List.finRange 8) s).lanes } ∧
      ∀ m : Lane, (moved p f (List.finRange 8) s).lanes[m] = if p s.lanes[m] = true then f s.lanes[m] else s.lanes[m] := by
  obtain ⟨rest, lanes⟩ := moved_eq p f (List.finRange 8) s (List.nodup_finRange 8)
  exact ⟨rest, fun m => (lanes m).trans (by simp only [List.mem_finRange, true_and])⟩

/-- Lanes moved in turn, each with an entry, are moved first and the entries given then. -/
theorem foldl_moves {move : Lane → State → State} {p : LaneRec → Bool} {e : Lane → EntryBody} (st : Settings)
    {f : LaneRec → LaneRec} (moves : ∀ l s, s.host.busIn = none → s.office.settings = st →
      move l s = if p s.lanes[l] then give (e l) (s.onLane l f) else s) :
    ∀ (ls : List Lane) (s : State), ls.Nodup → s.host.busIn = none → s.office.settings = st →
      ls.foldl (fun s l => move l s) s = giveAll ((ls.filter fun l => p s.lanes[l]).map e) (moved p f ls s)
  | [], s, _, _, _ => (moved_nil p f s).symm
  | l :: ls, s, nodup, quiet, settings => by
    obtain ⟨fresh, nodup⟩ := List.nodup_cons.1 nodup
    rw [List.foldl_cons, moves l s quiet settings]
    by_cases here : p s.lanes[l] = true
    · have given := give_journalled (s := s.onLane l f) quiet (e l)
      have lanes : ∀ m ∈ ls, (give (e l) (s.onLane l f)).lanes[m] = s.lanes[m] := fun m mem => by
        rw [given.rest]
        exact State.onLane_ne s f fun same => fresh (same ▸ mem)
      have office : (moved p f ls (s.onLane l f)).office = s.office := by rw [(moved_eq p f ls _ nodup).1]; rfl
      have keep : (ls.filter fun m => p (give (e l) (s.onLane l f)).lanes[m]) = ls.filter fun m => p s.lanes[m] :=
        List.filter_congr fun m mem => by rw [lanes m mem]
      rw [if_pos here, foldl_moves st moves ls _ nodup (given.quiet quiet) (by rw [given.rest]; exact settings), keep,
        List.filter_cons_of_pos (p := fun m => p s.lanes[m]) here, List.map_cons, giveAll_cons,
        ← give_inward (moved_inward p f ls) (by exact quiet) (by rw [office]; rfl) (by rw [office]; rfl)]
      rw [moved_cons, if_pos here]
    · rw [if_neg here, foldl_moves st moves ls s nodup quiet settings, List.filter_cons_of_neg (p := fun m => p s.lanes[m]) here]
      rw [moved_cons, if_neg here]

/-! ### OFFICE OPEN (R171) -/

/-- A lane PARKED for the day (R82). -/
def LaneRec.parkedForDay (r : LaneRec) : Bool := decide (r.state = .parked .day)

theorem startDayLane_eq (l : Lane) {s : State} (quiet : s.host.busIn = none) :
    startDayLane l s = if s.lanes[l].parkedForDay then
      give (.lane l .starting .opened) (s.onLane l (startedLane s.office.settings)) else s := by
  rw [startDayLane, toStarting_eq l .opened quiet, LaneRec.parkedForDay]
  simp only [decide_eq_true_eq]
  rfl

/-- The office as OFFICE OPEN leaves it (R171). -/
def openedOffice (b : OpenBody) (rate : LinkRate) (s : State) : State :=
  (s.onOffice fun o => { o with day := b.day, settings := appliedSettings b rate, clock := 0, opened := true }).onStock fun r =>
    { r with kinds := b.kinds }

/-- The entries of OFFICE OPEN (R171, R82). -/
def openEntries (b : OpenBody) (s : State) : List EntryBody :=
  .officeOpen b.day :: ((List.finRange 8).filter fun l => s.lanes[l].parkedForDay).map fun l => .lane l .starting .opened

theorem applyOfficeOpen_eq (b : OpenBody) (rate : LinkRate) {s : State} (quiet : s.host.busIn = none) :
    applyOfficeOpen b rate s =
      giveAll (openEntries b s)
        (moved LaneRec.parkedForDay (startedLane (appliedSettings b rate)) (List.finRange 8) (openedOffice b rate s)) := by
  have given := give_journalled (s := openedOffice b rate s) quiet (.officeOpen b.day)
  have office : (moved LaneRec.parkedForDay (startedLane (appliedSettings b rate)) (List.finRange 8) (openedOffice b rate s)).office =
      (openedOffice b rate s).office := by rw [(moved_finRange _ _ _).1]
  have lanes : (give (.officeOpen b.day) (openedOffice b rate s)).lanes = s.lanes := by rw [given.rest]; rfl
  have opened : applyOfficeOpen b rate s = forLanes startDayLane (give (.officeOpen b.day) (openedOffice b rate s)) := rfl
  rw [opened, forLanes, foldl_moves (appliedSettings b rate) (fun l s quiet settings => settings ▸ startDayLane_eq l quiet) _ _
      (List.nodup_finRange 8) (given.quiet quiet) (by rw [given.rest]; rfl),
    openEntries, giveAll_cons, give_inward (moved_inward _ _ _) (by exact quiet) (by rw [office]) (by rw [office])]
  simp only [lanes]

theorem clamp_eq {lo hi v : Nat} : clamp lo hi v = max lo (min v hi) := by rw [clamp, Nat.min_comm]

theorem openBodyOk_of {b : OpenBody} (day1 : 1 ≤ b.day) (day2 : b.day ≤ 65535) (tolerance : b.tolerance ≤ 99999)
    (kinds : ∀ k : StockKind, b.kinds[k].name.length = 12 ∧ 100 ≤ b.kinds[k].pitch ∧ b.kinds[k].pitch ≤ 4000 ∧ 1 ≤ b.kinds[k].tol ∧
      b.kinds[k].tol ≤ b.kinds[k].pitch / 4) : openBodyOk b = true := by
  have all : b.kinds.toList.all kindSettingOk = true := List.all_eq_true.2 fun k mem => by
    obtain ⟨i, small, rfl⟩ := List.getElem_of_mem mem
    exact decide_eq_true (kinds ⟨i, by simpa using small⟩)
  rw [openBodyOk, all, Bool.and_true]
  exact decide_eq_true ⟨day1, day2, tolerance⟩

/-! ### DAY CLOSE (R172) -/

/-- A lane READY or HOLDING (R82). -/
def LaneRec.parksForDay (r : LaneRec) : Bool := decide (r.state = .ready ∨ r.state = .holding)

theorem parkDayLane_eq (l : Lane) (s : State) :
    parkDayLane l s = if s.lanes[l].parksForDay then give (.lane l (.parked .day) .day) (s.onLane l (parkedLane .day)) else s := by
  rw [parkDayLane, park_eq, LaneRec.parksForDay, State.lane]
  cases s.lanes[l].state <;> simp

/-- The office as DAY CLOSE leaves it before the lanes are parked: an empty Issue Table and activity counters of 0 (R172). -/
def clearedDay (s : State) : State :=
  { s.onIssue fun i => { i with table := [] } with lanes := s.lanes.map fun r => { r with act := Activity.zero } }

/-- The CLOSED office, before the expected tags become 0. -/
def closedOffice (s : State) : State :=
  (moved LaneRec.parksForDay (parkedLane .day) (List.finRange 8) (clearedDay s)).onOffice fun o => { o with opened := false }

theorem clearedDay_lane (s : State) (l : Lane) : (clearedDay s).lanes[l] = { s.lanes[l] with act := Activity.zero } :=
  Vector.getElem_map ..

/-- Every expected tag 0 (R172). -/
def ExchangeController.clearTags (x : ExchangeController) : ExchangeController := { x with tags := Vector.replicate 13 0 }

/-- The entries of DAY CLOSE (R172, R82). -/
def dayEntries (s : State) : List EntryBody :=
  (((List.finRange 8).filter fun l => s.lanes[l].parksForDay).map fun l => .lane l (.parked .day) .day) ++ [.dayClose s.office.day]

theorem applyDayClose_eq {s : State} (quiet : s.host.busIn = none) :
    applyDayClose s =
      (giveAll (dayEntries s) (closedOffice s)).onExch ExchangeController.clearTags := by
  have lanes : ∀ l : Lane, (clearedDay s).lanes[l].parksForDay = s.lanes[l].parksForDay := fun l => by rw [clearedDay_lane]; rfl
  have parked : forLanes parkDayLane (clearedDay s) =
      giveAll (((List.finRange 8).filter fun l => s.lanes[l].parksForDay).map fun l => .lane l (.parked .day) .day)
        (moved LaneRec.parksForDay (parkedLane .day) (List.finRange 8) (clearedDay s)) := by
    rw [forLanes, foldl_moves (move := parkDayLane) s.office.settings (fun l s _ _ => parkDayLane_eq l s) _ (clearedDay s)
      (List.nodup_finRange 8) quiet rfl]
    simp only [lanes]
  have closing : Inward fun s : State => s.onOffice fun o => { o with opened := false } := fun _ _ _ _ => rfl
  have quiet' : (moved LaneRec.parksForDay (parkedLane .day) (List.finRange 8) (clearedDay s)).host.busIn = none := by
    rw [(moved_inward _ _ _).host]
    exact quiet
  have closes : applyDayClose s =
      ((give (.dayClose s.office.day) (forLanes parkDayLane (clearedDay s))).onOffice fun o => { o with opened := false }).onExch
        ExchangeController.clearTags := rfl
  rw [closes, parked, closedOffice, giveAll_inward closing quiet' rfl rfl, dayEntries, giveAll_append]
  rfl

/-- The take of a DAY CLOSE: its changes by `applyDayClose_eq`, the answer, and the service of the sources. -/
theorem dayClose_done (s : State) (o : OrderHdr) (tag : Tag) (takeable : Takeable s o.slot 12 tag)
    (drawers : ∀ w : Window, s.till[w].state = .none) (jobs : ∀ l : Lane, s.lanes[l].queue = [] ∧ s.lanes[l].out = [])
    (doubts : s.stock.doubts = []) :
    ∃ t, exec (.dayClose o Env.quiet) s = .next t ∧
      t = { s with
        issue := t.issue, lanes := t.lanes, journal := t.journal, office := t.office, exch := t.exch, host := t.host } ∧
      t.issue = { s.issue with table := [] } ∧
      t.office = { s.office with opened := false } ∧
      (∀ l : Lane, t.lanes[l] =
        if s.lanes[l].state = .ready ∨ s.lanes[l].state = .holding then
          parkedLane .day { s.lanes[l] with act := ⟨0, 0, 0, 0, 0⟩ }
        else { s.lanes[l] with act := ⟨0, 0, 0, 0, 0⟩ }) ∧
      Gives (dayEntries s) s t ∧
      AnsweredSlot t o.slot ⟨.done, 2, tag, s.office.clock, .dayClose s.office.day⟩ ∧
      (∀ v : Source, t.exch.tags[v] = 0) ∧ OtherSlots [o.slot] s t ∧ ExchangeKept s.exch t.exch ∧
      t.host.snapshot = s.host.snapshot := by
  have verdict : verdictOf dayCloseRule o 12 (fun _ => dayCloseVerdict) s = acceptDone applyDayClose (.dayClose s.office.day) := by
    have noDrawer : anyDrawer s = false := List.any_eq_false.2 fun d mem => by
      obtain ⟨w, small, rfl⟩ := List.getElem_of_mem mem
      have none := drawers ⟨w, by simpa using small⟩
      rw [decide_eq_true_eq]
      exact not_not.2 none
    have noJob : anyJob s = false := List.any_eq_false.2 fun r mem => by
      obtain ⟨l, small, rfl⟩ := List.getElem_of_mem mem
      obtain ⟨queue, out⟩ := jobs ⟨l, by simpa using small⟩
      have queue : s.lanes.toList[l].queue = [] := queue
      have out : s.lanes.toList[l].out = [] := out
      rw [queue, out]
      decide
    rw [takeable.verdict rfl rfl, dayCloseVerdict, noDrawer, noJob, doubts]
    rfl
  obtain ⟨k, taken⟩ : ∃ k, takenState s dayCloseRule o .dayClose 12 = k := ⟨_, rfl⟩
  obtain ⟨x, h, frame, quiet⟩ := takenState_frame s dayCloseRule o .dayClose 12
  have same := takenState_sameJournal s dayCloseRule o .dayClose 12
  obtain ⟨others, -, kept⟩ := takenState_kept s dayCloseRule o .dayClose 12
  have posted : ∀ j, j ≠ o.slot → _ := fun j => taken_posted s dayCloseRule o .dayClose 12
  have snapshot : (takenState s dayCloseRule o .dayClose 12).host.snapshot = s.host.snapshot := rfl
  rw [taken] at frame same others kept posted snapshot
  have quiet : k.host.busIn = none := by rw [frame]; exact quiet.trans takeable.quiet
  have running : k.exch.state = .running := same.state.trans takeable.running
  have applied := applyDayClose_eq quiet
  have entries : dayEntries k = dayEntries s := by rw [frame]; rfl
  rw [entries] at applied
  obtain ⟨rest, lanes⟩ := moved_finRange LaneRec.parksForDay (parkedLane .day) (clearedDay k)
  have closed : closedOffice k = { k with
      issue := { k.issue with table := [] }
      lanes := (closedOffice k).lanes
      office := { k.office with opened := false } } := by rw [closedOffice, rest]; rfl
  have lanes : ∀ l : Lane, (closedOffice k).lanes[l] =
      if s.lanes[l].parksForDay = true then parkedLane .day { s.lanes[l] with act := Activity.zero }
      else { s.lanes[l] with act := Activity.zero } := fun l => by
    have before : (clearedDay k).lanes[l] = { s.lanes[l] with act := Activity.zero } := by rw [clearedDay_lane, frame]
    have := lanes l
    rw [before] at this
    exact this
  generalize closedOffice k = c at *
  have quiet' : c.host.busIn = none := by rw [closed]; exact quiet
  have given := giveAll_journalled quiet' (dayEntries s)
  obtain ⟨v, gives⟩ : ∃ v, giveAll (dayEntries s) c = v := ⟨_, rfl⟩
  rw [gives] at applied given
  obtain ⟨srcs, served⟩ := takeOrder_done (j := o.slot) (r := dayCloseRule) (b := .dayClose) (owner := fun _ _ _ => dayCloseVerdict)
    takeable.toOffers verdict (by rw [taken, applied]; exact given.quiet quiet')
    (by rw [taken, applied, State.onExch_exch, given.exch, closed]; exact running) (fun _ => written_unposted _ _ _)
  simp only [taken, applied, State.onExch_office] at served
  obtain ⟨t, runs⟩ : ∃ t, takeOrder dayCloseRule o .dayClose Env.quiet (fun _ _ _ => dayCloseVerdict) s = t := ⟨_, rfl⟩
  rw [runs] at served
  have journal : t.journal = v.journal := by rw [served.rest]; rfl
  have left : t = { s with
      issue := { s.issue with table := [] }
      lanes := c.lanes
      journal := t.journal
      office := { s.office with opened := false }
      exch := t.exch
      host := t.host } := by
    rw [journal]
    refine served.rest.trans ?_
    rw [written_frame]
    rw [given.rest]
    show { c with journal := v.journal, exch := t.exch, host := t.host } = _
    rw [closed, frame]
  have clock : v.office.clock = s.office.clock := by rw [given.rest, closed, frame]
  rw [clock] at served
  refine ⟨t, congrArg _ runs, left.trans (by rw [left]), by rw [left], by rw [left], fun l => ?_, ?_, served.answeredSlot,
    fun w => ?_, served.otherSlots fun j other => ?_, ?_, ?_⟩
  · rw [left]
    have := lanes l
    simp only [LaneRec.parksForDay, decide_eq_true_eq] at this
    exact this
  · have alike : SameJournal s c := by
      rw [closed, frame]
      rw [frame] at same
      exact ⟨rfl, same.ring, same.alerts, same.state, same.base, same.offset, rfl, rfl⟩
    show Gives (dayEntries s) s t
    exact Gives.of_same alike takeable.quiet quiet' (by rw [gives]; exact journal) (by rw [gives]; exact served.ring)
      (by rw [gives]; exact served.alerts)
  · rw [served.tags]
    exact Vector.getElem_replicate ..
  · have other : j ≠ o.slot := fun same => other (List.mem_singleton.2 same)
    obtain ⟨slot, mark, context⟩ := others j other
    obtain ⟨kept', read'⟩ := written_kept other ⟨.done, dayCloseRule.code, tag, s.office.clock, .dayClose s.office.day⟩
      (v.onExch ExchangeController.clearTags)
    have exch : v.exch = { k.exch with alerts := v.exch.alerts } := by rw [given.exch, closed]
    have host : v.host = { k.host with journal := v.host.journal } := by rw [given.host, closed]
    refine ⟨SlotKept.trans ⟨?_, ?_, ?_⟩ kept', read'.trans ((postedHeader_congr ?_ ?_ j).trans (posted j other))⟩
    · rw [State.onExch_host, host]; exact slot
    · rw [State.onExch_exch, exch]; exact mark
    · rw [State.onExch_exch, exch]; exact context
    · rw [State.onExch_exch, exch]; rfl
    · rw [State.onExch_exch, exch]; rfl
  · have exch : v.exch = { k.exch with alerts := v.exch.alerts } := by rw [given.exch, closed]
    refine (kept.trans ?_).trans ((written_exchangeKept o.slot _ _).trans served.kept)
    rw [State.onExch_exch, exch]
    exact ⟨by constructor <;> rfl, rfl, rfl, rfl⟩
  · rw [served.snapshot]
    show v.host.snapshot = _
    rw [given.host, closed]
    exact snapshot

/-- Settles O2: OFFICE OPEN is `Offers.done`; DAY CLOSE, which also sets the expected tags, is `dayClose_done`. -/
theorem officeOrdersDone : Obligations.OfficeOrdersDone := by
  refine ⟨fun s o b rate tag offers gate closed known day1 day2 tolerance kinds => ?_, dayClose_done⟩
  have verdict : verdictOf officeOpenRule o 12 (fun _ => officeOpenVerdict b) s =
      acceptDone (applyOfficeOpen b rate) (.officeOpen b.day (clamp 0 60 b.patience) (clamp 1 20 b.poll) (clamp 5 100 b.response)
        (clamp 10 1000 b.stretch)) := by
    simp only [verdictOf, gate, readAttachment, officeOpenRule, officeOpenVerdict, closed, known,
      openBodyOk_of day1 day2 tolerance kinds, Bool.false_and, Bool.false_eq_true, if_false, if_true]
    rfl
  obtain ⟨rest, lanes⟩ :=
    moved_finRange LaneRec.parkedForDay (startedLane (appliedSettings b rate)) (openedOffice b rate s)
  obtain ⟨t, taken, is, gives, answers⟩ := offers.done (b := .officeOpen b) (owner := fun _ _ _ => officeOpenVerdict b)
    (g := moved LaneRec.parkedForDay (startedLane (appliedSettings b rate)) (List.finRange 8) (openedOffice b rate s))
    (es := openEntries b s)
    (a := (openedOffice b rate s).office) verdict
    (fun x h quiet => by
      rw [← (moved_inward _ _ _).under]
      exact applyOfficeOpen_eq b rate (s := { s with exch := x, host := h }) quiet)
    ((moved_inward _ _ _).journal _) (by rw [rest]) (by rw [rest])
  have settings : appliedSettings b rate = ⟨b.tolerance, min b.patience 60, rate, max 1 (min b.poll 20), max 5 (min b.response 100),
      max 10 (min b.stretch 1000)⟩ := by simp only [appliedSettings, clamp_eq, Nat.zero_max]
  have office : t.office = { s.office with day := b.day, settings := appliedSettings b rate, clock := 0, opened := true } := by
    rw [is, rest]
    rfl
  refine ⟨t, congrArg _ taken, ?_, ?_, ?_, fun l => ?_, ?_, ?_⟩
  · rw [is, rest]
    rfl
  · rw [is, rest]
    rfl
  · rw [office, settings]
  · rw [office]
    have := lanes l
    rw [is]
    simp only [LaneRec.parkedForDay, decide_eq_true_eq] at this
    exact this
  · rw [office]
    exact gives
  · have clock : (moved LaneRec.parkedForDay (startedLane (appliedSettings b rate)) (List.finRange 8) (openedOffice b rate s)).office.clock
        = 0 := by rw [rest]; rfl
    rw [clock] at answers
    simp only [clamp_eq, Nat.zero_max] at answers
    exact answers

end Sys2Proof.Machine
end

section
/-! The cash-up condition (R155), declarations (R143), and orders whose take leaves the slot TAKEN or answers another slot as
well (R43, R154, R159). -/

namespace Sys2Proof.Machine

/-! ### Answers produced by owners (R46) -/

/-- An answer produced: written at once while RUNNING, else held behind those produced before it. -/
def answered (i : SlotNo) (a : Answer) (s : State) : State := if s.exch.state = .running then written i a s else holdAnswer i a s

theorem answer_eq {s : State} (quiet : s.host.busIn = none) (i : SlotNo) (k : Byte) (t : Tag) (oc : OrderOutcome) (f : AnswerFields) :
    answer i k t oc f s = answered i ⟨oc, k, t, s.office.clock, f⟩ s := by
  unfold answered
  split
  next running => exact answer_running quiet running i k t oc f
  next held => exact answer_held held i k t oc f

theorem answered_running {s : State} (running : s.exch.state = .running) (i : SlotNo) (a : Answer) : answered i a s = written i a s :=
  if_pos running

theorem answered_held {s : State} (held : s.exch.state ≠ .running) (i : SlotNo) (a : Answer) : answered i a s = holdAnswer i a s :=
  if_neg held

/-- What an answer produced leaves: everything but the exchange and the slots, and of these the registers, the state, the
sweep's offers, the tags, the ring and the snapshot. -/
structure Produced (s t : State) : Prop where
  rest     : t = { s with exch := t.exch, host := t.host }
  state    : t.exch.state = s.exch.state
  alerts   : t.exch.alerts = s.exch.alerts
  tags     : t.exch.tags = s.exch.tags
  regs     : SameRegisters s.exch t.exch
  abortDue : t.exch.abortDue = s.exch.abortDue
  next     : t.exch.nextStart = s.exch.nextStart
  ring     : t.host.journal = s.host.journal
  snapshot : t.host.snapshot = s.host.snapshot
  quiet    : t.host.busIn = s.host.busIn

theorem answered_produced (i : SlotNo) (a : Answer) (s : State) : Produced s (answered i a s) := by
  unfold answered
  split
  · exact ⟨rfl, rfl, rfl, rfl, by constructor <;> rfl, rfl, rfl, rfl, rfl, rfl⟩
  · exact ⟨rfl, rfl, rfl, rfl, by constructor <;> rfl, rfl, rfl, rfl, rfl, rfl⟩

/-- While RUNNING the slot has its answer, and nothing else of the exchange changes. -/
theorem answered_slot {s : State} (running : s.exch.state = .running) (i : SlotNo) (a : Answer) :
    AnsweredSlot (answered i a s) i a ∧ (∀ j, j ≠ i → SlotKept s (answered i a s) j) ∧ ExchangeKept s.exch (answered i a s).exch := by
  rw [answered_running running]
  exact ⟨⟨Table.upd_same _ _ _, Table.upd_same _ _ _, Table.upd_same _ _ _⟩, fun j other => (written_kept other a s).1,
    written_exchangeKept i a s⟩

/-- While the exchange does not run the answer is held, and no slot changes. -/
theorem answered_pending {s : State} (held : s.exch.state ≠ .running) (i : SlotNo) (a : Answer) :
    (answered i a s).exch.pendingAns = s.exch.pendingAns ++ [(i, a)] ∧ ∀ j, SlotKept s (answered i a s) j := by
  rw [answered_held held]
  exact ⟨rfl, fun _ => ⟨rfl, rfl, rfl⟩⟩

/-! ### The test of the cash-up condition (R155 to R158) -/

/-- The answer of a cash-up that completes at the test. -/
def cashedUp (s : State) (w : Window) (p : PendingCashUp) : Answer :=
  ⟨.cashedUp, kindCashUp, p.tag, s.office.clock, cashUpFields s.till[w] s.office.settings.tolerance p.declared⟩

theorem settled_iff (d : Drawer) : d.settled = true ↔ d.state = .closing ∧ d.live = 0 ∧ d.suspense = 0 := decide_eq_true_iff

/-- The completion: its entry, its answer, and the drawer NONE. -/
theorem testCashUp_settled {s : State} {w : Window} {p : PendingCashUp} (quiet : s.host.busIn = none)
    (waits : s.till[w].cashUp = some p) (settled : s.till[w].settled = true) :
    testCashUp w s = (answered p.slot (cashedUp s w p)
      (give (cashUpEntry w s.till[w] s.office.settings.tolerance p.declared) s)).onDrawer w Drawer.close := by
  have given := give_journalled quiet (cashUpEntry w s.till[w] s.office.settings.tolerance p.declared)
  have clock : (give (cashUpEntry w s.till[w] s.office.settings.tolerance p.declared) s).office.clock = s.office.clock := by
    rw [given.rest]
  simp only [testCashUp, waits, settled, if_true]
  rw [answer_eq (given.quiet quiet), clock]
  rfl

/-- Settles O10: a test that does not find the condition changes nothing; one that does is `testCashUp_settled`. -/
theorem pendingCashUpSettles : Obligations.PendingCashUpSettles := by
  intro s w quiet
  refine ⟨fun unmet => ?_, fun p waits closing live suspense => ?_⟩
  · rcases unmet with none | notClosing | live | suspense
    · exact testCashUp_none none
    all_goals refine testCashUp_unsettled (Bool.eq_false_iff.2 fun settled => ?_)
    all_goals obtain ⟨closing, live', suspense'⟩ := (settled_iff _).1 settled
    · exact notClosing closing
    · exact live live'
    · exact suspense suspense'
  · obtain ⟨e, entry⟩ : ∃ e, cashUpEntry w s.till[w] s.office.settings.tolerance p.declared = e := ⟨_, rfl⟩
    have tested := testCashUp_settled quiet waits ((settled_iff _).2 ⟨closing, live, suspense⟩)
    have given := give_journalled quiet e
    rw [entry] at tested
    obtain ⟨u, gives⟩ : ∃ u, give e s = u := ⟨_, rfl⟩
    rw [gives] at tested given
    have produced := answered_produced p.slot (cashedUp s w p) u
    have kept : ∀ i, SlotKept s u i := fun i =>
      ⟨by rw [given.host], by rw [given.exch], by rw [given.exch]⟩
    refine ⟨_, cashLines s.till[w] s.office.settings.tolerance p.declared, cashedUp s w p, tested, cashLines_reconciled _ _ _, rfl, ?_,
      fun v other => ?_, ?_, ⟨?_, ?_, ?_⟩, fun running => ?_, fun held => ?_, ?_, ?_⟩
    · rw [produced.rest, given.rest]
      rfl
    · rw [produced.rest, given.rest]
      exact Table.upd_ne _ _ _ _ other
    · rw [produced.rest, given.rest]
      exact Table.upd_same _ _ _
    · show _ = (give (cashUpEntry w s.till[w] s.office.settings.tolerance p.declared) s).journal
      rw [entry, gives, produced.rest]
      rfl
    · show _ = (give (cashUpEntry w s.till[w] s.office.settings.tolerance p.declared) s).host.journal
      rw [entry, gives]
      exact produced.ring
    · show _ = (give (cashUpEntry w s.till[w] s.office.settings.tolerance p.declared) s).exch.alerts
      rw [entry, gives]
      exact produced.alerts
    · obtain ⟨slot, others, exchange⟩ := answered_slot (s := u) (by rw [given.exch]; exact running) p.slot (cashedUp s w p)
      exact ⟨⟨slot.slot, slot.mark, slot.context⟩, fun i other => SlotKept.trans (kept i) ⟨(others i other).slot, (others i other).mark,
        (others i other).context⟩, ExchangeKept.trans (by rw [given.exch]; exact ⟨by constructor <;> rfl, rfl, rfl, rfl⟩) exchange⟩
    · obtain ⟨pending, slots⟩ := answered_pending (s := u) (by rw [given.exch]; exact held) p.slot (cashedUp s w p)
      exact ⟨pending.trans (by rw [given.exch]), fun i => SlotKept.trans (kept i) ⟨(slots i).slot, (slots i).mark, (slots i).context⟩⟩
    · exact produced.tags.trans (by rw [given.exch])
    · exact produced.snapshot.trans (by rw [given.host])

/-! ### Declarations (R143) -/

theorem declareOne_none {s : State} {l : Lane} {n : Nat} (oc : DeclOutcome) (h : doubtOf s l n = none) : declareOne l s n oc = s := by
  simp only [declareOne, h]

theorem declareOne_some {s : State} {l : Lane} {n : Nat} {d : DoubtEntry} (oc : DeclOutcome) (h : doubtOf s l n = some d) :
    declareOne l s n oc = testCashUp d.window (give (.resolved d.kind d.serial oc) (declareEffect d oc (dropDoubt d s))) := by
  simp only [declareOne, h]

/-- A declaration's effects leave the journal, the exchange and host memory. -/
theorem declareEffect_inward (d : DoubtEntry) (oc : DeclOutcome) : Inward fun s => declareEffect d oc (dropDoubt d s) := by
  cases oc <;> exact fun _ _ _ _ => rfl

/-- Settles O8: the entry's effects are one change of the part's records, outcome by outcome, with one entry given. -/
theorem declarationSettles : Obligations.DeclarationSettles := by
  refine ⟨fun s l n oc d quiet found => ?_, fun s l n oc none => declareOne_none oc ?_⟩
  · have office : (declareEffect d oc (dropDoubt d s)).office = s.office := by cases oc <;> rfl
    have given : give (.resolved d.kind d.serial oc) (declareEffect d oc (dropDoubt d s)) =
        declareEffect d oc (dropDoubt d (give (.resolved d.kind d.serial oc) s)) :=
      give_inward (declareEffect_inward d oc) quiet (by rw [office]) (by rw [office]) _
    have journalled := give_journalled quiet (.resolved d.kind d.serial oc)
    obtain ⟨j, x, h, is⟩ : ∃ j x h, give (.resolved d.kind d.serial oc) s = { s with journal := j, exch := x, host := h } :=
      ⟨_, _, _, journalled.rest⟩
    have exch : x = { s.exch with alerts := x.alerts } := by simpa only [is] using journalled.exch
    have host : h = { s.host with journal := h.journal } := by simpa only [is] using journalled.host
    have gives : Gives [.resolved d.kind d.serial oc] s { s with journal := j, exch := x, host := h } := by
      rw [← is]
      exact ⟨rfl, rfl, rfl⟩
    rw [is] at given
    refine ⟨_, (declareOne_some oc found).trans (congrArg (testCashUp d.window) given), ?_⟩
    cases oc
    all_goals exact ⟨rfl, rfl, rfl, fun v other => Table.upd_ne _ _ _ _ other, Table.upd_same _ _ _,
      ⟨gives.journal, gives.ring, gives.alerts⟩, exch, host⟩
  · exact List.find?_eq_none.2 fun e mem => by rw [decide_eq_true_eq]; exact none e mem

/-! ### Orders that stay TAKEN (R37, R43) -/

/-- What a take without an answer leaves of the exchange: the slot TAKEN with the order's copy in its context, the source's
expected tag risen by 1, no entry given, and the rest as the service of the sources leaves it. -/
structure Begun (s t : State) (i : SlotNo) (src : Source) (context : OrderCtx) : Prop where
  nothing  : GivesNothing s t
  taken    : TagTaken s t src
  kept     : ExchangeKept s.exch t.exch
  others   : OtherSlots [i] s t
  slot     : t.host.slots[i] = ⟨2, s.host.slots[i].answer⟩
  mark     : t.exch.marks[i] = s.exch.marks[i]
  context  : t.exch.contexts[i] = some context
  snapshot : t.host.snapshot = s.host.snapshot

theorem Offers.source {s : State} {i : SlotNo} {src : Source} {tag : Tag} (offers : Offers s i src tag) (code : Byte) :
    (orderHeader s i code).source = BitVec.ofNat 8 src.val := by
  obtain ⟨w, sweep, -, source, -⟩ := offers.offered
  rw [orderHeader, sweep]
  refine BitVec.eq_of_toNat_eq ?_
  show w.headers[i].source.toNat = _
  rw [source, BitVec.toNat_ofNat]
  omega

/-- The slot taken reads TAKEN, with its context open. -/
theorem takenState_slot (s : State) (r : OrderRule) (o : OrderHdr) (b : OrderBody) (src : Source) :
    (takenState s r o b src).host.slots[o.slot] = ⟨2, s.host.slots[o.slot].answer⟩ ∧
      (takenState s r o b src).exch.contexts[o.slot] = some ⟨(orderHeader s o.slot r.code).kind, (orderHeader s o.slot r.code).source,
        (orderHeader s o.slot r.code).tag, some (orderCopy r.attaches o b)⟩ ∧
      postedHeader (takenState s r o b src) o.slot = none := by
  have context : (takenState s r o b src).exch.contexts[o.slot] = some ⟨(orderHeader s o.slot r.code).kind,
      (orderHeader s o.slot r.code).source, (orderHeader s o.slot r.code).tag, some (orderCopy r.attaches o b)⟩ :=
    Table.upd_same _ _ _
  refine ⟨Table.upd_same _ _ _, context, ?_⟩
  unfold postedHeader
  rw [context]
  split
  · rfl
  · exact if_neg fun h => nomatch h.2

/-- An accepted order that is answered later: `g` is the state that its changes leave of the part's own records, whatever the
exchange and host memory are. -/
theorem Offers.begun {r : OrderRule} {o : OrderHdr} {b : OrderBody} {owner : Source → Tag → Option (List Byte) → State → Verdict}
    {s g : State} {src : Source} {tag : Tag} {change : State → State} (offers : Offers s o.slot src tag)
    (verdict : verdictOf r o src (owner src tag) s = .accept change none)
    (changes : ∀ x h, change { s with exch := x, host := h } = { g with exch := x, host := h }) (journal : g.journal = s.journal) :
    ∃ t, takeOrder r o b Env.quiet owner s = t ∧ t = { g with exch := t.exch, host := t.host } ∧
      Begun s t o.slot src ⟨r.code, BitVec.ofNat 8 src.val, tag, some (orderCopy r.attaches o b)⟩ := by
  obtain ⟨x, h, frame, quiet⟩ := takenState_frame s r o b src
  have same := takenState_sameJournal s r o b src
  obtain ⟨others, taken, kept⟩ := takenState_kept s r o b src
  obtain ⟨slot, context, unposted⟩ := takenState_slot s r o b src
  have posted : ∀ j, j ≠ o.slot → _ := fun j => taken_posted s r o b src
  have mark : (takenState s r o b src).exch.marks = s.exch.marks := rfl
  have snapshot : (takenState s r o b src).host.snapshot = s.host.snapshot := rfl
  obtain ⟨-, htag, hkind⟩ := offers.header r.code
  rw [htag, hkind, offers.source] at context
  obtain ⟨srcs, served⟩ := takeOrder_begun (b := b) (j := o.slot) offers verdict
    (by rw [frame, changes]; exact quiet.trans offers.quiet)
    (by rw [frame, changes]; rw [frame] at same; exact same.state.trans offers.running)
    (by rw [← unposted, frame, changes]; exact postedHeader_congr rfl rfl _)
  rw [frame, changes] at served
  rw [frame] at same others taken kept slot context posted mark snapshot
  generalize takeOrder r o b Env.quiet owner s = t at served
  refine ⟨t, rfl, served.rest, ⟨⟨?_, ?_, ?_⟩, ⟨?_, fun v other => ?_⟩, ExchangeKept.trans kept served.kept,
    served.otherSlots fun j other => ?_, served.slot.trans slot, ?_, served.context.trans context, served.snapshot.trans snapshot⟩⟩
  · rw [served.rest]; exact journal
  · exact served.ring.trans same.ring
  · exact served.alerts.trans same.alerts
  · rw [served.tags]; exact taken.tag
  · rw [served.tags]; exact taken.tags v other
  · have other : j ≠ o.slot := fun same => other (List.mem_singleton.2 same)
    exact ⟨⟨(others j other).slot, (others j other).mark, (others j other).context⟩,
      (postedHeader_congr rfl rfl j).trans (posted j other)⟩
  · rw [served.mark, mark]

/-! ### Orders of the Till Unit (R149, R154, R159) -/

theorem altLane_val (alt : Option Lane) : altLane (alt.map Fin.val) = some alt := by
  cases alt with
  | none => rfl
  | some l => simp only [altLane, Option.map_some, toIdx_val]

theorem shiftOpenVerdict_accepts {s : State} {w : Window} {clerk float : Nat} {home : Lane} {alt : Option Lane}
    (none : s.till[w].state = .none) (small : clerk ≤ 65535) (amount : float ≤ Config.maxTotal) (apart : alt ≠ some home) :
    shiftOpenVerdict clerk float home.val (alt.map Fin.val) w s =
      acceptDone (applyShiftOpen w clerk float home alt) (.shiftOpen (nextShift s.till[w].shift) s.office.clock) := by
  have range : ¬ (65535 < clerk ∨ Config.maxTotal < float) := by omega
  simp only [shiftOpenVerdict, none, toIdx_val, altLane_val, if_neg range, if_neg apart]
  rfl

/-- A cash-up that does not meet the cash-up condition at its take leaves the drawer CLOSING (R154). -/
theorem applyCashUp_waits {s : State} {w : Window} {p : PendingCashUp} (unsettled : (s.till[w].beginCashUp p).settled = false) :
    applyCashUp w p s = s.onDrawer w fun d => d.beginCashUp p := by
  have begun : (s.onDrawer w fun d => d.beginCashUp p).till[w] = s.till[w].beginCashUp p := Table.upd_same _ _ _
  simp only [applyCashUp, begun, unsettled, Bool.false_eq_true, if_false]

theorem beginCashUp_unsettled {d : Drawer} (busy : d.live ≠ 0 ∨ d.suspense ≠ 0) (p : PendingCashUp) :
    (d.beginCashUp p).settled = false :=
  decide_eq_false fun ⟨_, live, suspense⟩ => busy.elim (fun h => h live) fun h => h suspense

theorem withdrawWindow_of {src : Source} {window : Nat} {w : Window} (concerned : src = w.castSucc ∨ src = 12 ∧ window = w.val) :
    withdrawWindow src window = some w := by
  rcases concerned with rfl | ⟨rfl, rfl⟩
  · rw [withdrawWindow, if_pos (by simp only [Fin.val_castSucc]; omega), Fin.val_castSucc, toIdx_val]
  · exact toIdx_val w

/-- The take of a CASH-UP WITHDRAW: two answers, of the pending cash-up and of its own, and the service of the sources. -/
theorem withdraw_done (s : State) (o : OrderHdr) (window : Nat) (w : Window) (src : Source) (p : PendingCashUp) (tag : Tag)
    (offers : Offers s o.slot src tag) (office : s.office.opened = true) (concerned : src = w.castSucc ∨ src = 12 ∧ window = w.val)
    (closing : s.till[w].state = .closing) (waits : s.till[w].cashUp = some p) (apart : p.slot ≠ o.slot) :
    ∃ t, exec (.cashUpWithdraw o window Env.quiet) s = .next t ∧
      t = { s with till := t.till, exch := t.exch, host := t.host } ∧
      OtherDrawers w s t ∧ t.till[w] = { s.till[w] with state := .opened, cashUp := none } ∧
      GivesNothing s t ∧
      AnsweredSlot t p.slot ⟨.withdrawn, 16, p.tag, s.office.clock, .withdrawn s.till[w].shift⟩ ∧
      AnsweredSlot t o.slot ⟨.done, 17, tag, s.office.clock, .withdraw w s.till[w].shift⟩ ∧
      TagTaken s t src ∧ OtherSlots [o.slot, p.slot] s t ∧ ExchangeKept s.exch t.exch ∧ t.host.snapshot = s.host.snapshot := by
  have verdict : verdictOf cashUpWithdrawRule o src (fun _ s => match withdrawWindow src window with
      | none => .refuse .outOfRange
      | some w => withdrawVerdict w s) s = acceptDone (applyWithdraw w) (.withdraw w s.till[w].shift) := by
    simp only [verdictOf, cashUpWithdrawRule, readAttachment, office, withdrawWindow_of concerned, withdrawVerdict, closing,
      Bool.not_true, Bool.and_false, Bool.false_and, Bool.false_eq_true, if_false]
  obtain ⟨k, taken⟩ : ∃ k, takenState s cashUpWithdrawRule o (.cashUpWithdraw window) src = k := ⟨_, rfl⟩
  obtain ⟨x, h, frame, quiet⟩ := takenState_frame s cashUpWithdrawRule o (.cashUpWithdraw window) src
  have same := takenState_sameJournal s cashUpWithdrawRule o (.cashUpWithdraw window) src
  obtain ⟨others, tags, kept⟩ := takenState_kept s cashUpWithdrawRule o (.cashUpWithdraw window) src
  have posted : ∀ j, j ≠ o.slot → _ := fun j => taken_posted s cashUpWithdrawRule o (.cashUpWithdraw window) src
  have snapshot : (takenState s cashUpWithdrawRule o (.cashUpWithdraw window) src).host.snapshot = s.host.snapshot := rfl
  rw [taken] at frame same others tags kept posted snapshot
  have quiet : k.host.busIn = none := by rw [frame]; exact quiet.trans offers.quiet
  have running : k.exch.state = .running := same.state.trans offers.running
  have drawer : k.till[w] = s.till[w] := by rw [frame]
  have clock : k.office.clock = s.office.clock := by rw [frame]
  have applied : applyWithdraw w k =
      (written p.slot ⟨.withdrawn, 16, p.tag, s.office.clock, .withdrawn s.till[w].shift⟩ k).onDrawer w Drawer.withdraw := by
    simp only [applyWithdraw, drawer, waits]
    rw [answer_running quiet running, clock]
    rfl
  obtain ⟨srcs, served⟩ := takeOrder_done (j := o.slot) (b := .cashUpWithdraw window)
    (owner := fun src _ _ s => match withdrawWindow src window with
      | none => .refuse .outOfRange
      | some w => withdrawVerdict w s) offers verdict (by rw [taken, applied]; exact quiet) (by rw [taken, applied]; exact running)
    (fun _ => written_unposted _ _ _)
  simp only [taken, applied, State.onDrawer_office] at served
  obtain ⟨t, runs⟩ : ∃ t, takeOrder cashUpWithdrawRule o (.cashUpWithdraw window) Env.quiet
    (fun src _ _ s => match withdrawWindow src window with
      | none => .refuse .outOfRange
      | some w => withdrawVerdict w s) s = t := ⟨_, rfl⟩
  rw [runs] at served
  obtain ⟨a, first⟩ : ∃ a : Answer, a = ⟨.withdrawn, 16, p.tag, s.office.clock, .withdrawn s.till[w].shift⟩ := ⟨_, rfl⟩
  obtain ⟨u, withdrawn⟩ : ∃ u, (written p.slot a k).onDrawer w Drawer.withdraw = u := ⟨_, rfl⟩
  have answered : AnsweredSlot u p.slot a ∧ postedHeader u p.slot = none := by
    rw [← withdrawn]
    exact ⟨⟨Table.upd_same _ _ _, Table.upd_same _ _ _, Table.upd_same _ _ _⟩, written_unposted p.slot a k⟩
  have untouched : ∀ j, j ≠ p.slot → SlotKept k u j ∧ postedHeader u j = postedHeader k j := fun j other => by
    rw [← withdrawn]
    exact ⟨⟨(written_kept other a k).1.slot, (written_kept other a k).1.mark, (written_kept other a k).1.context⟩,
      (written_kept other a k).2⟩
  have exchange : ExchangeKept k.exch u.exch := by rw [← withdrawn]; exact written_exchangeKept p.slot a k
  have rest : u = { s with till := s.till.upd w Drawer.withdraw, exch := u.exch, host := u.host } := by rw [← withdrawn, frame]; rfl
  have ring : u.host.journal = k.host.journal ∧ u.host.snapshot = k.host.snapshot ∧ u.exch.tags = k.exch.tags ∧
      u.exch.alerts = k.exch.alerts := by rw [← withdrawn]; exact ⟨rfl, rfl, rfl, rfl⟩
  have time : (written p.slot a k).office.clock = s.office.clock := clock
  rw [← first, time, withdrawn] at served
  rw [← first]
  obtain ⟨ring, snap, tagsKept, alerts⟩ := ring
  have left : t = { s with till := s.till.upd w Drawer.withdraw, exch := t.exch, host := t.host } := by
    refine served.rest.trans ?_
    rw [written_frame, rest]
  refine ⟨t, congrArg _ runs, left.trans (by rw [left]), fun v other => ?_, ?_, ⟨?_, ?_, ?_⟩, ?_, served.answeredSlot,
    ⟨?_, fun v other => ?_⟩, served.otherSlots fun j other => ?_, ?_, ?_⟩
  · rw [left]; exact Table.upd_ne _ _ _ _ other
  · rw [left]; exact Table.upd_same _ _ _
  · rw [left]; rfl
  · exact served.ring.trans (ring.trans same.ring)
  · exact served.alerts.trans (alerts.trans same.alerts)
  · obtain ⟨keptSlot, read⟩ := written_kept apart ⟨.done, cashUpWithdrawRule.code, tag, s.office.clock, .withdraw w s.till[w].shift⟩ u
    rcases served.others p.slot with left | stale
    · have through := keptSlot.trans left
      exact ⟨through.slot.trans answered.1.slot, through.mark.trans answered.1.mark, through.context.trans answered.1.context⟩
    · obtain ⟨hd, _, reads, -⟩ := stale.posted
      rw [read, answered.2] at reads
      exact nomatch reads
  · rw [served.tags]
    exact (congrArg (fun v : Table 13 Tag => v[src]) tagsKept).trans tags.tag
  · rw [served.tags]
    exact (congrArg (fun x : Table 13 Tag => x[v]) tagsKept).trans (tags.tags v other)
  · obtain ⟨own, pending⟩ : j ≠ o.slot ∧ j ≠ p.slot := by simpa using other
    obtain ⟨keptSlot, read⟩ := written_kept own ⟨.done, cashUpWithdrawRule.code, tag, s.office.clock, .withdraw w s.till[w].shift⟩ u
    obtain ⟨slot, header⟩ := untouched j pending
    exact ⟨(others j own).trans (slot.trans keptSlot), read.trans (header.trans (posted j own))⟩
  · exact (kept.trans exchange).trans ((written_exchangeKept o.slot _ u).trans served.kept)
  · exact served.snapshot.trans (snap.trans snapshot)

/-- Settles O9: SHIFT OPEN by `Offers.done`, a CASH-UP that waits by `Offers.begun`, CASH-UP WITHDRAW by `withdraw_done`. -/
theorem drawerOrdersDone : Obligations.DrawerOrdersDone := by
  refine ⟨fun s o clerk float home alt w tag takeable none small amount apart => ?_,
    fun s o decl w tag takeable opened range busy => ?_, withdraw_done⟩
  · have verdict := (takeable.verdict (r := shiftOpenRule) rfl (decide_eq_true w.isLt)
      (fun _ s => forWindow w.castSucc fun w => shiftOpenVerdict clerk float home.val (alt.map Fin.val) w s)).trans
      ((forWindow_window w _).trans (shiftOpenVerdict_accepts none small amount apart))
    obtain ⟨t, taken, is, gives, answers⟩ := takeable.done (b := .shiftOpen clerk float home.val (alt.map Fin.val))
      (owner := fun src _ _ s => forWindow src fun w => shiftOpenVerdict clerk float home.val (alt.map Fin.val) w s)
      (es := [.shiftOpen w clerk (nextShift s.till[w].shift) float]) (a := s.office)
      (g := s.onDrawer w fun d => d.openShift clerk float home alt s.office.clock) verdict (fun _ _ _ => rfl) rfl rfl rfl
    refine ⟨t, nextShift s.till[w].shift, congrArg _ taken, rfl, by rw [is]; rfl, fun v other => ?_, ?_, gives, answers⟩
    · rw [is]; exact Table.upd_ne _ _ _ _ other
    · rw [is]; exact Table.upd_same _ _ _
  · have unsettled := beginCashUp_unsettled busy ⟨o.slot, tag, decl⟩
    have verdict : verdictOf cashUpRule o w.castSucc (cashUpOwner o.slot decl w.castSucc tag) s =
        .accept (applyCashUp w ⟨o.slot, tag, decl⟩) none := by
      rw [takeable.verdict rfl (decide_eq_true w.isLt), cashUpOwner, forWindow_window, cashUpVerdict, opened]
      simp only [declaredOk_of_le range, cashUpReply, unsettled, if_true, Bool.false_eq_true, if_false]
    obtain ⟨t, taken, is, begun⟩ := takeable.begun (b := .cashUp decl) (owner := cashUpOwner o.slot decl)
      (g := s.onDrawer w fun d => d.beginCashUp ⟨o.slot, tag, decl⟩) verdict
      (fun x h => applyCashUp_waits (s := { s with exch := x, host := h }) unsettled) rfl
    refine ⟨t, (exec_cashUp ..).trans (congrArg _ taken), by rw [is]; rfl, fun v other => ?_, ?_, begun.nothing, begun.taken,
      begun.kept, begun.others, begun.slot, begun.mark, begun.context, begun.snapshot⟩
    · rw [is]; exact Table.upd_ne _ _ _ _ other
    · rw [is]; exact Table.upd_same _ _ _

end Sys2Proof.Machine
end

section
/-! ISSUE taken (R55 to R60), and STATUS READ (R49). -/

namespace Sys2Proof.Machine

/-! ### ISSUE (R55 to R60) -/

theorem ofCurrentShift_not (till : Table 12 Drawer) (e : IssueEntry) :
    (!ofCurrentShift till e) = decide (till[e.window].state = .none ∨ till[e.window].shift ≠ e.shift) := by
  rw [ofCurrentShift, ← decide_not, decide_eq_decide]
  exact Decidable.not_and_iff_not_or_not.trans (or_congr Decidable.not_not Iff.rfl)

theorem tableFull_iff (i : IssueController) : tableFull i = true ↔ ¬ i.table.length + i.reserved < Config.tableRoom := by
  rw [tableFull, decide_eq_true_eq, Nat.not_lt]

theorem issueRoom_iff (s : State) : issueRoom s = true ↔ s.issue.table.length + s.issue.reserved < Config.tableRoom ∨
    ∃ e ∈ s.issue.table, s.till[e.window].state = .none ∨ s.till[e.window].shift ≠ e.shift := by
  simp only [issueRoom, ofCurrentShift_not, Bool.or_eq_true, Bool.not_eq_true', List.any_eq_true, decide_eq_true_eq]
  rw [← Bool.not_eq_true, tableFull_iff, not_not]

/-- The table and the reservations after an ISSUE (R58, R60, R71). -/
theorem reserve_eq (s : State) : reserve s = s.onIssue fun i => { i with
    table := if i.table.length + i.reserved < Config.tableRoom then i.table
      else i.table.eraseP fun e => decide (s.till[e.window].state = .none ∨ s.till[e.window].shift ≠ e.shift)
    reserved := i.reserved + 1 } := by
  have find : (fun e => !ofCurrentShift s.till e) =
      fun e : IssueEntry => decide (s.till[e.window].state = .none ∨ s.till[e.window].shift ≠ e.shift) :=
    funext (ofCurrentShift_not s.till)
  simp only [reserve, State.onIssue, find, tableFull_iff, ite_not]

theorem resolveLane_of {d : Drawer} {c : LaneChoice} {l : Lane}
    (choice : c = .lane l ∨ c = .home ∧ l = d.home ∨ c = .alternate ∧ d.alt = some l) : resolveLane d c = some l := by
  rcases choice with rfl | ⟨rfl, rfl⟩ | ⟨rfl, alt⟩
  · rfl
  · rfl
  · exact alt

/-- The attachment that a take of an ISSUE reads, and the copy made of it (R44, R56). -/
theorem readAttachment_of {o : OrderHdr} {own area : List Byte}
    (read : o.attached = false ∧ area = own ∨ o.attached = true ∧ 1 ≤ o.attLen ∧ o.attLen ≤ Config.maxAttachment ∧ o.att = .data area) :
    ∃ att, readAttachment true o = .ok att ∧ att.getD own = area ∧ att = if o.attached then some area else none := by
  rcases read with ⟨plain, rfl⟩ | ⟨attached, long, short, data⟩
  · exact ⟨none, by simp only [readAttachment, plain, Bool.and_false, Bool.false_eq_true, if_false], rfl, by rw [plain]; rfl⟩
  · have usable : ¬ (o.attLen = 0 ∨ Config.maxAttachment < o.attLen) := by omega
    exact ⟨some area, by simp only [readAttachment, attached, Bool.and_true, if_true, if_neg usable, data], rfl,
      by rw [attached]; rfl⟩

/-- The verdict on an order that the gate, its source and the office let through, whatever its attachment read as (R43). -/
theorem Takeable.verdict_read {s : State} {o : OrderHdr} {src : Source} {tag : Tag} (takeable : Takeable s o.slot src tag)
    {r : OrderRule} {att : Option (List Byte)} (read : readAttachment r.attaches o = .ok att) (permitted : r.permitted src = true)
    (owner : Option (List Byte) → State → Verdict) : verdictOf r o src owner s = owner att s := by
  simp only [verdictOf, takeable.gate, read, permitted, takeable.office, Bool.false_and, Bool.not_true, Bool.false_eq_true, if_false]

theorem issueVerdict_accepts {s : State} {o : OrderHdr} {tag : Tag} {b : IssueBody} {att : Option (List Byte)} {w : Window}
    {f : IssueFields} {items : List Text} {l : Lane} {fig : Figures} {buf : Buffer} (opened : s.till[w].state = .opened)
    (fields : issueFields b = some f) (persons : 1 ≤ f.na + f.nc) (text : textItems b.items (att.getD b.area) = some items)
    (lane : resolveLane s.till[w] f.choice = some l) (ready : issuable s.lanes[l] = true)
    (loaded : loadedKind s.stock.mags[l] f.kind = true) (figures : issueFigures s f = some fig) (room : issueRoom s = true)
    (buffer : pickBuffer s l = some buf) :
    issueVerdict o tag b att w s = .accept (applyIssue o tag w l f fig items buf) none := by
  have some_person : ¬ (f.na + f.nc = 0) := by omega
  have ready : issuable (s.lane l) = true := ready
  have loaded : loadedKind (s.mag l) f.kind = true := loaded
  simp only [issueVerdict, opened, fields, issueFormVerdict, if_neg some_person, text, issueLaneVerdict, lane, ready, loaded, figures,
    room, buffer, Bool.not_true, Bool.false_eq_true, if_false]

/-- The state in which the job of an ISSUE joins its lane (R60). -/
def issued (w : Window) (f : IssueFields) (fig : Figures) (items : List Text) (buf : Buffer) (s : State) : State :=
  ((reserve s).setImage buf (some (compose (imageData s w f fig items) s.issue.layouts[f.layout]))).onDrawer w Drawer.liveUp

theorem issued_eq (w : Window) (f : IssueFields) (fig : Figures) (items : List Text) (buf : Buffer) (s : State) :
    issued w f fig items buf s = { s with
      issue := { s.issue with
        table := if s.issue.table.length + s.issue.reserved < Config.tableRoom then s.issue.table
          else s.issue.table.eraseP fun e => decide (s.till[e.window].state = .none ∨ s.till[e.window].shift ≠ e.shift)
        reserved := s.issue.reserved + 1 }
      images := s.images.upd buf fun _ => some (compose (imageData s w f fig items) s.issue.layouts[f.layout])
      till := s.till.upd w Drawer.liveUp } := by
  rw [issued, reserve_eq]
  rfl

/-- The changes of an ISSUE, under another exchange and host memory. -/
theorem applyIssue_under (o : OrderHdr) (tag : Tag) (w : Window) (l : Lane) (f : IssueFields) (fig : Figures) (items : List Text)
    (buf : Buffer) (s : State) (x : ExchangeController) (h : HostMem) :
    applyIssue o tag w l f fig items buf { s with exch := x, host := h } =
      { joinLane l (newJob o tag w s.till[w].shift l f fig buf) (issued w f fig items buf s) with exch := x, host := h } :=
  (Inward.joinLane l _).under (issued w f fig items buf s) x h

/-- Settles O4: the changes of the take neither see nor change the exchange, so `Offers.begun` gives what it leaves. -/
theorem issueTaken : Obligations.IssueTaken := by
  intro s o b w tag f area items l fig buf takeable read opened fields persons text choice state mag figures room buffer
  obtain ⟨att, reads, own, copied⟩ := readAttachment_of read
  obtain ⟨m, loaded, kind⟩ := mag
  have verdict : verdictOf issueRule o w.castSucc (fun att s => forWindow w.castSucc fun w => issueVerdict o tag b att w s) s =
      .accept (applyIssue o tag w l f fig items buf) none :=
    (takeable.verdict_read reads (decide_eq_true w.isLt) _).trans ((forWindow_window w _).trans
      (issueVerdict_accepts opened fields persons (by rw [own]; exact text) (resolveLane_of choice) (decide_eq_true state)
        (by rw [loaded]; exact decide_eq_true kind) figures ((issueRoom_iff s).2 room) buffer))
  obtain ⟨t, taken, is, begun⟩ := takeable.begun (b := .issue b)
    (owner := fun src tag att s => forWindow src fun w => issueVerdict o tag b att w s)
    (g := joinLane l (newJob o tag w s.till[w].shift l f fig buf) (issued w f fig items buf s)) verdict
    (fun x h => applyIssue_under o tag w l f fig items buf s x h) ((Inward.joinLane l _).journal _)
  refine ⟨t, _, congrArg _ taken, rfl, ?_, begun.nothing, begun.taken, begun.kept, begun.others, begun.slot, begun.mark, ?_,
    begun.snapshot⟩
  · rw [issued_eq] at is
    exact is
  · refine begun.context.trans ?_
    rw [← copied, orderCopy, show issueRule.attaches = true from rfl, reads]
    rfl

/-! ### STATUS READ (R49) -/

theorem snapshot_lane (s : State) (l : Lane) : (snapshot s).lanes[l] = laneSnap s l := Vector.getElem_ofFn ..

theorem snapshot_kind (s : State) (k : StockKind) : (snapshot s).kinds[k] = kindSnap s k := Vector.getElem_ofFn ..

theorem snapshot_drawer (s : State) (w : Window) : (snapshot s).drawers[w] = drawerSnap s.till[w] := Vector.getElem_map ..

theorem snapshot_reserved (s : State) (l : Lane) : (snapshot s).freeReserved[l] = freeAmong s (reservedPair l) :=
  Vector.getElem_ofFn ..

/-- The reserved pair of a lane, by the buffers' numbers (R86). -/
theorem reservedPair_eq : ∀ l : Lane, reservedPair l =
    (List.finRange 48).filter fun b => decide (b.val = 32 + 2 * l.val ∨ b.val = 33 + 2 * l.val) := by decide

theorem freeAmong_filter (s : State) (p : Buffer → Bool) :
    freeAmong s ((List.finRange 48).filter p) = (List.finRange 48).countP fun b => p b && s.images[b].isNone := by
  rw [freeAmong, List.countP_filter]
  exact List.countP_congr fun b _ => by rw [State.bufferFree, Bool.and_comm]

/-- What is reported does not depend on the slots, the contexts and the tags. -/
theorem snapshot_outward (s : State) (x : ExchangeController) (h : HostMem) (state : x.state = s.exch.state) :
    snapshot { s with exch := x, host := h } = snapshot s := by
  simp only [snapshot, state]
  rfl

/-- The snapshot written while the exchange runs (R49). -/
def snapped (dest : BitVec 64) (len : Nat) (d : Snapshot) (h : HostMem) : HostMem :=
  { h with snapshot := if len = 0 then h.snapshot else some ⟨dest, min len 1024, d⟩ }

theorem writeSnapshot_eq {s : State} (quiet : s.host.busIn = none) (dest : BitVec 64) (len : Nat) :
    writeSnapshot dest len s = s.onHost (snapped dest len (snapshot s)) := by
  have zero : snapshotLen len = 0 ↔ len = 0 := by
    show min len 1024 = 0 ↔ _
    omega
  unfold writeSnapshot snapped
  by_cases nothing : len = 0
  · rw [if_pos (zero.2 nothing)]
    simp only [if_pos nothing]
    rfl
  · rw [if_neg (mt zero.1 nothing), access_quiet quiet]
    simp only [if_neg nothing, if_true]
    rfl

/-- Settles O12: the take writes the snapshot of the state at the offer, and answers. -/
theorem statusReadDone : Obligations.StatusReadDone := by
  intro s o dest len src tag offers
  have verdict : verdictOf statusReadRule o src (fun _ _ => .accept (writeSnapshot dest len) (some (statusReply len))) s =
      .accept (writeSnapshot dest len) (some (statusReply len)) := by
    simp only [verdictOf, statusReadRule, readAttachment, Bool.not_true, Bool.and_false, Bool.false_and, Bool.false_eq_true, if_false]
  obtain ⟨k, taken⟩ : ∃ k, takenState s statusReadRule o (.statusRead dest len) src = k := ⟨_, rfl⟩
  obtain ⟨x, h, frame, quiet⟩ := takenState_frame s statusReadRule o (.statusRead dest len) src
  have same := takenState_sameJournal s statusReadRule o (.statusRead dest len) src
  obtain ⟨others, tags, kept⟩ := takenState_kept s statusReadRule o (.statusRead dest len) src
  have posted : ∀ j, j ≠ o.slot → _ := fun j => taken_posted s statusReadRule o (.statusRead dest len) src
  have snap : (takenState s statusReadRule o (.statusRead dest len) src).host.snapshot = s.host.snapshot := rfl
  rw [taken] at frame same others tags kept posted snap
  have quiet : k.host.busIn = none := by rw [frame]; exact quiet.trans offers.quiet
  have running : k.exch.state = .running := same.state.trans offers.running
  have data : snapshot k = snapshot s := by
    have state := same.state
    rw [frame] at state ⊢
    exact snapshot_outward s x h state
  have applied := writeSnapshot_eq quiet dest len
  have clock : k.office.clock = s.office.clock := by rw [frame]
  have reply : statusReply len (k.onHost (snapped dest len (snapshot k))) = (.done, .status 1024 (min len 1024)) := by
    simp only [statusReply, State.onHost_exch, running, if_true]
    rfl
  obtain ⟨srcs, served⟩ := takeOrder_done (j := o.slot) (b := .statusRead dest len)
    (owner := fun _ _ _ _ => .accept (writeSnapshot dest len) (some (statusReply len))) offers verdict
    (by rw [taken, applied]; exact quiet) (by rw [taken, applied]; exact running) (fun _ => written_unposted _ _ _)
  simp only [taken, applied, State.onHost_office, reply, clock] at served
  obtain ⟨t, runs⟩ : ∃ t, takeOrder statusReadRule o (.statusRead dest len) Env.quiet
    (fun _ _ _ _ => .accept (writeSnapshot dest len) (some (statusReply len))) s = t := ⟨_, rfl⟩
  rw [runs] at served
  have left : t = { s with exch := t.exch, host := t.host } := by
    refine served.rest.trans ?_
    rw [written_frame, frame]
    rfl
  refine ⟨t, snapshot s, congrArg _ runs, left, ?_, ⟨rfl, rfl, rfl, offers.running, rfl⟩, fun l => ?_,
    ⟨freeAmong_filter s _, rfl, rfl, rfl, rfl⟩, fun w => snapshot_drawer s w, fun k => ?_, rfl, ⟨?_, ?_, ?_⟩, served.answeredSlot,
    ⟨?_, fun v other => ?_⟩, served.otherSlots fun j other => ?_, ?_⟩
  · refine served.snapshot.trans ?_
    show (snapped dest len (snapshot k) k.host).snapshot = _
    rw [snapped, data, snap]
  · rw [snapshot_lane, snapshot_reserved, reservedPair_eq, freeAmong_filter]
    refine ⟨rfl, rfl, rfl, rfl, rfl, rfl, fun none => ?_, fun a active => ?_, fun none => ?_, fun m loaded => ?_, rfl⟩
    · show faultSnap _ = _
      rw [faultSnap, none]
    · show faultSnap _ = _
      rw [faultSnap, active]
    · show (Option.map Loaded.remaining s.stock.mags[l]).getD 0 = _
      rw [none]
      rfl
    · show (Option.map Loaded.remaining s.stock.mags[l]).getD 0 = _
      rw [loaded]
      rfl
  · rw [snapshot_kind]
    exact ⟨rfl, rfl, rfl, rfl, rfl, rfl⟩
  · rw [left]; rfl
  · exact served.ring.trans same.ring
  · exact served.alerts.trans same.alerts
  · rw [served.tags]; exact tags.tag
  · rw [served.tags]; exact tags.tags v other
  · have other : j ≠ o.slot := fun same => other (List.mem_singleton.2 same)
    obtain ⟨keptSlot, read⟩ := written_kept other ⟨.done, statusReadRule.code, tag, s.office.clock, .status 1024 (min len 1024)⟩
      (k.onHost (snapped dest len (snapshot k)))
    exact ⟨(others j other).trans ⟨keptSlot.slot, keptSlot.mark, keptSlot.context⟩, read.trans (posted j other)⟩
  · exact kept.trans ((written_exchangeKept o.slot _ (k.onHost (snapped dest len (snapshot k)))).trans served.kept)

end Sys2Proof.Machine
end

section
/-! The orders of the supervisor that are refused (R9 to R13, R24, R27, R62, R76, R80, R142, R171, R172): each owner's verdict by
the first check of its list that fails. -/

namespace Sys2Proof.Machine

/-! ### Refusals at a take (R43) -/

/-- An order that its owner refuses is answered so, and nothing else changes. -/
theorem Offers.refused {r : OrderRule} {o : OrderHdr} {b : OrderBody} {owner : Source → Tag → Option (List Byte) → State → Verdict}
    {s : State} {src : Source} {tag : Tag} {oc : OrderOutcome} {c : Instr} (offers : Offers s o.slot src tag)
    (runs : exec c s = .next (takeOrder r o b Env.quiet owner s)) (verdict : verdictOf r o src (owner src tag) s = .refuse oc) :
    Refused s c o r.code src tag oc := by
  obtain ⟨srcs, served⟩ := takeOrder_refused (b := b) none offers verdict
  have served : Served srcs o.slot _ (takeOrder r o b Env.quiet owner s) := served
  obtain ⟨x, h, frame⟩ : ∃ x h, refusedState s r o b src = { s with exch := x, host := h } := ⟨_, _, rfl⟩
  have context : ∀ j, j ≠ o.slot → (refusedState s r o b src).exch.contexts[j] = s.exch.contexts[j] := fun j other =>
    Table.upd_ne _ _ _ _ other
  have same : (refusedState s r o b src).host = s.host ∧ (refusedState s r o b src).exch.marks = s.exch.marks ∧
      (refusedState s r o b src).exch.sweep = s.exch.sweep ∧ (refusedState s r o b src).exch.alerts = s.exch.alerts :=
    ⟨rfl, rfl, rfl, rfl⟩
  have tags : TagTaken s (refusedState s r o b src) src :=
    ⟨Table.upd_same _ _ _, fun v other => Table.upd_ne _ _ _ _ other⟩
  have kept : ExchangeKept s.exch (refusedState s r o b src).exch := ⟨by constructor <;> rfl, rfl, rfl, rfl⟩
  generalize takeOrder r o b Env.quiet owner s = t at served runs
  generalize refusedState s r o b src = u at *
  obtain ⟨host, marks, sweep, alerts⟩ := same
  have left : t = { s with exch := t.exch, host := t.host } := by
    refine served.rest.trans ?_
    rw [written_frame, frame]
  refine ⟨t, runs, left, ⟨?_, ?_, ?_⟩, served.answers (fun j other => ⟨⟨?_, ?_, context j other⟩, ?_⟩) tags kept ?_⟩
  · rw [left]
    rfl
  · exact served.ring.trans (show u.host.journal = s.host.journal by rw [host])
  · exact served.alerts.trans alerts
  · rw [host]
  · rw [marks]
  · unfold postedHeader
    rw [context j other, sweep]
  · rw [host]

theorem firstRefusal_cons_some {c : Bool} {out oc : OrderOutcome} {rest : List (Bool × OrderOutcome)} :
    firstRefusal ((c, out) :: rest) = some oc ↔ c = true ∧ out = oc ∨ c = false ∧ firstRefusal rest = some oc := by
  cases c <;> simp [firstRefusal]

theorem firstRefusal_nil_some {oc : OrderOutcome} : firstRefusal [] = some oc ↔ False := by simp [firstRefusal]

theorem firstRefusal_cons (c : Bool) (out : OrderOutcome) (rest : List (Bool × OrderOutcome)) :
    firstRefusal ((c, out) :: rest) = if c = true then some out else firstRefusal rest := by
  cases c <;> rfl

theorem firstRefusal_nil : firstRefusal [] = none := rfl

theorem any_congr {α : Type} {p q : α → Bool} {as : List α} (h : ∀ a ∈ as, p a = q a) : as.any p = as.any q := by
  rw [Bool.eq_iff_iff, List.any_eq_true, List.any_eq_true]
  exact exists_congr fun a => and_congr_right fun mem => by rw [h a mem]

/-! ### Orders of the Stock Register (R9 to R13) -/

theorem rangeOk_iff {first count : Nat} :
    rangeOk first count = true ↔ 1 ≤ count ∧ count ≤ 100000 ∧ first + count - 1 ≤ 99999999 := decide_eq_true_iff

theorem stockReceiveVerdict_range {s : State} {kind first count : Nat}
    (bad : ¬ (kind < 4 ∧ 1 ≤ count ∧ count ≤ 100000 ∧ first + count - 1 ≤ 99999999)) :
    stockReceiveVerdict kind first count s = .refuse .outOfRange := by
  rcases Nat.lt_or_ge kind 4 with low | high
  · have range : ¬ (rangeOk first count = true) := fun ok => bad ⟨low, rangeOk_iff.1 ok⟩
    have found : toIdx 4 kind = some ⟨kind, low⟩ := toIdx_eq_some.2 rfl
    simp only [stockReceiveVerdict, found, if_neg range]
  · simp only [stockReceiveVerdict, toIdx_eq_none.2 high]

theorem receiveVerdict_refuses {s : State} {k : StockKind} {first count : Nat} {oc : OrderOutcome}
    (fails : firstRefusal [
      (overlaps s k first count, .overlap),
      (decide (4294967295 < s.stock.counters[k].received + count), .countLimit),
      ((mergeRun k first count s.stock.runs).isNone, .runTableFull)] = some oc) : receiveVerdict k first count s = .refuse oc := by
  simp only [firstRefusal_cons_some, firstRefusal_nil_some, and_false, or_false, decide_eq_true_eq, decide_eq_false_iff_not] at fails
  rcases fails with ⟨overlap, rfl⟩ | ⟨apart, ⟨limit, rfl⟩ | ⟨room, full, rfl⟩⟩
  · simp only [receiveVerdict, overlap, if_true]
  · have limit : Config.max32 < s.stock.counters[k].received + count := limit
    simp only [receiveVerdict, apart, Bool.false_eq_true, if_false, if_pos limit]
  · have room : ¬ Config.max32 < s.stock.counters[k].received + count := room
    simp only [receiveVerdict, apart, Bool.false_eq_true, if_false, if_neg room, Option.isNone_iff_eq_none.1 full]

theorem magazineLoadVerdict_range {s : State} {lane kind first count : Nat}
    (bad : ¬ (lane < 8 ∧ kind < 4 ∧ 1 ≤ count ∧ count ≤ 100000 ∧ first + count - 1 ≤ 99999999)) :
    magazineLoadVerdict lane kind first count s = .refuse .outOfRange := by
  unfold magazineLoadVerdict
  split
  next l k lane' kind' =>
    rw [toIdx_eq_some] at lane' kind'
    exact if_neg fun ok => bad ⟨by omega, by omega, rangeOk_iff.1 ok⟩
  · rfl

theorem loadable_iff (r : LaneRec) : loadable r = true ↔
    r.state = .off ∨ r.state = .parked .supervisor ∨ r.state = .parked .day ∨ r.state = .ready ∧ r.out = [] := by
  unfold loadable
  rcases r.state with _ | _ | _ | _ | _ | ⟨_ | _⟩ <;> simp

theorem loadVerdict_refuses {s : State} {l : Lane} {k : StockKind} {first count : Nat} {oc : OrderOutcome}
    (fails : firstRefusal [
      (decide (¬ (s.lanes[l].state = .off ∨ s.lanes[l].state = .parked .supervisor ∨ s.lanes[l].state = .parked .day ∨
        s.lanes[l].state = .ready ∧ s.lanes[l].out = [])), .laneBusy),
      (s.stock.mags[l].isSome, .magazineLoaded),
      (s.lanes[l].queue.any fun j => decide (j.kind ≠ k), .wrongStock),
      (s.stock.runs.all fun r => !decide (r.kind = k ∧ r.first ≤ first ∧ first + count ≤ r.first + r.count), .notInStock),
      ((s.stock.runs.find? fun r => decide (r.kind = k ∧ r.first ≤ first ∧ first + count ≤ r.first + r.count)).any fun r =>
        decide (r.first < first ∧ first + count < r.first + r.count ∧ 32 ≤ s.stock.runs.length), .runTableFull)] = some oc) :
    loadVerdict l k first count s = .refuse oc := by
  have found : (s.stock.runs.find? fun r => decide (r.kind = k ∧ r.first ≤ first ∧ first + count ≤ r.first + r.count)) =
      runHolding k first count s.stock.runs := rfl
  rw [found] at fails
  simp only [firstRefusal_cons_some, firstRefusal_nil_some, and_false, or_false, decide_eq_true_eq, decide_eq_false_iff_not,
    ← loadable_iff, Bool.not_eq_true, Option.any_eq_true] at fails
  have lane : s.lane l = s.lanes[l] := rfl
  have mag : s.mag l = s.stock.mags[l] := rfl
  unfold loadVerdict
  rw [lane, mag]
  rcases fails with ⟨busy, rfl⟩ | ⟨free, ⟨loaded, rfl⟩ | ⟨empty, ⟨wrong, rfl⟩ | ⟨right, ⟨missing, rfl⟩ | ⟨held, ⟨r, is, low, high, many⟩, rfl⟩⟩⟩⟩
  · simp only [busy, Bool.not_false, if_true]
  · simp only [free, loaded, Bool.not_true, Bool.false_eq_true, if_false, if_true]
  · simp only [free, empty, wrong, Bool.not_true, Bool.false_eq_true, if_false, if_true]
  · have none : runHolding k first count s.stock.runs = none := List.find?_eq_none.2 fun r mem holds => by
      have apart := List.all_eq_true.1 missing r mem
      rw [Bool.not_eq_true'] at apart
      exact Bool.false_ne_true (apart.symm.trans holds)
    simp only [free, empty, right, none, Bool.not_true, Bool.false_eq_true, if_false]
  · have splits : r.splits first count ∧ Config.maxRuns ≤ s.stock.runs.length := ⟨decide_eq_true ⟨low, high⟩, many⟩
    simp only [free, empty, right, is, Bool.not_true, Bool.false_eq_true, if_false, if_pos splits]

theorem unloadVerdict_refuses {s : State} {l : Lane} {oc : OrderOutcome}
    (fails : firstRefusal [
      (decide (s.lanes[l].out ≠ []) || s.stock.doubts.any fun d => decide (d.lane = l), .laneBusy),
      (s.stock.mags[l].isNone, .notPermitted),
      (s.stock.mags[l].any fun m => decide (m.next ≤ m.last) &&
        (mergeRun m.kind m.next (m.last + 1 - m.next) s.stock.runs).isNone, .runTableFull)] = some oc) :
    unloadVerdict l s = .refuse oc := by
  have busy : (!(s.lane l).out.isEmpty || doubtful s l) =
      (decide (s.lanes[l].out ≠ []) || s.stock.doubts.any fun d => decide (d.lane = l)) := by
    rw [State.lane, doubtful]
    cases s.lanes[l].out <;> rfl
  have mag : s.mag l = s.stock.mags[l] := rfl
  unfold unloadVerdict
  rw [busy, mag]
  simp only [firstRefusal_cons_some, firstRefusal_nil_some, and_false, or_false, Option.any_eq_true, Bool.and_eq_true,
    decide_eq_true_eq] at fails
  rcases fails with ⟨busy, rfl⟩ | ⟨free, ⟨empty, rfl⟩ | ⟨-, ⟨m, loaded, some_left, full⟩, rfl⟩⟩
  · simp only [busy, if_true]
  · simp only [free, Option.isNone_iff_eq_none.1 empty, Bool.false_eq_true, if_false]
  · have left : ¬ (m.remaining = 0) := by
      show ¬ (m.last + 1 - m.next = 0)
      omega
    have none : returnedRuns m s.stock.runs = none := (if_neg left).trans (Option.isNone_iff_eq_none.1 full)
    simp only [free, loaded, none, Bool.false_eq_true, if_false]

/-- What it means that the part already holds a serial of a received run (R9). -/
theorem overlaps_iff {s : State} {k : StockKind} {first count : Nat} (some_blank : 1 ≤ count) :
    overlaps s k first count = true ↔ ∃ n, first ≤ n ∧ n < first + count ∧
      (Holds s.stock.runs k n ∨
        (∃ (l : Lane) (m : Loaded), s.stock.mags[l] = some m ∧ m.kind = k ∧ m.next ≤ n ∧ n ≤ m.last) ∨
        (∃ l : Lane, ∃ j ∈ s.lanes[l].out, j.kind = k ∧ j.serial = some n) ∨
        (∃ d ∈ s.stock.doubts, d.kind = k ∧ d.serial = n) ∨ ∃ e ∈ s.issue.table, e.kind = k ∧ e.serial = n) := by
  have ranges : ∀ g d : Nat, meets first count g d = true ↔ ∃ n, first ≤ n ∧ n < first + count ∧ g ≤ n ∧ n < g + d := fun g d => by
    rw [meets, decide_eq_true_eq]
    refine ⟨fun h => ⟨max first g, by omega⟩, fun ⟨n, h⟩ => by omega⟩
  have serial : ∀ g : Nat, meets first count g 1 = true ↔ first ≤ g ∧ g < first + count := fun g => by
    rw [meets, decide_eq_true_eq]
    omega
  simp only [overlaps, Bool.or_eq_true, List.any_eq_true, Option.any_eq_true, Bool.and_eq_true, decide_eq_true_eq, serial,
    List.mem_finRange, true_and, Loaded.remaining, State.mag, State.lane]
  simp only [ranges]
  constructor
  · rintro ((((⟨r, mem, kind, n, low, high, bound⟩ | ⟨l, m, mag, kind, n, low, high, bound⟩) | ⟨l, j, mem, kind, n, is, low, high⟩) |
      ⟨d, mem, kind, low, high⟩) | ⟨e, mem, kind, low, high⟩)
    · exact ⟨n, low, high, .inl ⟨r, mem, kind, bound⟩⟩
    · exact ⟨n, low, high, .inr (.inl ⟨l, m, mag, kind, by omega, by omega⟩)⟩
    · exact ⟨n, low, high, .inr (.inr (.inl ⟨l, j, mem, kind, is⟩))⟩
    · exact ⟨d.serial, low, high, .inr (.inr (.inr (.inl ⟨d, mem, kind, rfl⟩)))⟩
    · exact ⟨e.serial, low, high, .inr (.inr (.inr (.inr ⟨e, mem, kind, rfl⟩)))⟩
  · rintro ⟨n, low, high, ⟨r, mem, kind, bound⟩ | ⟨l, m, mag, kind, next, last⟩ | ⟨l, j, mem, kind, is⟩ | ⟨d, mem, kind, rfl⟩ |
      ⟨e, mem, kind, rfl⟩⟩
    · exact .inl (.inl (.inl (.inl ⟨r, mem, kind, n, low, high, bound⟩)))
    · exact .inl (.inl (.inl (.inr ⟨l, m, mag, kind, n, low, high, next, by omega⟩)))
    · exact .inl (.inl (.inr ⟨l, j, mem, kind, n, is, low, high⟩))
    · exact .inl (.inr ⟨d, mem, kind, low, high⟩)
    · exact .inr ⟨e, mem, kind, low, high⟩

/-! ### Orders of the lanes (R76, R80) -/

theorem startVerdict_refuses {s : State} {l : Lane} {oc : OrderOutcome}
    (fails : firstRefusal [
      (decide (s.lanes[l].state = .starting), .busy),
      (decide (s.lanes[l].state = .ready ∨ s.lanes[l].state = .printing ∨ s.lanes[l].state = .holding), .notPermitted)] = some oc) :
    startVerdict l s = .refuse oc := by
  simp only [firstRefusal_cons_some, firstRefusal_nil_some, and_false, or_false, decide_eq_true_eq] at fails
  unfold startVerdict
  rw [State.lane]
  rcases fails with ⟨starting, rfl⟩ | ⟨-, ready | printing | holding, rfl⟩
  · simp only [starting]
  · simp only [ready]
  · simp only [printing]
  · simp only [holding]

theorem laneHolds_eq (s : State) (l : Lane) : laneHolds s l =
    (decide (s.lanes[l].queue ≠ [] ∨ s.lanes[l].out ≠ []) || s.stock.doubts.any fun d => decide (d.lane = l)) := by
  rw [laneHolds, State.lane, doubtful]
  cases s.lanes[l].queue <;> cases s.lanes[l].out <;> rfl

theorem parkVerdict_refuses {s : State} {l : Lane} {oc : OrderOutcome}
    (fails : firstRefusal [
      (decide (s.lanes[l].state = .starting ∨ s.lanes[l].state = .printing), .laneBusy),
      (decide (s.lanes[l].state = .off ∨ s.lanes[l].state = .ready ∨ s.lanes[l].state = .holding) &&
        (decide (s.lanes[l].queue ≠ [] ∨ s.lanes[l].out ≠ []) || s.stock.doubts.any fun d => decide (d.lane = l)),
        .laneBusy)] = some oc) : parkVerdict l s = .refuse oc := by
  rw [← laneHolds_eq] at fails
  simp only [firstRefusal_cons_some, firstRefusal_nil_some, and_false, or_false, Bool.and_eq_true, decide_eq_true_eq] at fails
  unfold parkVerdict
  rw [State.lane]
  rcases fails with ⟨starting | printing, rfl⟩ | ⟨-, ⟨off | ready | holding, holds⟩, rfl⟩
  · simp only [starting]
  · simp only [printing]
  · simp only [off, holds, if_true]
  · simp only [ready, holds, if_true]
  · simp only [holding, holds, if_true]

/-! ### Orders of the Fare Unit (R24, R27) -/

theorem discountRefusal_eq (rs : List DiscountRec) : discountRefusal rs = firstRefusal [
    (rs.any fun r => decide (15 < r.index), .outOfRange),
    (rs.any fun r => decide (r.index = 0), .notPermitted),
    (!decide (rs.map DiscountRec.index).Nodup, .badForm),
    (rs.any fun r => !decide (r.step = 1 ∨ r.step = 5 ∨ r.step = 10 ∨ r.step = 50), .badForm),
    (rs.any fun r => decide (99999 < r.min), .outOfRange)] := by
  have steps : (rs.any fun r => !stepOk r.step) = rs.any fun r => !decide (r.step = 1 ∨ r.step = 5 ∨ r.step = 10 ∨ r.step = 50) :=
    any_congr fun r _ => by
      rw [stepOk, Bool.not_inj_iff, Bool.eq_iff_iff, List.contains_iff_mem, decide_eq_true_eq]
      simp only [List.mem_cons, List.not_mem_nil, or_false]
  simp only [firstRefusal_cons, firstRefusal_nil, Bool.not_eq_true', decide_eq_false_iff_not, discountRefusal, ← steps]
  rfl

theorem setDiscountsVerdict_refuses {count : Nat} {att : Option (List Byte)} {bs : List Byte} {oc : OrderOutcome}
    (read : att = none ∨ att = some bs)
    (fails : firstRefusal [
      (att.all fun bs => !decide (1 ≤ count ∧ count ≤ 15 ∧ 24 * count ≤ bs.length), .badForm),
      ((discountRecs count bs).any fun r => decide (15 < r.index), .outOfRange),
      ((discountRecs count bs).any fun r => decide (r.index = 0), .notPermitted),
      (!decide ((discountRecs count bs).map DiscountRec.index).Nodup, .badForm),
      ((discountRecs count bs).any fun r => !decide (r.step = 1 ∨ r.step = 5 ∨ r.step = 10 ∨ r.step = 50), .badForm),
      ((discountRecs count bs).any fun r => decide (99999 < r.min), .outOfRange)] = some oc) :
    setDiscountsVerdict count att = .refuse oc := by
  rw [firstRefusal_cons_some, ← discountRefusal_eq] at fails
  rcases read with rfl | rfl
  · obtain ⟨-, rfl⟩ | ⟨present, -⟩ := fails
    · rfl
    · exact nomatch present
  · simp only [Option.all_some, Bool.not_eq_true', Bool.not_eq_false', decide_eq_true_eq, decide_eq_false_iff_not] at fails
    unfold setDiscountsVerdict
    obtain ⟨bad, rfl⟩ | ⟨good, refused⟩ := fails
    · exact if_neg bad
    · simp only [if_pos good, refused]

theorem feeRefusal_eq (ps : List (Nat × Nat)) : feeRefusal ps = firstRefusal [
    (decide (ps.length = 0 ∨ 4 < ps.length), .badForm),
    (ps.any fun p => decide (3 < p.1 ∨ 99999 < p.2), .outOfRange),
    (!decide (ps.map Prod.fst).Nodup, .badForm),
    (ps.any fun p => decide (p.1 = 3 ∧ p.2 ≠ 0), .notPermitted)] := by
  have few : (¬ (1 ≤ ps.length ∧ ps.length ≤ 4)) = (ps.length = 0 ∨ 4 < ps.length) := propext (by omega)
  simp only [firstRefusal_cons, firstRefusal_nil, Bool.not_eq_true', decide_eq_false_iff_not, decide_eq_true_eq, feeRefusal, few]
  rfl

/-! ### SET LAYOUT (R62) -/

theorem fieldSource_isNone (c : Nat) : (fieldSource c).isNone = decide (21 < c) := by
  rcases Nat.lt_or_ge 21 c with high | low
  · have text : ¬ c < 12 := by omega
    rw [decide_eq_true high, fieldSource, dif_neg text]
    split <;> first | rfl | omega
  · interval_cases c <;> rfl

theorem layoutRecOk_not (r : LayoutRec) : (!layoutRecOk r) = decide (15 < r.row ∨ 63 < r.col ∨ r.width = 0 ∨ 40 < r.width ∨ 1 < r.size ∨
    r.size = 1 ∧ r.row = 15) := by
  rw [layoutRecOk, ← decide_not, decide_eq_decide]
  omega

theorem layoutRefusal_eq (index n : Nat) (bs : List Byte) : layoutRefusal index (layoutRecs n bs) = firstRefusal [
    (decide (15 < index), .outOfRange),
    (decide (index = 0), .notPermitted),
    (decide (n = 0 ∨ 24 < n), .badForm),
    ((layoutRecs n bs).any fun r => decide (21 < r.source), .badForm),
    ((layoutRecs n bs).any fun r => decide (15 < r.row ∨ 63 < r.col ∨ r.width = 0 ∨ 40 < r.width ∨ 1 < r.size ∨
      r.size = 1 ∧ r.row = 15), .outOfRange)] := by
  have few : (¬ (1 ≤ n ∧ n ≤ 24)) = (n = 0 ∨ 24 < n) := propext (by omega)
  simp only [firstRefusal_cons, firstRefusal_nil, decide_eq_true_eq, layoutRefusal, layoutRecs_length, few, fieldSource_isNone,
    layoutRecOk_not]

theorem setLayoutVerdict_refuses {index n : Nat} {att : Option (List Byte)} {bs : List Byte} {oc : OrderOutcome}
    (read : att = none ∨ att = some bs) (fields : n = (byteAt bs 0).toNat)
    (fails : firstRefusal [
      (att.all fun bs => decide (bs.length < 1 + 5 * n), .badForm),
      (decide (15 < index), .outOfRange),
      (decide (index = 0), .notPermitted),
      (decide (n = 0 ∨ 24 < n), .badForm),
      ((layoutRecs n bs).any fun r => decide (21 < r.source), .badForm),
      ((layoutRecs n bs).any fun r => decide (15 < r.row ∨ 63 < r.col ∨ r.width = 0 ∨ 40 < r.width ∨ 1 < r.size ∨
        r.size = 1 ∧ r.row = 15), .outOfRange)] = some oc) : setLayoutVerdict index att = .refuse oc := by
  rw [firstRefusal_cons_some, ← layoutRefusal_eq] at fails
  rcases read with rfl | rfl
  · obtain ⟨-, rfl⟩ | ⟨present, -⟩ := fails
    · rfl
    · exact nomatch present
  · simp only [Option.all_some, decide_eq_true_eq, decide_eq_false_iff_not] at fails
    unfold setLayoutVerdict
    subst fields
    obtain ⟨short, rfl⟩ | ⟨long, refused⟩ := fails
    · exact if_pos short
    · simp only [if_neg long, refused]

/-! ### FAULT CLEAR (R142) -/

theorem clearRanges_not (b : ClearBody) : (!clearRanges b) =
    ((b.decls.any fun d => decide (99999999 < d.serial ∨ d.outcome = none)) || b.realign.any fun r => decide (100000000 < r)) := by
  have serials : (b.decls.all fun d => decide (d.serial ≤ Config.maxSerial) && d.outcome.isSome) =
      !b.decls.any fun d => decide (99999999 < d.serial ∨ d.outcome = none) := by
    rw [List.not_any_eq_all_not]
    congr 1
    funext d
    rw [Bool.eq_iff_iff]
    simp only [Bool.and_eq_true, decide_eq_true_eq, Bool.not_eq_true', decide_eq_false_iff_not, not_or, Nat.not_lt,
      Option.isSome_iff_ne_none]
    rfl
  have realign : (b.realign.all fun r => decide (r ≤ Config.maxSerial + 1)) = !b.realign.any fun r => decide (100000000 < r) := by
    rcases b.realign with _ | r
    · rfl
    · simp only [Option.all_some, Option.any_some, ← decide_not, Nat.not_lt]
      rfl
  rw [clearRanges, serials, realign, ← Bool.not_or, Bool.not_not]

theorem doubtOf_isNone (s : State) (l : Lane) (n : Nat) :
    (doubtOf s l n).isNone = s.stock.doubts.all fun e => !decide (e.lane = l ∧ e.serial = n) := by
  rw [doubtOf, Bool.eq_iff_iff, Option.isNone_iff_eq_none, List.find?_eq_none, List.all_eq_true]
  exact forall₂_congr fun e _ => by rw [Bool.not_eq_true, Bool.not_eq_true']

theorem declaresAll_not (s : State) (l : Lane) (ds : List Declaration) : (!declaresAll s l ds) =
    s.stock.doubts.any fun e => decide (e.lane = l) && ds.all fun d => decide (d.serial ≠ e.serial) := by
  rw [declaresAll, doubtsOf, List.all_filter, List.not_all_eq_any_not]
  refine any_congr fun e _ => ?_
  rw [Bool.not_or, Bool.not_not, List.not_any_eq_all_not]
  simp only [decide_not]

theorem clearVerdict_refuses {s : State} {l : Lane} {b : ClearBody} {oc : OrderOutcome}
    (fails : firstRefusal [
      (decide (4 < b.decls.length), .badForm),
      ((b.decls.any fun d => decide (99999999 < d.serial ∨ d.outcome = none)) || b.realign.any fun r => decide (100000000 < r),
        .outOfRange),
      (decide (s.lanes[l].state = .starting), .busy),
      (!decide (b.decls.map Declaration.serial).Nodup, .badForm),
      (b.decls.any fun d => s.stock.doubts.all fun e => !decide (e.lane = l ∧ e.serial = d.serial), .notFound),
      (b.realign.isSome && !b.resume, .badForm),
      (b.realign.isSome && decide (s.lanes[l].state = .ready ∨ s.lanes[l].state = .printing), .notPermitted),
      (b.realign.isSome && s.stock.doubts.any fun e =>
        decide (e.lane = l) && b.decls.all fun d => decide (d.serial ≠ e.serial), .badForm),
      (b.realign.any fun r => s.stock.mags[l].all fun m => !decide (m.next ≤ r ∧ r ≤ m.last + 1), .outOfRange)] = some oc)
    (lane : b.lane = l.val) : faultClearVerdict b s = .refuse oc := by
  simp only [← clearRanges_not, ← declaresAll_not, ← doubtOf_isNone] at fails
  have later : ∀ {out}, clearRefusal l b s = some out → clearVerdict l b s = .refuse out := fun h => by simp only [clearVerdict, h]
  simp only [faultClearVerdict, toIdx_eq_some.2 lane]
  rw [firstRefusal_cons_some, decide_eq_true_eq, decide_eq_false_iff_not, firstRefusal_cons_some, Bool.not_eq_true',
    Bool.not_eq_false'] at fails
  rcases fails with ⟨many, rfl⟩ | ⟨few, ⟨range, rfl⟩ | ⟨range, fails⟩⟩
  · exact if_pos many
  · rw [if_neg few, range]
    rfl
  · rw [if_neg few, range, if_pos rfl]
    refine later ?_
    rw [firstRefusal_cons, firstRefusal_cons, firstRefusal_cons] at fails
    simp only [decide_eq_true_eq, Bool.not_eq_true', decide_eq_false_iff_not] at fails
    rw [← fails, clearRefusal, State.lane]
    refine if_congr Iff.rfl rfl (if_congr Iff.rfl rfl (if_congr Iff.rfl rfl ?_))
    rcases b.realign with _ | r
    · rfl
    · show realignRefusal l b r s = _
      rw [realignRefusal]
      simp only [firstRefusal_cons, firstRefusal_nil, Option.isSome_some, Bool.true_and, Option.any_some, decide_eq_true_eq, State.lane,
        State.mag]
      refine if_congr Iff.rfl rfl (if_congr Iff.rfl rfl (if_congr Iff.rfl rfl ?_))
      rcases s.stock.mags[l] with _ | m
      · rfl
      · simp only [Option.all_some, Bool.not_eq_true', decide_eq_false_iff_not, ite_not]

/-! ### Orders of Office Control (R171, R172) -/

theorem dayCloseVerdict_refuses {s : State} (open_business : (∃ w : Window, s.till[w].state ≠ .none) ∨
    (∃ l : Lane, s.lanes[l].queue ≠ [] ∨ s.lanes[l].out ≠ []) ∨ s.stock.doubts ≠ []) : dayCloseVerdict s = .refuse .notPermitted := by
  refine if_pos ?_
  rw [Bool.or_eq_true, Bool.or_eq_true]
  rcases open_business with ⟨w, drawer⟩ | ⟨l, job⟩ | doubts
  · exact .inl (.inl (List.any_eq_true.2 ⟨s.till[w], Vector.mem_toList_iff.2 (Vector.getElem_mem _), decide_eq_true drawer⟩))
  · refine .inl (.inr (List.any_eq_true.2 ⟨s.lanes[l], Vector.mem_toList_iff.2 (Vector.getElem_mem _), ?_⟩))
    rw [Bool.or_eq_true, Bool.not_eq_true', Bool.not_eq_true', List.isEmpty_eq_false_iff, List.isEmpty_eq_false_iff]
    exact job
  · refine .inr ?_
    rw [Bool.not_eq_true', List.isEmpty_eq_false_iff]
    exact doubts

theorem officeOpenVerdict_refuses {s : State} {b : OpenBody} {oc : OrderOutcome}
    (fails : firstRefusal [
      (s.office.opened, .notPermitted),
      (decide (b.day = 0 ∨ 65535 < b.day ∨ 99999 < b.tolerance ∨ b.rate = none ∨ ∃ k : StockKind,
        b.kinds[k].name.length ≠ 12 ∨ b.kinds[k].pitch < 100 ∨ 4000 < b.kinds[k].pitch ∨ b.kinds[k].tol = 0 ∨
        b.kinds[k].pitch / 4 < b.kinds[k].tol), .outOfRange)] = some oc) : officeOpenVerdict b s = .refuse oc := by
  simp only [firstRefusal_cons_some, firstRefusal_nil_some, and_false, or_false, decide_eq_true_eq] at fails
  unfold officeOpenVerdict
  obtain ⟨opened, rfl⟩ | ⟨closed, range, rfl⟩ := fails
  · exact if_pos opened
  · rw [closed, if_neg Bool.false_ne_true]
    split
    · rfl
    next rate known =>
      refine if_neg fun ok => ?_
      rw [openBodyOk, Bool.and_eq_true, decide_eq_true_eq, List.all_eq_true] at ok
      obtain ⟨⟨day1, day2, tolerance⟩, kinds⟩ := ok
      have tolerance : b.tolerance ≤ 99999 := tolerance
      rcases range with none | high | much | none | ⟨k, bad⟩
      · omega
      · omega
      · omega
      · rw [none] at known
        exact nomatch known
      · obtain ⟨name, pitch⟩ := of_decide_eq_true (kinds b.kinds[k] (Vector.mem_toList_iff.2 (Vector.getElem_mem _)))
        rcases bad with wrong | low | high | zero | wide
        · exact wrong name
        all_goals omega

/-! ### The supervisor's orders -/

/-- A supervisor's order without an attachment that its owner refuses (R43). -/
theorem Takeable.supervisor_refused {r : OrderRule} {o : OrderHdr} {b : OrderBody} {verdict : State → Verdict} {s : State} {tag : Tag}
    {oc : OrderOutcome} {c : Instr} (takeable : Takeable s o.slot 12 tag) (attaches : r.attaches = false)
    (permitted : r.permitted 12 = true)
    (runs : exec c s = .next (takeOrder r o b Env.quiet (fun _ _ _ => verdict) s)) (refuses : verdict s = .refuse oc) :
    Refused s c o r.code 12 tag oc :=
  takeable.refused (owner := fun _ _ _ => verdict) runs ((takeable.verdict attaches permitted fun _ => verdict).trans refuses)

/-- The attachment that a take of SET DISCOUNTS or SET LAYOUT reads (R44). -/
theorem readAttachment_optional {o : OrderHdr} {att : Option (List Byte)} {bs : List Byte}
    (read : o.attached = false ∧ att = none ∨ o.attached = true ∧ 1 ≤ o.attLen ∧ o.attLen ≤ 1024 ∧ o.att = .data bs ∧ att = some bs) :
    readAttachment true o = .ok att ∧ (att = none ∨ att = some bs) := by
  rcases read with ⟨plain, rfl⟩ | ⟨attached, long, short, data, rfl⟩
  · exact ⟨by simp only [readAttachment, plain, Bool.and_false, Bool.false_eq_true, if_false], .inl rfl⟩
  · obtain ⟨att, reads, -, is⟩ := readAttachment_of (own := []) (.inr ⟨attached, long, short, data⟩)
    rw [attached, if_pos rfl] at is
    exact ⟨is ▸ reads, .inr rfl⟩

/-- Settles O13: each order's refusal by its owner's verdict; the overlap of a received run by `overlaps_iff`. -/
theorem supervisorRefusals : Obligations.SupervisorRefusals := by
  refine ⟨fun s o tag oc takeable => ⟨fun kind first count bad => ?_, fun k first count some_blank few last fails => ?_,
    fun lane kind first count bad => ?_, fun l k first count some_blank few last fails => ?_, fun lane high => ⟨?_, ?_, ?_⟩,
    fun l fails => ?_, fun l fails => ?_, fun l fails => ?_,
    fun att bs count index n read => ⟨fun fails => ?_, fun fields fails => ?_⟩, fun ps fails => ?_, fun b high is => ?_,
    fun b l lane fails => ?_, fun business => ?_⟩, fun s o tag oc b offers gate fails => ?_,
    fun s k first count some_blank => overlaps_iff some_blank⟩
  · exact takeable.supervisor_refused (r := stockReceiveRule) rfl rfl rfl (stockReceiveVerdict_range bad)
  · refine takeable.supervisor_refused (r := stockReceiveRule) rfl rfl rfl (Eq.trans ?_ (receiveVerdict_refuses fails))
    simp only [stockReceiveVerdict, toIdx_val, rangeOk_iff.2 ⟨some_blank, few, last⟩, if_true]
  · exact takeable.supervisor_refused (r := magazineLoadRule) rfl rfl rfl (magazineLoadVerdict_range bad)
  · refine takeable.supervisor_refused (r := magazineLoadRule) rfl rfl rfl (Eq.trans ?_ (loadVerdict_refuses fails))
    simp only [magazineLoadVerdict, toIdx_val, rangeOk_iff.2 ⟨some_blank, few, last⟩, if_true]
  · exact takeable.supervisor_refused (r := magazineUnloadRule) rfl rfl rfl (by simp only [magazineUnloadVerdict, toIdx_eq_none.2 high])
  · exact takeable.supervisor_refused (r := laneStartRule) rfl rfl rfl (by simp only [laneStartVerdict, toIdx_eq_none.2 high])
  · exact takeable.supervisor_refused (r := laneParkRule) rfl rfl rfl (by simp only [laneParkVerdict, toIdx_eq_none.2 high])
  · refine takeable.supervisor_refused (r := magazineUnloadRule) rfl rfl rfl (Eq.trans ?_ (unloadVerdict_refuses fails))
    simp only [magazineUnloadVerdict, toIdx_val]
  · refine takeable.supervisor_refused (r := laneStartRule) rfl rfl rfl (Eq.trans ?_ (startVerdict_refuses fails))
    simp only [laneStartVerdict, toIdx_val]
  · refine takeable.supervisor_refused (r := laneParkRule) rfl rfl rfl (Eq.trans ?_ (parkVerdict_refuses fails))
    simp only [laneParkVerdict, toIdx_val]
  · obtain ⟨reads, att⟩ := readAttachment_optional read
    exact takeable.refused (r := setDiscountsRule) (owner := fun _ _ att _ => setDiscountsVerdict count att) rfl
      ((takeable.verdict_read reads rfl fun att _ => setDiscountsVerdict count att).trans (setDiscountsVerdict_refuses att fails))
  · obtain ⟨reads, att⟩ := readAttachment_optional read
    exact takeable.refused (r := setLayoutRule) (owner := fun _ _ att _ => setLayoutVerdict index att) rfl
      ((takeable.verdict_read reads rfl fun att _ => setLayoutVerdict index att).trans (setLayoutVerdict_refuses att fields fails))
  · refine takeable.supervisor_refused (r := setRefundFeesRule) rfl rfl rfl ?_
    rw [← feeRefusal_eq] at fails
    simp only [setRefundFeesVerdict, fails]
  · refine takeable.supervisor_refused (r := faultClearRule) rfl rfl rfl ?_
    rw [faultClearVerdict, is, toIdx_eq_none.2 high]
    split <;> rfl
  · exact takeable.supervisor_refused (r := faultClearRule) rfl rfl rfl (clearVerdict_refuses fails lane)
  · exact takeable.supervisor_refused (r := dayCloseRule) rfl rfl rfl (dayCloseVerdict_refuses business)
  · refine offers.refused (r := officeOpenRule) (owner := fun _ _ _ => officeOpenVerdict b) rfl (Eq.trans ?_ (officeOpenVerdict_refuses fails))
    simp only [verdictOf, gate, readAttachment, officeOpenRule, Bool.false_and, Bool.not_true, Bool.and_false, Bool.false_eq_true,
      if_false]
    rfl

end Sys2Proof.Machine
end

section
/-! The orders of the windows that are refused (R55 to R59, R72, R73, R149, R154, R159), and an order that is not takeable now
(R42, R59). -/

namespace Sys2Proof.Machine

/-! ### An order that is not takeable now (R42) -/

/-- The offered slot is clear of the sources after its own. -/
theorem Offers.clear {s : State} {i : SlotNo} {src : Source} {tag : Tag} {w : Sweep} (offers : Offers s i src tag)
    (sweep : s.exch.sweep = some w) {srcs : List Source} (apart : src ∉ srcs) : Clear srcs i s := by
  obtain ⟨v, is, -, source, -⟩ := offers.offered
  obtain rfl : w = v := Option.some_inj.1 (sweep.symm.trans is)
  intro h posted u mem same
  unfold postedHeader at posted
  rw [sweep] at posted
  dsimp only at posted
  split at posted
  · cases posted
    rw [headerSource, source, toIdx_val, Option.some_inj] at same
    exact apart (same ▸ mem)
  · cases posted

/-- An order that is not takeable now stays POSTED, and the sources after its own are served. -/
theorem Offers.waits {r : OrderRule} {o : OrderHdr} {b : OrderBody} {owner : Source → Tag → Option (List Byte) → State → Verdict}
    {s : State} {src : Source} {tag : Tag} {w : Sweep} (offers : Offers s o.slot src tag)
    (verdict : verdictOf r o src (owner src tag) s = .wait) (sweep : s.exch.sweep = some w) (apart : src ∉ w.remaining.tail) :
    takeOrder r o b Env.quiet owner s = servePast s ∧ Served w.remaining.tail o.slot s (servePast s) := by
  have served := servePast_served sweep offers.quiet offers.running (offers.clear sweep apart)
  obtain ⟨header, htag, -⟩ := offers.header r.code
  refine ⟨?_, served⟩
  unfold takeOrder
  rw [header]
  simp only [withBus, Env.quiet, setLines_nil, setBus_quiet offers.quiet, htag, verdict, settleVerdict]
  exact setBus_quiet served.quiet

/-! ### Refusals of a window's orders -/

theorem shiftOpenVerdict_refuses {s : State} {w : Window} {clerk float home : Nat} {alt : Option Nat} {oc : OrderOutcome}
    (fails : firstRefusal [
      (decide (s.till[w].state ≠ .none), .shiftOpen),
      (decide (65535 < clerk ∨ 9999999 < float ∨ 8 ≤ home) || alt.any fun a => decide (8 ≤ a), .outOfRange),
      (decide (alt = some home), .badForm)] = some oc) : shiftOpenVerdict clerk float home alt w s = .refuse oc := by
  simp only [firstRefusal_cons_some, firstRefusal_nil_some, and_false, or_false, decide_eq_true_eq, decide_eq_false_iff_not,
    Bool.or_eq_true, Bool.or_eq_false_iff, Option.any_eq_true] at fails
  unfold shiftOpenVerdict
  rcases fails with ⟨busy, rfl⟩ | ⟨free, ⟨range, rfl⟩ | ⟨⟨inRange, altRange⟩, same, rfl⟩⟩
  · exact if_pos busy
  · rw [if_neg free]
    split
    next h a home' alt' =>
      rw [toIdx_eq_some] at home'
      rcases range with (big | much | high) | ⟨b, rfl, high⟩
      · exact if_pos (.inl big)
      · exact if_pos (.inr much)
      · omega
      · rw [altLane, toIdx_eq_none.2 high] at alt'
        exact nomatch alt'
    · rfl
  · rw [if_neg free, same, toIdx_eq_some.2 (show home = (⟨home, by omega⟩ : Fin 8).val from rfl)]
    have home' : altLane (some home) = some (some ⟨home, by omega⟩) := by
      rw [altLane, toIdx_eq_some.2 (show home = (⟨home, by omega⟩ : Fin 8).val from rfl)]
      rfl
    have small : ¬ (65535 < clerk ∨ Config.maxTotal < float) := fun big => inRange (big.elim .inl fun much => .inr (.inl much))
    simp only [home', if_neg small, if_true]

/-! ### ISSUE (R55 to R59) -/

theorem laneChoice_isNone (c : Nat) : laneChoice c = none ↔ ¬ (c < 8 ∨ c = 16 ∨ c = 17) := by
  unfold laneChoice
  split
  · exact iff_of_false (fun h => nomatch h) (by omega)
  · split
    · exact iff_of_false (fun h => nomatch h) (by omega)
    · rw [Option.map_eq_none_iff, toIdx_eq_none]
      omega

theorem tenderOfCode_isNone (c : Nat) : Tender.ofCode c = none ↔ 3 < c := by
  rcases Nat.lt_or_ge 3 c with high | low
  · refine iff_of_true ?_ high
    unfold Tender.ofCode
    split <;> first | rfl | omega
  · refine iff_of_false ?_ (by omega)
    interval_cases c <;> exact fun h => nomatch h

/-- The fields of an ISSUE that pass the first pass, from its body (R56). -/
theorem issueFields_some {b : IssueBody} {f : IssueFields} (fields : issueFields b = some f) :
    laneChoice b.choice = some f.choice ∧ f.na = b.na ∧ f.nc = b.nc := by
  unfold issueFields at fields
  split at fields
  next choice _ _ _ _ =>
    split at fields
    · cases fields
      exact ⟨choice, rfl, rfl⟩
    · cases fields
  · cases fields

theorem issueFields_none {b : IssueBody} (bad : ¬ (b.choice < 8 ∨ b.choice = 16 ∨ b.choice = 17) ∨ 3 < b.kind ∨ 15 < b.layout ∨
    15 < b.discount ∨ 999999 < b.adult ∨ 999999 < b.child ∨ 9 < b.na ∨ 9 < b.nc ∨ 3 < b.tender ∨ 12 < b.items) :
    issueFields b = none := by
  unfold issueFields
  split
  next c k y d t choice kind layout discount tender =>
    refine if_neg fun ok => ?_
    obtain ⟨adult, child, na, nc, items⟩ := ok
    have adult : b.adult ≤ 999999 := adult
    have child : b.child ≤ 999999 := child
    rw [toIdx_eq_some] at kind layout discount
    have choice : b.choice < 8 ∨ b.choice = 16 ∨ b.choice = 17 := by
      by_contra none
      rw [(laneChoice_isNone _).2 none] at choice
      exact nomatch choice
    have tender : ¬ 3 < b.tender := fun high => by
      rw [(tenderOfCode_isNone _).2 high] at tender
      exact nomatch tender
    omega
  · rfl

theorem issueFields_isSome {b : IssueBody} (good : ¬ (¬ (b.choice < 8 ∨ b.choice = 16 ∨ b.choice = 17) ∨ 3 < b.kind ∨ 15 < b.layout ∨
    15 < b.discount ∨ 999999 < b.adult ∨ 999999 < b.child ∨ 9 < b.na ∨ 9 < b.nc ∨ 3 < b.tender ∨ 12 < b.items)) :
    ∃ f, issueFields b = some f := by
  obtain ⟨c, choice⟩ := Option.ne_none_iff_exists'.1 (mt (laneChoice_isNone b.choice).1 (by omega))
  obtain ⟨t, tender⟩ := Option.ne_none_iff_exists'.1 (mt (tenderOfCode_isNone b.tender).1 (by omega))
  have kind : toIdx 4 b.kind = some ⟨b.kind, by omega⟩ := toIdx_eq_some.2 rfl
  have layout : toIdx 16 b.layout = some ⟨b.layout, by omega⟩ := toIdx_eq_some.2 rfl
  have discount : toIdx 16 b.discount = some ⟨b.discount, by omega⟩ := toIdx_eq_some.2 rfl
  have ranges : b.adult ≤ Config.maxBase ∧ b.child ≤ Config.maxBase ∧ b.na ≤ 9 ∧ b.nc ≤ 9 ∧ b.items ≤ 12 := by
    show b.adult ≤ 999999 ∧ b.child ≤ 999999 ∧ _
    omega
  simp only [issueFields, choice, tender, kind, layout, discount, if_pos ranges]
  exact ⟨_, rfl⟩

/-- The ALTERNATE choice of a drawer without an alternate lane resolves to none (R57). -/
theorem resolveLane_none {d : Drawer} {c : Nat} {choice : LaneChoice} (is : laneChoice c = some choice) (alternate : c = 17)
    (absent : d.alt = none) : resolveLane d choice = none := by
  subst alternate
  obtain rfl : LaneChoice.alternate = choice := Option.some_inj.1 is
  exact absent

theorem issueVerdict_refuses {s : State} {o : OrderHdr} {tag : Tag} {b : IssueBody} {att : Option (List Byte)} {area : List Byte}
    {w : Window} {oc : OrderOutcome} (text : att.getD b.area = area)
    (fails : firstRefusal [
      (decide (s.till[w].state = .none), .noShift),
      (decide (s.till[w].state = .closing), .drawerClosing),
      (decide (¬ (b.choice < 8 ∨ b.choice = 16 ∨ b.choice = 17) ∨ 3 < b.kind ∨ 15 < b.layout ∨ 15 < b.discount ∨
        999999 < b.adult ∨ 999999 < b.child ∨ 9 < b.na ∨ 9 < b.nc ∨ 3 < b.tender ∨ 12 < b.items), .outOfRange),
      (decide (b.na + b.nc = 0), .badForm),
      ((textItems b.items area).isNone, .badForm),
      (decide (b.choice = 17 ∧ s.till[w].alt = none), .laneUnavailable)] = some oc) :
    issueVerdict o tag b att w s = .refuse oc := by
  simp only [firstRefusal_cons_some, firstRefusal_nil_some, and_false, or_false, decide_eq_true_eq, decide_eq_false_iff_not,
    Option.isNone_iff_eq_none] at fails
  unfold issueVerdict
  rcases fails with ⟨none, rfl⟩ | ⟨some, ⟨closing, rfl⟩ | ⟨notClosing, fails⟩⟩
  · simp only [none]
  · simp only [closing]
  have opened : s.till[w].state = .opened := by
    cases state : s.till[w].state with
    | none => exact absurd state some
    | closing => exact absurd state notClosing
    | opened => rfl
  rw [opened]
  rcases fails with ⟨range, rfl⟩ | ⟨inRange, fails⟩
  · simp only [issueFields_none range]
  obtain ⟨f, fields⟩ := issueFields_isSome inRange
  obtain ⟨choice, na, nc⟩ := issueFields_some fields
  simp only [fields]
  unfold issueFormVerdict
  rw [na, nc, text]
  rcases fails with ⟨nobody, rfl⟩ | ⟨somebody, ⟨malformed, rfl⟩ | ⟨formed, ⟨alternate, none⟩, rfl⟩⟩
  · exact if_pos nobody
  · simp only [if_neg somebody, malformed]
  · obtain ⟨items, formed⟩ := Option.isSome_iff_exists.1 (Option.isNone_eq_false_iff.1 formed)
    simp only [if_neg somebody, formed, issueLaneVerdict, resolveLane_none choice alternate none]

theorem loadedKind_not (m : Option Loaded) (k : StockKind) : (!loadedKind m k) = m.all fun m => decide (m.kind ≠ k) := by
  cases m with
  | none => rfl
  | some m => simp only [loadedKind, Option.any_some, Option.all_some, decide_not]

theorem issueRoom_not (s : State) : (!issueRoom s) = (decide (4096 ≤ s.issue.table.length + s.issue.reserved) &&
    s.issue.table.all fun e => decide (s.till[e.window].state ≠ .none ∧ s.till[e.window].shift = e.shift)) := by
  rw [issueRoom, Bool.not_or, Bool.not_not, List.not_any_eq_all_not]
  simp only [Bool.not_not]
  rfl

/-- The verdict on an ISSUE whose lane is resolved, by the checks 4 to 8 (R55). -/
theorem issueLaneVerdict_eq {s : State} {o : OrderHdr} {tag : Tag} {w : Window} {f : IssueFields} {items : List Text} {l : Lane}
    (lane : resolveLane s.till[w] f.choice = some l) {refusal : Option OrderOutcome} (is : refusal = firstRefusal [
      (decide (¬ (s.lanes[l].state = .ready ∨ s.lanes[l].state = .printing ∨ s.lanes[l].state = .holding)), .laneUnavailable),
      (s.stock.mags[l].all fun m => decide (m.kind ≠ f.kind), .wrongStock),
      ((fare s.fare.discounts[f.discount] f.adult f.child f.na f.nc).isNone, .fareRange),
      (decide (4096 ≤ s.issue.table.length + s.issue.reserved) && s.issue.table.all fun e =>
        decide (s.till[e.window].state ≠ .none ∧ s.till[e.window].shift = e.shift), .tableFull)]) :
    (∀ oc, refusal = some oc → issueLaneVerdict o tag w f items s = .refuse oc) ∧
      (refusal = none → pickBuffer s l = none → issueLaneVerdict o tag w f items s = .wait) := by
  have ready : (!issuable (s.lane l)) =
      decide (¬ (s.lanes[l].state = .ready ∨ s.lanes[l].state = .printing ∨ s.lanes[l].state = .holding)) := by
    rw [decide_not]
    rfl
  have loaded : (!loadedKind (s.mag l) f.kind) = s.stock.mags[l].all fun m => decide (m.kind ≠ f.kind) := loadedKind_not _ _
  rw [← ready, ← loaded, ← issueRoom_not, firstRefusal_cons, firstRefusal_cons, firstRefusal_cons, firstRefusal_cons, firstRefusal_nil] at is
  have figures : issueFigures s f = fare s.fare.discounts[f.discount] f.adult f.child f.na f.nc := rfl
  unfold issueLaneVerdict
  rw [figures]
  simp only [lane]
  subst is
  split
  · exact ⟨fun oc h => by cases h; rfl, fun h => nomatch h⟩
  split
  · exact ⟨fun oc h => by cases h; rfl, fun h => nomatch h⟩
  rcases fare s.fare.discounts[f.discount] f.adult f.child f.na f.nc with _ | fig
  · exact ⟨fun oc h => by cases h; rfl, fun h => nomatch h⟩
  simp only [Option.isNone_some, Bool.false_eq_true, if_false]
  split
  · exact ⟨fun oc h => by cases h; rfl, fun h => nomatch h⟩
  · exact ⟨fun oc h => (nomatch h), fun _ none => by rw [none]⟩

theorem issueVerdict_fields {s : State} {o : OrderHdr} {tag : Tag} {b : IssueBody} {att : Option (List Byte)} {w : Window}
    {f : IssueFields} {items : List Text} (opened : s.till[w].state = .opened) (fields : issueFields b = some f)
    (persons : 1 ≤ f.na + f.nc) (text : textItems b.items (att.getD b.area) = some items) :
    issueVerdict o tag b att w s = issueLaneVerdict o tag w f items s := by
  have somebody : ¬ (f.na + f.nc = 0) := by omega
  simp only [issueVerdict, opened, fields, issueFormVerdict, if_neg somebody, text]

/-! ### VOID, REFUND, CASH-UP and CASH-UP WITHDRAW (R72, R73, R154, R159) -/

theorem voidVerdict_refuses {s : State} {w : Window} {kind serial : Nat} {oc : OrderOutcome}
    (fails : firstRefusal [
      (decide (s.till[w].state = .none), .noShift),
      (decide (s.till[w].state = .closing), .drawerClosing),
      (decide (3 < kind ∨ 99999999 < serial), .outOfRange)] = some oc) : voidVerdict kind serial w s = .refuse oc := by
  simp only [firstRefusal_cons_some, firstRefusal_nil_some, and_false, or_false, decide_eq_true_eq, decide_eq_false_iff_not] at fails
  unfold voidVerdict
  rcases fails with ⟨none, rfl⟩ | ⟨some, ⟨closing, rfl⟩ | ⟨notClosing, range, rfl⟩⟩
  · simp only [none]
  · simp only [closing]
  · cases state : s.till[w].state with
    | none => exact absurd state some
    | closing => exact absurd state notClosing
    | opened =>
      dsimp only
      split
      · rfl
      next k kind' =>
        rw [toIdx_eq_some] at kind'
        have big : ¬ serial ≤ Config.maxSerial := by
          show ¬ serial ≤ 99999999
          omega
        exact if_neg big

theorem refundVerdict_refuses {s : State} {w : Window} {kind serial reason : Nat} {oc : OrderOutcome}
    (fails : firstRefusal [
      (decide (s.till[w].state = .none), .noShift),
      (decide (s.till[w].state = .closing), .drawerClosing),
      (decide (3 < kind ∨ 99999999 < serial ∨ 3 < reason), .outOfRange)] = some oc) :
    refundVerdict kind serial reason w s = .refuse oc := by
  simp only [firstRefusal_cons_some, firstRefusal_nil_some, and_false, or_false, decide_eq_true_eq, decide_eq_false_iff_not] at fails
  unfold refundVerdict
  rcases fails with ⟨none, rfl⟩ | ⟨some, ⟨closing, rfl⟩ | ⟨notClosing, range, rfl⟩⟩
  · simp only [none]
  · simp only [closing]
  · cases state : s.till[w].state with
    | none => exact absurd state some
    | closing => exact absurd state notClosing
    | opened =>
      dsimp only
      split
      next k r kind' reason' =>
        rw [toIdx_eq_some] at kind' reason'
        have big : ¬ serial ≤ Config.maxSerial := by
          show ¬ serial ≤ 99999999
          omega
        exact if_neg big
      · rfl

theorem voidEntryVerdict_refuses {s : State} {w : Window} {k : StockKind} {serial : Nat} {e : Option IssueEntry} {oc : OrderOutcome}
    (is : e = entryOf s k serial)
    (fails : firstRefusal [
      (e.isNone, .notFound),
      (e.any fun x => decide (x.state ≠ .issued), .notIssuedState),
      (e.any fun x => decide (x.window ≠ w ∨ x.shift ≠ s.till[w].shift), .notThisShift)] = some oc) :
    voidEntryVerdict w k serial s = .refuse oc := by
  unfold voidEntryVerdict
  rw [← is]
  rw [firstRefusal_cons, firstRefusal_cons, firstRefusal_cons, firstRefusal_nil] at fails
  rcases e with _ | x
  · cases fails
    rfl
  · simp only [Option.isNone_some, Option.any_some, Bool.false_eq_true, if_false, decide_eq_true_eq] at fails ⊢
    split at fails
    next used =>
      cases fails
      exact if_pos used
    next fresh =>
      rw [if_neg fresh]
      split at fails
      next other =>
        cases fails
        exact if_pos other
      · exact nomatch fails

theorem refundEntryVerdict_refuses {s : State} {w : Window} {k : StockKind} {serial : Nat} {reason : Fin 4} {e : Option IssueEntry}
    {oc : OrderOutcome} (is : e = entryOf s k serial)
    (fails : firstRefusal [(e.isNone, .notFound), (e.any fun x => decide (x.state ≠ .issued), .notIssuedState)] = some oc) :
    refundEntryVerdict w k serial reason s = .refuse oc := by
  unfold refundEntryVerdict
  rw [← is]
  rw [firstRefusal_cons, firstRefusal_cons, firstRefusal_nil] at fails
  rcases e with _ | x
  · cases fails
    rfl
  · simp only [Option.isNone_some, Option.any_some, Bool.false_eq_true, if_false, decide_eq_true_eq] at fails ⊢
    split at fails
    next used =>
      cases fails
      exact if_pos used
    · exact nomatch fails

theorem cashUpVerdict_refuses {s : State} {w : Window} {p : PendingCashUp} {oc : OrderOutcome}
    (fails : firstRefusal [
      (decide (s.till[w].state = .none), .noShift),
      (decide (s.till[w].state = .closing), .busy),
      (decide (99999999999 < p.declared.cash ∨ 99999999999 < p.declared.card ∨ 99999999999 < p.declared.warrant ∨
        99999999999 < p.declared.voucher), .outOfRange)] = some oc) : cashUpVerdict p w s = .refuse oc := by
  simp only [firstRefusal_cons_some, firstRefusal_nil_some, and_false, or_false, decide_eq_true_eq, decide_eq_false_iff_not] at fails
  unfold cashUpVerdict
  rcases fails with ⟨none, rfl⟩ | ⟨some, ⟨closing, rfl⟩ | ⟨notClosing, range, rfl⟩⟩
  · simp only [none]
  · simp only [closing]
  · cases state : s.till[w].state with
    | none => exact absurd state some
    | closing => exact absurd state notClosing
    | opened =>
      refine if_neg fun ok => ?_
      obtain ⟨cash, card, warrant, voucher⟩ := of_decide_eq_true ok
      have cash : p.declared.cash ≤ 99999999999 := cash
      have card : p.declared.card ≤ 99999999999 := card
      have warrant : p.declared.warrant ≤ 99999999999 := warrant
      have voucher : p.declared.voucher ≤ 99999999999 := voucher
      omega

theorem withdrawVerdict_refuses {s : State} {w : Window} (notClosing : s.till[w].state ≠ .closing) :
    withdrawVerdict w s = .refuse .notPermitted := by
  unfold withdrawVerdict
  cases state : s.till[w].state with
  | closing => exact absurd state notClosing
  | none | opened => rfl

/-- A CASH-UP WITHDRAW is decided for the drawer concerned, whatever the gate (R42, R159). -/
theorem withdraw_verdict {s : State} {o : OrderHdr} {src : Source} {window : Nat} (office : s.office.opened = true) :
    verdictOf cashUpWithdrawRule o src (fun _ s => match withdrawWindow src window with
      | none => .refuse .outOfRange
      | some w => withdrawVerdict w s) s = match withdrawWindow src window with
      | none => .refuse .outOfRange
      | some w => withdrawVerdict w s := by
  simp only [verdictOf, cashUpWithdrawRule, readAttachment, office, Bool.not_true, Bool.and_false, Bool.false_and, Bool.false_eq_true,
    if_false]

theorem windowSource_castSucc (w : Window) : windowSource w.castSucc = true := decide_eq_true w.isLt

/-- A window's order without an attachment that its owner refuses (R43). -/
theorem Takeable.window_refused {r : OrderRule} {o : OrderHdr} {b : OrderBody} {verdict : Tag → Window → State → Verdict} {s : State}
    {w : Window} {tag : Tag} {oc : OrderOutcome} {c : Instr} (takeable : Takeable s o.slot w.castSucc tag) (attaches : r.attaches = false)
    (permitted : r.permitted w.castSucc = true)
    (runs : exec c s = .next (takeOrder r o b Env.quiet (fun src tag _ s => forWindow src fun w => verdict tag w s) s))
    (refuses : verdict tag w s = .refuse oc) : Refused s c o r.code w.castSucc tag oc :=
  takeable.refused (owner := fun src tag _ s => forWindow src fun w => verdict tag w s) runs
    ((takeable.verdict attaches permitted _).trans ((forWindow_window w _).trans refuses))

/-- Settles O14: each order's refusal by its owner's verdict; an ISSUE without a buffer by `Offers.waits`. -/
theorem windowRefusals : Obligations.WindowRefusals := by
  refine ⟨fun s o w tag oc takeable => ⟨fun clerk float home alt fails => ?_, fun b area read => ⟨fun fails => ?_,
    fun f items l sweep opened fields persons text choice refusal is => ⟨fun fails => ?_, fun passes none sweeps apart => ?_⟩⟩,
    fun kind serial reason => ⟨fun fails => ?_, fun fails => ?_⟩,
    fun k serial reason e opened small is => ⟨fun fails => ?_, fun fails => ?_⟩, fun decl fails => ?_⟩,
    fun s o src window tag offers office => ⟨fun supervisor high => ?_, fun w concerned notClosing => ?_⟩⟩
  · exact takeable.window_refused (r := shiftOpenRule) (verdict := fun _ w s => shiftOpenVerdict clerk float home alt w s) rfl (windowSource_castSucc w)
      rfl (shiftOpenVerdict_refuses fails)
  · obtain ⟨att, reads, own, -⟩ := readAttachment_of read
    exact takeable.refused (r := issueRule) (owner := fun src tag att s => forWindow src fun w => issueVerdict o tag b att w s) rfl
      ((takeable.verdict_read reads (windowSource_castSucc w) _).trans ((forWindow_window w _).trans (issueVerdict_refuses own fails)))
  · obtain ⟨att, reads, own, -⟩ := readAttachment_of read
    exact takeable.refused (r := issueRule) (owner := fun src tag att s => forWindow src fun w => issueVerdict o tag b att w s) rfl
      ((takeable.verdict_read reads (windowSource_castSucc w) _).trans ((forWindow_window w _).trans
        ((issueVerdict_fields opened fields persons (by rw [own]; exact text)).trans
          ((issueLaneVerdict_eq (resolveLane_of choice) is).1 oc fails))))
  · obtain ⟨att, reads, own, -⟩ := readAttachment_of read
    obtain ⟨runs, served⟩ := takeable.waits (r := issueRule) (b := .issue b)
      (owner := fun src tag att s => forWindow src fun w => issueVerdict o tag b att w s)
      ((takeable.verdict_read reads (windowSource_castSucc w) _).trans ((forWindow_window w _).trans
        ((issueVerdict_fields opened fields persons (by rw [own]; exact text)).trans
          ((issueLaneVerdict_eq (resolveLane_of choice) is).2 passes none)))) sweeps apart
    exact ⟨_, congrArg Host.Outcome.next runs, served.rest, ⟨served.slot, served.mark, served.context⟩, served.tags, fun j _ => served.others j,
      ⟨by rw [served.rest]; rfl, served.ring, served.alerts⟩, served.kept⟩
  · exact takeable.window_refused (r := voidRule) (verdict := fun _ w s => voidVerdict kind serial w s) rfl
      (windowSource_castSucc w) rfl
      (voidVerdict_refuses fails)
  · exact takeable.window_refused (r := refundRule) (verdict := fun _ w s => refundVerdict kind serial reason w s) rfl
      (windowSource_castSucc w) rfl
      (refundVerdict_refuses fails)
  · have small : serial ≤ Config.maxSerial := small
    refine takeable.window_refused (r := voidRule) (verdict := fun _ w s => voidVerdict k.val serial w s) rfl
      (windowSource_castSucc w) rfl
      (Eq.trans ?_ (voidEntryVerdict_refuses is fails))
    simp only [voidVerdict, opened, toIdx_val, if_pos small]
  · have small : serial ≤ Config.maxSerial := small
    refine takeable.window_refused (r := refundRule) (verdict := fun _ w s => refundVerdict k.val serial reason.val w s) rfl
      (windowSource_castSucc w) rfl
      (Eq.trans ?_ (refundEntryVerdict_refuses (w := w) (reason := reason) is fails))
    simp only [refundVerdict, opened, toIdx_val, if_pos small]
  · exact takeable.window_refused (r := cashUpRule) (verdict := fun tag w s => cashUpVerdict ⟨o.slot, tag, decl⟩ w s) rfl
      (windowSource_castSucc w) rfl
      (cashUpVerdict_refuses fails)
  · subst supervisor
    refine offers.refused (r := cashUpWithdrawRule) rfl ((withdraw_verdict office).trans ?_)
    have none : withdrawWindow 12 window = none := toIdx_eq_none.2 high
    rw [none]
  · refine offers.refused (r := cashUpWithdrawRule) rfl ((withdraw_verdict office).trans ?_)
    rw [withdrawWindow_of concerned]
    exact withdrawVerdict_refuses notClosing

end Sys2Proof.Machine
end

section
/-! The steps of a sweep (R39 to R41, R46 to R48, R164, R168): slots answered in turn while the exchange runs, the service of the
sources where no slot is behind, and each step by its number. -/

namespace Sys2Proof.Machine

/-! ### Slots answered in turn -/

/-- The header that the sweep in progress holds for a slot. -/
def heldHeader (s : State) (i : SlotNo) : Option Header := s.exch.sweep.map fun w => w.headers[i]

theorem postedHeader_eq (s : State) (i : SlotNo) :
    postedHeader s i = (heldHeader s i).filter fun h => decide (h.state = 1 ∧ s.exch.contexts[i] = none) := by
  unfold postedHeader heldHeader
  rcases s.exch.sweep with _ | w
  · rfl
  · simp [Option.filter]

theorem takenHeader_eq (s : State) (i : SlotNo) :
    takenHeader s i = (heldHeader s i).filter fun h => decide (h.state = 2 ∧ s.exch.contexts[i] = none) := by
  unfold takenHeader heldHeader
  rcases s.exch.sweep with _ | w
  · rfl
  · simp [Option.filter]

theorem filter_some {α : Type} {p : α → Bool} {o : Option α} {a : α} : o.filter p = some a ↔ o = some a ∧ p a = true := by
  cases o with
  | none => simp
  | some b =>
    rw [Option.filter_some]
    split
    next h => exact ⟨fun e => ⟨e, by cases e; exact h⟩, fun e => e.1⟩
    next h => exact ⟨fun e => (nomatch e), fun e => absurd (by rw [Option.some_inj.1 e.1]; exact e.2) h⟩

theorem postedHeader_some {s : State} {i : SlotNo} {h : Header} :
    postedHeader s i = some h ↔ heldHeader s i = some h ∧ h.state = 1 ∧ s.exch.contexts[i] = none := by
  rw [postedHeader_eq, filter_some, decide_eq_true_eq]

theorem takenHeader_some {s : State} {i : SlotNo} {h : Header} :
    takenHeader s i = some h ↔ heldHeader s i = some h ∧ h.state = 2 ∧ s.exch.contexts[i] = none := by
  rw [takenHeader_eq, filter_some, decide_eq_true_eq]

/-- From a state in which the exchange runs and no access error is under way, each slot for which there is an answer has been
answered, and nothing else differs. -/
structure Swept (answers : SlotNo → Option Answer) (s t : State) : Prop where
  rest     : t = { s with exch := t.exch, host := t.host }
  quiet    : t.host.busIn = none
  running  : t.exch.state = .running
  answered : ∀ i a, answers i = some a → AnsweredSlot t i a ∧ (heldHeader t i).all (fun h => decide (h.state = 3)) = true
  left     : ∀ i, answers i = none → SlotKept s t i ∧ heldHeader t i = heldHeader s i
  sweep    : t.exch.sweep.isSome = s.exch.sweep.isSome
  step     : t.exch.sweep.map Sweep.step = s.exch.sweep.map Sweep.step
  ring     : t.host.journal = s.host.journal
  snapshot : t.host.snapshot = s.host.snapshot
  tags     : t.exch.tags = s.exch.tags
  alerts   : t.exch.alerts = s.exch.alerts
  kept     : ExchangeKept s.exch t.exch

namespace Swept

variable {A B : SlotNo → Option Answer} {s t u : State}

theorem refl (quiet : s.host.busIn = none) (running : s.exch.state = .running) : Swept (fun _ => none) s s :=
  ⟨rfl, quiet, running, fun _ _ h => (nomatch h), fun _ _ => ⟨⟨rfl, rfl, rfl⟩, rfl⟩, rfl, rfl, rfl, rfl, rfl, rfl, ExchangeKept.refl _⟩

/-- A slot answered in the first part is not answered again in the second. -/
theorem trans (h : Swept A s t) (g : Swept B t u) (once : ∀ i a, A i = some a → B i = none) :
    Swept (fun i => (A i).or (B i)) s u where
  rest     := g.rest.trans (congrArg (fun v : State => { v with exch := u.exch, host := u.host }) h.rest)
  quiet    := g.quiet
  running  := g.running
  answered := fun i a is => by
    cases first : A i with
    | none =>
      rw [first, Option.none_or] at is
      exact g.answered i a is
    | some b =>
      rw [first, Option.some_or] at is
      obtain rfl := Option.some_inj.1 is
      obtain ⟨kept, header⟩ := g.left i (once i b first)
      obtain ⟨answered, stays⟩ := h.answered i b first
      exact ⟨⟨kept.slot.trans answered.slot, kept.mark.trans answered.mark, kept.context.trans answered.context⟩,
        header ▸ stays⟩
  left     := fun i none => by
    rw [Option.or_eq_none_iff] at none
    obtain ⟨kept, header⟩ := h.left i none.1
    obtain ⟨kept', header'⟩ := g.left i none.2
    exact ⟨kept.trans kept', header'.trans header⟩
  sweep    := g.sweep.trans h.sweep
  step     := g.step.trans h.step
  ring     := g.ring.trans h.ring
  snapshot := g.snapshot.trans h.snapshot
  tags     := g.tags.trans h.tags
  alerts   := g.alerts.trans h.alerts
  kept     := h.kept.trans g.kept

theorem congr (h : Swept A s t) (same : ∀ i, A i = B i) : Swept B s t := (funext same : A = B) ▸ h

/-- A slot answered is POSTED no more, and reads TAKEN no more. -/
theorem settled (h : Swept A s t) {i : SlotNo} {a : Answer} (is : A i = some a) : postedHeader t i = none ∧ takenHeader t i = none := by
  obtain ⟨-, header⟩ := h.answered i a is
  rw [postedHeader_eq, takenHeader_eq]
  revert header
  rcases heldHeader t i with _ | x
  · exact fun _ => ⟨rfl, rfl⟩
  · intro header
    have state : x.state = 3 := of_decide_eq_true header
    simp [state]

/-- A slot left reads as it did. -/
theorem reads (h : Swept A s t) {i : SlotNo} (is : A i = none) :
    postedHeader t i = postedHeader s i ∧ takenHeader t i = takenHeader s i := by
  obtain ⟨kept, header⟩ := h.left i is
  rw [postedHeader_eq, postedHeader_eq, takenHeader_eq, takenHeader_eq, header, kept.context]
  exact ⟨rfl, rfl⟩

/-- One slot answered. -/
theorem written (i : SlotNo) (a : Answer) (quiet : s.host.busIn = none) (running : s.exch.state = .running) :
    Swept (fun j => if j = i then some a else none) s (written i a s) where
  rest     := rfl
  quiet    := quiet
  running  := running
  answered := fun j b is => by
    split at is
    next same =>
      subst same
      obtain rfl := Option.some_inj.1 is
      refine ⟨⟨Table.upd_same _ _ _, Table.upd_same _ _ _, Table.upd_same _ _ _⟩, ?_⟩
      unfold heldHeader Machine.written
      simp only [State.onSweep_exch, State.onExch_exch, State.onHost_exch]
      rcases s.exch.sweep with _ | w
      · rfl
      · simp only [Option.map_some, Sweep.setByte, Table.upd_same]
        rfl
    · cases is
  left     := fun j is => by
    split at is
    · cases is
    next other =>
      refine ⟨(written_kept other a s).1, ?_⟩
      unfold heldHeader Machine.written
      simp only [State.onSweep_exch, State.onExch_exch, State.onHost_exch]
      rcases s.exch.sweep with _ | w
      · rfl
      · simp only [Option.map_some, Sweep.setByte, Table.upd_ne _ _ _ _ other]
  sweep    := by simp only [Machine.written, State.onSweep_exch, State.onExch_exch, State.onHost_exch, Option.isSome_map]
  step     := by
    simp only [Machine.written, State.onSweep_exch, State.onExch_exch, State.onHost_exch, Option.map_map]
    rfl
  ring     := rfl
  snapshot := rfl
  tags     := rfl
  alerts   := rfl
  kept     := written_exchangeKept i a s

/-- Slots gone through in turn, each answered or left by what the sweep holds of it: a slot's answer depends on the header
that the sweep holds, on the slot's context, the expected tags and the office time alone. -/
theorem forEach {f : SlotNo → State → State} {ans : SlotNo → State → Option Answer}
    (does : ∀ i s, s.host.busIn = none → s.exch.state = .running → f i s = (ans i s).elim s fun a => Machine.written i a s)
    (same : ∀ i s t, heldHeader t i = heldHeader s i → t.exch.contexts[i] = s.exch.contexts[i] → t.exch.tags = s.exch.tags →
      t.office = s.office → ans i t = ans i s) :
    ∀ (js : List SlotNo) (s : State), js.Nodup → s.host.busIn = none → s.exch.state = .running →
      Swept (fun i => if i ∈ js then ans i s else none) s (js.foldl (fun s i => f i s) s)
  | [], s, _, quiet, running => (refl quiet running).congr fun _ => rfl
  | j :: js, s, once, quiet, running => by
    obtain ⟨fresh, rest⟩ := List.nodup_cons.1 once
    have first : Swept (fun i => if i = j then ans j s else none) s (f j s) := by
      rw [does j s quiet running]
      cases ans j s with
      | none => exact (refl quiet running).congr fun i => by rw [ite_self]
      | some a => exact written j a quiet running
    refine (first.trans (forEach does same js _ rest first.quiet first.running) fun i a is => ?_).congr fun i => ?_
    · split at is
      next here => subst here; exact if_neg fresh
      · cases is
    · by_cases here : i = j
      · subst here
        simp only [if_true, if_neg fresh, Option.or_none, List.mem_cons, true_or]
      · rw [if_neg here, Option.none_or]
        simp only [List.mem_cons, false_or, here]
        obtain ⟨kept, header⟩ := first.left i (if_neg here)
        refine if_congr Iff.rfl (same i _ _ header kept.context first.tags ?_) rfl
        rw [first.rest]

theorem forSlots {f : SlotNo → State → State} {ans : SlotNo → State → Option Answer}
    (does : ∀ i s, s.host.busIn = none → s.exch.state = .running → f i s = (ans i s).elim s fun a => Machine.written i a s)
    (same : ∀ i s t, heldHeader t i = heldHeader s i → t.exch.contexts[i] = s.exch.contexts[i] → t.exch.tags = s.exch.tags →
      t.office = s.office → ans i t = ans i s) (quiet : s.host.busIn = none) (running : s.exch.state = .running) :
    Swept (fun i => ans i s) s (forSlots f s) :=
  (forEach does same (List.finRange 64) s (List.nodup_finRange 64) quiet running).congr fun i => if_pos (List.mem_finRange i)

end Swept

/-- A slot answered from POSTED: the context opened for the answer is released with it. -/
theorem answerDirect_eq {s : State} (quiet : s.host.busIn = none) (running : s.exch.state = .running) (i : SlotNo) (h : Header)
    (c : Option OrderCopy) (oc : OrderOutcome) :
    answerDirect i h c oc s = written i ⟨oc, h.kind, h.tag, s.office.clock, .none⟩ s := by
  have direct : answerDirect i h c oc s = written i ⟨oc, h.kind, h.tag, s.office.clock, .none⟩ (openContext i h c s) :=
    answer_running (s := openContext i h c s) quiet running i h.kind h.tag oc .none
  have twice : (s.exch.contexts.upd i fun _ => some ⟨h.kind, h.source, h.tag, c⟩).upd i (fun _ => none) =
      s.exch.contexts.upd i fun _ => none := Vector.set_set ..
  rw [direct]
  unfold written openContext State.onHost State.onExch State.onSweep
  dsimp only
  rw [twice]

/-! ### Steps of a sweep by their number (R40) -/

theorem exec_sweep_one {s : State} (quiet : s.host.busIn = none) (release : BitVec 32) (hs : Table 64 Header) :
    exec (.sweep 1 release hs ⟨none, none⟩) s = .next ((sweepStep release.toNat hs s).setBus none) := by
  show Host.Outcome.next (withBus none (sweepSteps 1 release.toNat hs) s) = _
  rw [withBus, setBus_quiet quiet]
  rfl

/-- The state with the number of the sweep's next step raised. -/
def stepped (s : State) : State := s.onSweep fun w => { w with step := w.step + 1 }

theorem stepped_sweep {s : State} {w : Sweep} (sweep : s.exch.sweep = some w) :
    (stepped s).exch = { s.exch with sweep := some { w with step := w.step + 1 } } := by
  show ({ s.exch with sweep := s.exch.sweep.map _ } : ExchangeController) = _
  rw [sweep]
  rfl

theorem sweepStep_one {s : State} {w : Sweep} (sweep : s.exch.sweep = some w) (step : w.step = 1) (release : Nat)
    (hs : Table 64 Header) : sweepStep release hs s = sweepRead release hs (stepped s) := by
  simp only [sweepStep, sweep, step, stepped]

theorem sweepStep_two {s : State} {w : Sweep} (sweep : s.exch.sweep = some w) (step : w.step = 2) (release : Nat)
    (hs : Table 64 Header) : sweepStep release hs s = (stepped s).onExch ExchangeController.settleReturned := by
  simp only [sweepStep, sweep, step, stepped]

theorem sweepStep_three {s : State} {w : Sweep} (sweep : s.exch.sweep = some w) (step : w.step = 3) (release : Nat)
    (hs : Table 64 Header) : sweepStep release hs s = writePending s.exch.pendingAns (stepped s) := by
  simp only [sweepStep, sweep, step, stepped, State.onSweep_exch]

theorem sweepStep_four {s : State} {w : Sweep} (sweep : s.exch.sweep = some w) (step : w.step = 4) (release : Nat)
    (hs : Table 64 Header) : sweepStep release hs s = sweepAborted (stepped s) := by
  simp only [sweepStep, sweep, step, stepped]

theorem sweepStep_five {s : State} {w : Sweep} (sweep : s.exch.sweep = some w) (step : w.step = 5) (release : Nat)
    (hs : Table 64 Header) : sweepStep release hs s = sweepStale (stepped s) := by
  simp only [sweepStep, sweep, step, stepped]

theorem sweepStep_six {s : State} {w : Sweep} (sweep : s.exch.sweep = some w) (step : w.step = 6) (release : Nat)
    (hs : Table 64 Header) : sweepStep release hs s = sweepServe (stepped s) := by
  simp only [sweepStep, sweep, step, stepped]

/-- With no sweep in progress, or an order offered and waiting, no step is made (R40). -/
theorem sweepStep_idle {s : State} (idle : ∀ w, s.exch.sweep = some w → 7 ≤ w.step) (release : Nat) (hs : Table 64 Header) :
    sweepStep release hs s = s := by
  unfold sweepStep
  cases sweep : s.exch.sweep with
  | none => rfl
  | some w =>
    have late := idle w sweep
    obtain ⟨n, is⟩ : ∃ n, w.step = n + 7 := ⟨w.step - 7, by omega⟩
    simp only [is]
    unfold State.onSweep State.onExch
    simp only [sweep, Option.map_some, ← is]
    rw [← sweep]

theorem sweepSteps_idle {s : State} (idle : ∀ w, s.exch.sweep = some w → 7 ≤ w.step) (release : Nat) (hs : Table 64 Header) :
    ∀ n, sweepSteps n release hs s = s
  | 0 => rfl
  | n + 1 => by rw [sweepSteps, sweepStep_idle idle, sweepSteps_idle idle release hs n]

/-! ### No step of a sweep leaves an access error under way (R52) -/

/-- The operation leaves no access error under way where there was none. -/
def Calm (f : State → State) : Prop := ∀ s, s.host.busIn = none → (f s).host.busIn = none

namespace Calm

theorem foldl {α : Type} {f : State → α → State} (h : ∀ a s, s.host.busIn = none → (f s a).host.busIn = none) :
    ∀ (as : List α) (s : State), s.host.busIn = none → (as.foldl f s).host.busIn = none
  | [], _, quiet => quiet
  | a :: as, s, quiet => foldl h as (f s a) (h a s quiet)

theorem forSlots {f : SlotNo → State → State} (h : ∀ i, Calm (f i)) : Calm (forSlots f) := foldl (fun i => h i) (List.finRange 64)

theorem answerDirect (i : SlotNo) (h : Header) (c : Option OrderCopy) (oc : OrderOutcome) : Calm (answerDirect i h c oc) := fun s quiet => by
  unfold Machine.answerDirect
  rw [answer_eq (s := openContext i h c s) quiet, (answered_produced i _ _).quiet]
  exact quiet

theorem answerPosted (i : SlotNo) (oc : OrderOutcome) : Calm (answerPosted i oc) := fun s quiet => by
  unfold Machine.answerPosted
  split
  · exact quiet
  · exact answerDirect i _ none oc s quiet

theorem answerStale (src : Source) : Calm (answerStale src) := forSlots fun i s quiet => by
  split
  · exact answerPosted i _ s quiet
  · exact quiet

theorem serve : ∀ srcs : List Source, Calm (serve srcs)
  | [], _, quiet => quiet
  | src :: srcs, s, quiet => by
    have stale := answerStale src s quiet
    rw [Machine.serve]
    unfold offerNext
    split
    · exact stale
    · split
      · rw [State.onSweep_host]
        exact stale
      · exact serve srcs _ stale

theorem writePending : ∀ ps : List (SlotNo × Answer), Calm (writePending ps)
  | [], _, quiet => quiet
  | p :: ps, s, quiet => by
    simp only [Machine.writePending, tryAnswer, access_quiet quiet, if_true]
    exact writePending ps _ quiet

theorem answerAborted (i : SlotNo) : Calm (answerAborted i) := fun s quiet => by
  unfold Machine.answerAborted
  split
  · exact quiet
  · simp only [tryAnswer, access_quiet quiet, if_true]
    exact quiet

theorem sweepAborted : Calm sweepAborted := fun s quiet => by
  have aborted := forSlots answerAborted s quiet
  simp only [Machine.sweepAborted]
  split
  · split
    · rw [State.onExch_host]
      exact aborted
    · exact aborted
  · exact quiet

theorem answerBadSource (i : SlotNo) : Calm (answerBadSource i) := fun s quiet => by
  unfold Machine.answerBadSource
  split
  · exact quiet
  · split
    · exact answerDirect i _ none _ s quiet
    · exact quiet

theorem staleSources (srcs : List Source) (s : State) (quiet : s.host.busIn = none) :
    (srcs.foldl (fun s src => Machine.answerStale src s) s).host.busIn = none :=
  foldl (f := fun s src => Machine.answerStale src s) (fun src => answerStale src) srcs s quiet

theorem sweepStale : Calm sweepStale := fun s quiet => by
  have stale := staleSources (List.finRange 13) s quiet
  unfold Machine.sweepStale
  generalize List.foldl (fun s src => Machine.answerStale src s) s (List.finRange 13) = u at *
  exact forSlots (f := Machine.answerBadSource) answerBadSource u stale

theorem sweepServe : Calm sweepServe := fun s quiet => by
  simp only [Machine.sweepServe]
  generalize rotation s.exch.nextStart = srcs
  refine serve srcs _ ?_
  rw [State.onExch_host]
  exact quiet

theorem drainQueue : ∀ es : List Entry, Calm (drainQueue es)
  | [], _, quiet => quiet
  | e :: es, s, quiet => by
    unfold Machine.drainQueue
    split
    · simp only [writeEntry, access_quiet quiet, if_true]
      exact drainQueue es _ quiet
    · exact quiet

theorem moveItem (x : OverflowItem) : Calm (moveItem x) := fun s quiet => by
  unfold Machine.moveItem
  split
  · exact quiet
  · split <;> exact quiet

theorem refill : ∀ xs : List OverflowItem, Calm (refill xs)
  | [], _, quiet => quiet
  | x :: xs, s, quiet => by
    unfold Machine.refill
    split
    · exact refill xs _ (moveItem x s quiet)
    · exact quiet

theorem settleGate : Calm settleGate := fun s quiet => by
  unfold Machine.settleGate
  split <;> exact quiet

theorem drain : Calm drain := fun s quiet => by
  simp only [Machine.drain]
  split
  · exact settleGate _ (drainQueue _ _ (refill _ _ (drainQueue _ s quiet)))
  · exact settleGate _ (drainQueue _ s quiet)

theorem sweepRead (release : Nat) (hs : Table 64 Header) : Calm (sweepRead release hs) := fun s quiet => by
  have drained := drain (s.onJournal fun j => j.handRelease release) quiet
  simp only [Machine.sweepRead, access_quiet quiet, Bool.not_true, Bool.false_eq_true, if_false]
  split
  · exact drained
  · simp only [access_quiet drained, Bool.not_true, Bool.false_eq_true, if_false]
    exact drained

theorem sweepStep (release : Nat) (hs : Table 64 Header) : Calm (sweepStep release hs) := fun s quiet => by
  cases sweep : s.exch.sweep with
  | none => rwa [sweepStep_idle fun w is => nomatch (sweep.symm.trans is)]
  | some w =>
    rcases Nat.lt_or_ge 6 w.step with late | early
    · rwa [sweepStep_idle fun v is => by rw [Option.some_inj.1 (is.symm.trans sweep)]; exact late]
    match step : w.step, early with
    | 0, _ =>
      simp only [Machine.sweepStep, sweep, step]
      exact quiet
    | 1, _ => rw [sweepStep_one sweep step]; exact sweepRead _ _ _ quiet
    | 2, _ => rw [sweepStep_two sweep step]; exact quiet
    | 3, _ => rw [sweepStep_three sweep step]; exact writePending _ _ quiet
    | 4, _ => rw [sweepStep_four sweep step]; exact sweepAborted _ quiet
    | 5, _ => rw [sweepStep_five sweep step]; exact sweepStale _ quiet
    | 6, _ => rw [sweepStep_six sweep step]; exact sweepServe _ quiet

end Calm

/-- With no access error to come, one step of the sweep in progress is made. -/
theorem exec_sweep_step {s : State} (quiet : s.host.busIn = none) (release : BitVec 32) (hs : Table 64 Header) :
    exec (.sweep 1 release hs ⟨none, none⟩) s = .next (sweepStep release.toNat hs s) := by
  rw [exec_sweep_one quiet, setBus_quiet (Calm.sweepStep _ _ s quiet)]

theorem exec_reset_command (k : ResetKind) (s : State) : exec (resetCommand k) s = .next (doReset k s) := by cases k <;> rfl

/-! ### What each step does -/

/-- A sweep's first step with nothing to drain (R164, R168). -/
theorem sweepRead_dry {s : State} (quiet : s.host.busIn = none) (running : s.exch.state = .running)
    (sweep : s.exch.sweep.isSome = true) (holding : s.journal.holding = []) (overflow : s.journal.overflow = []) (release : Nat)
    (hs : Table 64 Header) {low : Bool}
    (is : low = decide (s.journal.n - 1 - (s.journal.head + (s.journal.n - release % s.journal.n)) % s.journal.n < 64)) :
    sweepRead release hs s = { s with
      journal := { s.journal with release := some (release % s.journal.n), closed := low }
      exch := { s.exch with
        sweep := s.exch.sweep.map fun w => { w with headers := hs, marksRead := s.exch.marks }
        alerts := { s.exch.alerts with pressure := s.exch.alerts.pressure || low } }
      host := s.host.readSlots hs } := by
  obtain ⟨g, handed⟩ : ∃ g, s.onJournal (fun j => j.handRelease release) = g := ⟨_, rfl⟩
  have journal : g.journal = { s.journal with release := some (release % s.journal.n) } := by rw [← handed]; rfl
  have rest : g = { s with journal := g.journal } := by rw [← handed]; rfl
  have dry : drainQueue g.journal.holding g = g := by
    rw [journal]
    show drainQueue s.journal.holding g = g
    rw [holding]
    show g.onJournal _ = g
    rw [rest]
    unfold State.onJournal
    dsimp only
    rw [journal]
    dsimp only
    rw [holding]
  have full : refill g.journal.overflow g = g := by
    rw [journal]
    show refill s.journal.overflow g = g
    rw [overflow]
    show g.onJournal _ = g
    rw [rest]
    unfold State.onJournal
    dsimp only
    rw [journal]
    dsimp only
    rw [overflow]
  have running' : g.exch.state = .running := by rw [rest]; exact running
  have drained : drain g = settleGate g := by
    simp only [drain, dry, running', if_true, full]
  have gate : g.journal.mustClose = low := by
    rw [journal, is]
    simp only [JournalWriter.mustClose, JournalWriter.free, JournalWriter.used, Option.map_some, Option.any_some, holding, overflow,
      List.isEmpty_nil, Bool.not_true, Bool.or_false]
    rfl
  have quiet' : (settleGate g).host.busIn = none := Calm.settleGate g (by rw [rest]; exact quiet)
  have going : (settleGate g).exch.sweep.isNone = false := by
    rw [settleGate, rest]
    split <;> simpa using sweep
  simp only [sweepRead, access_quiet quiet, Bool.not_true, Bool.false_eq_true, if_false, handed, drained, going, access_quiet quiet']
  rw [settleGate, gate, rest]
  cases low
  · simp only [Bool.or_false]
    unfold State.onHost State.onExch State.onJournal
    simp only [journal, Bool.false_eq_true, if_false]
  · simp only [Bool.or_true]
    unfold State.onHost State.onExch State.onAlerts State.onJournal State.onExch
    simp only [journal, if_true]

theorem heldHeader_stepped (s : State) (i : SlotNo) : heldHeader (stepped s) i = heldHeader s i := by
  unfold heldHeader stepped
  rw [State.onSweep_exch, Option.map_map]
  rfl

theorem heldHeader_of {s : State} {w : Sweep} (sweep : s.exch.sweep = some w) (i : SlotNo) : heldHeader s i = some w.headers[i] := by
  rw [heldHeader, sweep]
  rfl

theorem postedHeader_stepped (s : State) (i : SlotNo) : postedHeader (stepped s) i = postedHeader s i := by
  rw [postedHeader_eq, postedHeader_eq, heldHeader_stepped]
  rfl

theorem takenHeader_stepped (s : State) (i : SlotNo) : takenHeader (stepped s) i = takenHeader s i := by
  rw [takenHeader_eq, takenHeader_eq, heldHeader_stepped]
  rfl

theorem stepped_rest (s : State) (x : ExchangeController) (h : HostMem) :
    { stepped s with exch := x, host := h } = { s with exch := x, host := h } := rfl

theorem stepped_kept (s : State) : ExchangeKept s.exch (stepped s).exch := ⟨by constructor <;> rfl, rfl, rfl, rfl⟩

/-- The marks after the second step (R47). -/
theorem settleReturned_mark {x : ExchangeController} {w : Sweep} (sweep : x.sweep = some w) :
    x.settleReturned = { x with marks := x.settleReturned.marks } ∧
      ∀ i : SlotNo, x.settleReturned.marks[i] = true ↔
        x.marks[i] = true ∧ ¬ (w.marksRead[i] = true ∧ (w.headers[i].state = 0 ∨ w.headers[i].state = 1)) := by
  unfold ExchangeController.settleReturned
  rw [sweep]
  refine ⟨rfl, fun i => ?_⟩
  have mark : (Vector.ofFn fun i : SlotNo => x.marks[i] && !(w.marksRead[i] &&
      (decide (w.headers[i].state = 0) || decide (w.headers[i].state = 1))))[i] = (x.marks[i] && !(w.marksRead[i] &&
      (decide (w.headers[i].state = 0) || decide (w.headers[i].state = 1)))) := Vector.getElem_ofFn ..
  show (Vector.ofFn _)[i] = true ↔ _
  rw [mark, Bool.and_eq_true, Bool.not_eq_true', ← Bool.not_eq_true, Bool.and_eq_true, Bool.or_eq_true, decide_eq_true_eq,
    decide_eq_true_eq]

/-- The pending answers written while no access fails (R46). -/
theorem writePending_swept : ∀ (ps : List (SlotNo × Answer)) (s : State), (ps.map Prod.fst).Nodup → s.host.busIn = none →
    s.exch.state = .running → ∃ u, Swept (fun i => (ps.find? fun p => decide (p.1 = i)).map Prod.snd) s u ∧
      writePending ps s = u.onExch fun x => { x with pendingAns := [] }
  | [], s, _, quiet, running => ⟨s, (Swept.refl quiet running).congr fun _ => rfl, rfl⟩
  | p :: ps, s, once, quiet, running => by
    obtain ⟨fresh, rest⟩ := List.nodup_cons.1 once
    have first := Swept.written p.1 p.2 quiet running
    obtain ⟨u, swept, is⟩ := writePending_swept ps _ rest first.quiet first.running
    refine ⟨u, (first.trans swept fun i a here => ?_).congr fun i => ?_, ?_⟩
    · split at here
      next same =>
        subst same
        rw [Option.map_eq_none_iff, List.find?_eq_none]
        intro q mem
        rw [decide_eq_true_eq]
        exact fun same => fresh (same ▸ List.mem_map_of_mem mem)
      · cases here
    · by_cases same : p.1 = i
      · simp [same]
      · have other : ¬ i = p.1 := fun e => same e.symm
        simp [same, other]
    · rw [← is]
      simp only [writePending, tryAnswer, access_quiet quiet, if_true]
      rfl

/-- The answer of the fourth step (R48). -/
def abortedAnswer (i : SlotNo) (s : State) : Option Answer :=
  (takenHeader s i).map fun h => ⟨.resetAborted, h.kind, h.tag, s.office.clock, .none⟩

theorem answerAborted_swept {s : State} (quiet : s.host.busIn = none) (running : s.exch.state = .running) :
    Swept (fun i => abortedAnswer i s) s (forSlots answerAborted s) := by
  refine Swept.forSlots (fun i s quiet running => ?_) (fun i s t header context _ office => ?_) quiet running
  · unfold answerAborted abortedAnswer
    cases takenHeader s i with
    | none => rfl
    | some h =>
      simp only [tryAnswer, access_quiet quiet, if_true]
      rfl
  · unfold abortedAnswer
    rw [takenHeader_eq, takenHeader_eq, header, context, office]

/-- The answer of the fifth step to a slot of some of the sources that is behind (R41). -/
def staleAnswer (srcs : List Source) (i : SlotNo) (s : State) : Option Answer :=
  (postedHeader s i).bind fun h => (headerSource h).bind fun v =>
    if v ∈ srcs ∧ behind h.tag s.exch.tags[v] = true then some ⟨.staleTag, h.kind, h.tag, s.office.clock, .none⟩ else none

theorem staleAnswer_congr {srcs : List Source} {i : SlotNo} {s t : State} (posted : postedHeader t i = postedHeader s i)
    (tags : t.exch.tags = s.exch.tags) (office : t.office = s.office) : staleAnswer srcs i t = staleAnswer srcs i s := by
  unfold staleAnswer
  rw [posted, tags, office]

theorem answerStale_swept (src : Source) {s : State} (quiet : s.host.busIn = none) (running : s.exch.state = .running) :
    Swept (fun i => staleAnswer [src] i s) s (answerStale src s) := by
  refine Swept.forSlots (fun i s quiet running => ?_) (fun i s t header context tags office => ?_) quiet running
  · unfold slotBehind answerPosted staleAnswer
    cases posted : postedHeader s i with
    | none => rfl
    | some h =>
      simp only [Option.any_some, Option.bind_some, List.mem_singleton]
      rw [answerDirect_eq quiet running]
      cases source : headerSource h with
      | none => rfl
      | some v =>
        simp only [Option.some_inj, Option.bind_some, Bool.and_eq_true, decide_eq_true_eq]
        by_cases here : v = src ∧ behind h.tag s.exch.tags[src] = true
        · obtain ⟨rfl, late⟩ := here
          rw [if_pos ⟨rfl, late⟩, if_pos ⟨rfl, late⟩]
          rfl
        · have apart : ¬ (v = src ∧ behind h.tag s.exch.tags[v] = true) := fun ⟨same, late⟩ => here ⟨same, same ▸ late⟩
          rw [if_neg here, if_neg apart]
          rfl
  · exact staleAnswer_congr (by rw [postedHeader_eq, postedHeader_eq, header, context]) tags office

/-- The slots of some sources that are behind answered, source by source (R41). -/
@[irreducible] def staled (srcs : List Source) (s : State) : State := srcs.foldl (fun s src => answerStale src s) s

theorem staled_nil (s : State) : staled [] s = s := by
  unfold staled
  rfl

theorem staled_cons (src : Source) (srcs : List Source) (s : State) : staled (src :: srcs) s = staled srcs (answerStale src s) := by
  rw [staled, List.foldl_cons, staled]

theorem sweepStale_eq (s : State) : sweepStale s = forSlots answerBadSource (staled (List.finRange 13) s) := by
  rw [staled, sweepStale]

theorem staled_swept : ∀ (srcs : List Source) (s : State), s.host.busIn = none → s.exch.state = .running →
    Swept (fun i => staleAnswer srcs i s) s (staled srcs s)
  | [], s, quiet, running => by
    rw [staled_nil]
    refine (Swept.refl quiet running).congr fun i => ?_
    unfold staleAnswer
    cases postedHeader s i with
    | none => rfl
    | some h => cases headerSource h <;> simp
  | src :: srcs, s, quiet, running => by
    have first := answerStale_swept src quiet running
    rw [staled_cons]
    refine (first.trans (staled_swept srcs _ first.quiet first.running) fun i a is => ?_).congr fun i => ?_
    · rw [staleAnswer, (first.settled is).1]
      rfl
    · cases is : staleAnswer [src] i s with
      | some a =>
        unfold staleAnswer at is ⊢
        cases posted : postedHeader s i with
        | none => rw [posted] at is; cases is
        | some h =>
          rw [posted] at is
          cases source : headerSource h with
          | none => rw [Option.bind_some, source] at is; cases is
          | some v =>
            simp only [Option.bind_some, source, List.mem_singleton] at is ⊢
            split at is
            next here =>
              rw [if_pos ⟨List.mem_cons.2 (.inl here.1), here.2⟩, ← is]
              rfl
            · cases is
      | none =>
        rw [Option.none_or, staleAnswer_congr (first.reads is).1 first.tags (by rw [first.rest])]
        unfold staleAnswer at is ⊢
        cases posted : postedHeader s i with
        | none => rfl
        | some h =>
          rw [posted] at is
          cases source : headerSource h with
          | none => simp only [Option.bind_some, source, Option.bind_none]
          | some v =>
            simp only [Option.bind_some, source, List.mem_singleton] at is ⊢
            split at is
            · cases is
            next apart =>
              refine if_congr ⟨fun here => ⟨List.mem_cons_of_mem _ here.1, here.2⟩, fun here => ⟨?_, here.2⟩⟩ rfl rfl
              rcases List.mem_cons.1 here.1 with same | later
              · exact absurd ⟨same, here.2⟩ apart
              · exact later

/-- The answer of the fifth step to a slot whose source lies above 12 (R40). -/
def strayAnswer (i : SlotNo) (s : State) : Option Answer :=
  (postedHeader s i).bind fun h => if headerSource h = none then some ⟨.badForm, h.kind, h.tag, s.office.clock, .none⟩ else none

theorem answerBadSource_swept {s : State} (quiet : s.host.busIn = none) (running : s.exch.state = .running) :
    Swept (fun i => strayAnswer i s) s (forSlots answerBadSource s) := by
  refine Swept.forSlots (fun i s quiet running => ?_) (fun i s t header context _ office => ?_) quiet running
  · unfold answerBadSource strayAnswer
    cases postedHeader s i with
    | none => rfl
    | some h =>
      simp only [Option.bind_some, answerDirect_eq quiet running]
      split <;> rfl
  · unfold strayAnswer
    rw [postedHeader_eq, postedHeader_eq, header, context, office]

theorem strayAnswer_congr {i : SlotNo} {s t : State} (posted : postedHeader t i = postedHeader s i)
    (office : t.office = s.office) : strayAnswer i t = strayAnswer i s := by
  unfold strayAnswer
  rw [posted, office]

theorem swept_strays {A : SlotNo → Option Answer} {s u : State} (h : Swept A s u) :
    Swept (fun i => (A i).or (strayAnswer i s)) s (forSlots answerBadSource u) := by
  refine (h.trans (answerBadSource_swept h.quiet h.running) fun i a is => ?_).congr fun i => ?_
  · rw [strayAnswer, (h.settled is).1]
    rfl
  · cases is : A i with
    | some a => rfl
    | none => rw [Option.none_or, Option.none_or, strayAnswer_congr (h.reads is).1 (by rw [h.rest])]

/-- The fifth step (R40, R41). -/
theorem sweepStale_swept {s : State} (quiet : s.host.busIn = none) (running : s.exch.state = .running) :
    Swept (fun i => (staleAnswer (List.finRange 13) i s).or (strayAnswer i s)) s (sweepStale s) := by
  rw [sweepStale_eq]
  exact swept_strays (staled_swept (List.finRange 13) s quiet running)

end Sys2Proof.Machine
end

section
/-! What the steps of a sweep do (O36). -/

namespace Sys2Proof.Machine

theorem read_eq_step_one {s : State} {w : Sweep} (running : s.exch.state = .running) (quiet : s.host.busIn = none)
    (sweep : s.exch.sweep = some w) (step : w.step = 1) (holding : s.journal.holding = []) (overflow : s.journal.overflow = [])
    (release : Nat) (hs : Table 64 Header) {low : Bool}
    (is : low = decide (s.journal.n - 1 - (s.journal.head + (s.journal.n - release % s.journal.n)) % s.journal.n < 64)) :
    sweepStep release hs s = { s with
      journal := { s.journal with release := some (release % s.journal.n), closed := low }
      exch := { s.exch with
        sweep := some { w with step := 2, headers := hs, marksRead := s.exch.marks }
        alerts := { s.exch.alerts with pressure := s.exch.alerts.pressure || low } }
      host := s.host.readSlots hs } := by
  have exch := stepped_sweep sweep
  have running' : (stepped s).exch.state = .running := by rw [exch]; exact running
  have going : (stepped s).exch.sweep.isSome = true := by rw [exch]; rfl
  rw [sweepStep_one sweep step, sweepRead_dry (s := stepped s) (low := low) quiet running' going holding overflow release hs is, exch, step]
  rfl

theorem readSlots_slot (h : HostMem) (hs : Table 64 Header) (i : SlotNo) :
    (h.readSlots hs).slots[i] = { h.slots[i] with state := hs[i].state } := by
  unfold HostMem.readSlots
  exact Vector.getElem_zipWith ..

theorem headerSource_some {h : Header} {v : Source} : headerSource h = some v ↔ h.source.toNat = v.val := toIdx_eq_some

theorem headerSource_none {h : Header} : headerSource h = none ↔ 12 < h.source.toNat := by
  rw [headerSource, toIdx_eq_none]
  omega

/-- The pending answer of a slot that has one alone is the first. -/
theorem find_slot_of_mem {ps : List (SlotNo × Answer)} (once : (ps.map Prod.fst).Nodup) {p : SlotNo × Answer} (mem : p ∈ ps) :
    ps.find? (fun q => decide (q.1 = p.1)) = some p := by
  induction ps with
  | nil => cases mem
  | cons q qs ih =>
    obtain ⟨fresh, rest⟩ := List.nodup_cons.1 once
    rcases List.mem_cons.1 mem with rfl | later
    · exact List.find?_cons_of_pos (decide_eq_true rfl)
    · rw [List.find?_cons_of_neg, ih rest later]
      rw [decide_eq_true_eq]
      exact fun same => fresh (same ▸ List.mem_map_of_mem later)

theorem find_slot_of_not_mem {ps : List (SlotNo × Answer)} {i : SlotNo} (out : i ∉ ps.map Prod.fst) :
    ps.find? (fun q => decide (q.1 = i)) = none := by
  rw [List.find?_eq_none]
  intro q mem
  rw [decide_eq_true_eq]
  exact fun same => out (same ▸ List.mem_map_of_mem mem)

/-- The answer of the fifth step to a slot that reads POSTED without a context. -/
theorem staleAnswer_of {s : State} {w : Sweep} {i : SlotNo} {v : Source} (sweep : s.exch.sweep = some w)
    (posted : w.headers[i].state = 1) (context : s.exch.contexts[i] = none) (source : w.headers[i].source.toNat = v.val) :
    staleAnswer (List.finRange 13) i s = if behind w.headers[i].tag s.exch.tags[v] = true then
      some ⟨.staleTag, w.headers[i].kind, w.headers[i].tag, s.office.clock, .none⟩ else none := by
  unfold staleAnswer
  rw [postedHeader_some.2 ⟨heldHeader_of sweep i, posted, context⟩, Option.bind_some, headerSource_some.2 source, Option.bind_some]
  exact if_congr (and_iff_right (List.mem_finRange v)) rfl rfl

theorem staleAnswer_stray {s : State} {i : SlotNo} (stray : ∀ h, postedHeader s i = some h → headerSource h = none) :
    staleAnswer (List.finRange 13) i s = none := by
  unfold staleAnswer
  cases posted : postedHeader s i with
  | none => rfl
  | some h => rw [Option.bind_some, stray h posted, Option.bind_none]

theorem strayAnswer_stray {s : State} {i : SlotNo} {h : Header} (posted : postedHeader s i = some h) (stray : headerSource h = none) :
    strayAnswer i s = some ⟨.badForm, h.kind, h.tag, s.office.clock, .none⟩ := by
  unfold strayAnswer
  rw [posted, Option.bind_some, if_pos stray]

theorem strayAnswer_none {s : State} {i : SlotNo} (known : ∀ h, postedHeader s i = some h → headerSource h ≠ none) :
    strayAnswer i s = none := by
  unfold strayAnswer
  cases posted : postedHeader s i with
  | none => rfl
  | some h => rw [Option.bind_some, if_neg (known h posted)]

/-- The first two steps of a sweep. -/
theorem sweep_reads_and_settles {s : State} {w : Sweep} (release : BitVec 32) (hs : Table 64 Header)
    (running : s.exch.state = .running) (quiet : s.host.busIn = none) (sweep : s.exch.sweep = some w) :
    (w.step = 1 → s.journal.holding = [] → s.journal.overflow = [] →
      ∃ t, exec (.sweep 1 release hs ⟨none, none⟩) s = .next t ∧
        t = { s with journal := t.journal, exch := t.exch, host := t.host } ∧
        t.journal = { s.journal with
          release := some (release.toNat % s.journal.n)
          closed := decide (s.journal.n - 1 -
            (s.journal.head + (s.journal.n - release.toNat % s.journal.n)) % s.journal.n < 64) } ∧
        t.exch = { s.exch with
          sweep := some { w with step := 2, headers := hs, marksRead := s.exch.marks }
          alerts := { s.exch.alerts with pressure := s.exch.alerts.pressure || t.journal.closed } } ∧
        t.host = { s.host with slots := t.host.slots } ∧
        ∀ i : SlotNo, t.host.slots[i] = { s.host.slots[i] with state := hs[i].state }) ∧
    (w.step = 2 →
      ∃ t, exec (.sweep 1 release hs ⟨none, none⟩) s = .next t ∧ t = { s with exch := t.exch } ∧
        t.exch = { s.exch with sweep := some { w with step := 3 }, marks := t.exch.marks } ∧
        ∀ i : SlotNo, t.exch.marks[i] = true ↔
          s.exch.marks[i] = true ∧ ¬ (w.marksRead[i] = true ∧ (w.headers[i].state = 0 ∨ w.headers[i].state = 1))) := by
  refine ⟨fun step holding overflow => ⟨_, exec_sweep_step quiet release hs, ?_⟩, fun step => ⟨_, exec_sweep_step quiet release hs, ?_⟩⟩
  · rw [read_eq_step_one running quiet sweep step holding overflow release.toNat hs rfl]
    exact ⟨rfl, rfl, rfl, rfl, fun i => readSlots_slot s.host hs i⟩
  · have exch := stepped_sweep sweep
    have sweep' : (stepped s).exch.sweep = some { w with step := w.step + 1 } := by rw [exch]
    obtain ⟨is, marks⟩ := settleReturned_mark sweep'
    rw [sweepStep_two sweep step]
    refine ⟨rfl, ?_, fun i => marks i⟩
    rw [State.onExch_exch, is, exch, step]

/-- The registers stand with the answers held pending and the flag of the first sweep as they may be. -/
theorem SameRegisters.answers {x y : ExchangeController} (h : SameRegisters x y) (ps : List (SlotNo × Answer)) (due : Bool) :
    SameRegisters x { y with pendingAns := ps, abortDue := due } :=
  ⟨h.areaBase, h.enable, h.answerNotice, h.journalNotice, h.alertNotice, h.period, h.latchedCount, h.latchedOffset⟩

/-- The third and fourth steps of a sweep. -/
theorem sweep_answers {s : State} {w : Sweep} (release : BitVec 32) (hs : Table 64 Header)
    (running : s.exch.state = .running) (quiet : s.host.busIn = none) (sweep : s.exch.sweep = some w) :
    (w.step = 3 → (s.exch.pendingAns.map Prod.fst).Nodup →
      ∃ t, exec (.sweep 1 release hs ⟨none, none⟩) s = .next t ∧ t = { s with exch := t.exch, host := t.host } ∧
        (∀ p ∈ s.exch.pendingAns, AnsweredSlot t p.1 p.2) ∧
        (∀ i : SlotNo, i ∉ s.exch.pendingAns.map Prod.fst → SlotKept s t i) ∧
        t.exch.pendingAns = [] ∧ t.exch.tags = s.exch.tags ∧ SameRegisters s.exch t.exch) ∧
    (w.step = 4 → s.exch.abortDue = true →
      ∃ t, exec (.sweep 1 release hs ⟨none, none⟩) s = .next t ∧ t = { s with exch := t.exch, host := t.host } ∧
        (∀ i : SlotNo, w.headers[i].state = 2 → s.exch.contexts[i] = none →
          AnsweredSlot t i ⟨.resetAborted, w.headers[i].kind, w.headers[i].tag, s.office.clock, .none⟩) ∧
        (∀ i : SlotNo, ¬ (w.headers[i].state = 2 ∧ s.exch.contexts[i] = none) → SlotKept s t i) ∧
        t.exch.abortDue = false ∧ t.exch.tags = s.exch.tags ∧ SameRegisters s.exch t.exch) ∧
    (w.step = 4 → s.exch.abortDue = false →
      exec (.sweep 1 release hs ⟨none, none⟩) s = .next { s with exch := { s.exch with sweep := some { w with step := 5 } } }) := by
  have exch := stepped_sweep sweep
  have running' : (stepped s).exch.state = .running := by rw [exch]; exact running
  refine ⟨fun step once => ⟨_, exec_sweep_step quiet release hs, ?_⟩, fun step due => ⟨_, exec_sweep_step quiet release hs, ?_⟩,
    fun step due => ?_⟩
  · obtain ⟨u, swept, is⟩ := writePending_swept s.exch.pendingAns (stepped s) once quiet running'
    rw [sweepStep_three sweep step, is]
    refine ⟨?_, fun p mem => ?_, fun i out => ?_, rfl, swept.tags,
      ((stepped_kept s).trans swept.kept).registers.answers _ _⟩
    · rw [swept.rest]
      rfl
    · obtain ⟨answered, -⟩ := swept.answered p.1 p.2 (by rw [find_slot_of_mem once mem]; rfl)
      exact ⟨answered.slot, answered.mark, answered.context⟩
    · obtain ⟨kept, -⟩ := swept.left i (by rw [find_slot_of_not_mem out]; rfl)
      exact ⟨kept.slot, kept.mark, kept.context⟩
  · have swept := answerAborted_swept (s := stepped s) quiet running'
    have due' : (stepped s).exch.abortDue = true := due
    have going : (forSlots answerAborted (stepped s)).exch.sweep.isSome = true := by rw [swept.sweep, exch]; rfl
    rw [sweepStep_four sweep step]
    simp only [sweepAborted, due', if_true, going]
    generalize forSlots answerAborted (stepped s) = u at swept
    refine ⟨?_, fun i taken context => ?_, fun i other => ?_, rfl, swept.tags,
      ((stepped_kept s).trans swept.kept).registers.answers _ _⟩
    · rw [swept.rest]
      rfl
    · have header : takenHeader (stepped s) i = some w.headers[i] := by
        rw [takenHeader_stepped]
        exact takenHeader_some.2 ⟨heldHeader_of sweep i, taken, context⟩
      obtain ⟨answered, -⟩ := swept.answered i _ (by rw [abortedAnswer, header]; rfl)
      exact ⟨answered.slot, answered.mark, answered.context⟩
    · have header : takenHeader (stepped s) i = none := by
        rw [takenHeader_stepped, Option.eq_none_iff_forall_ne_some]
        intro h is
        obtain ⟨held, taken, context⟩ := takenHeader_some.1 is
        obtain rfl := Option.some_inj.1 ((heldHeader_of sweep i).symm.trans held)
        exact other ⟨taken, context⟩
      obtain ⟨kept, -⟩ := swept.left i (by rw [abortedAnswer, header]; rfl)
      exact ⟨kept.slot, kept.mark, kept.context⟩
  · have due' : (stepped s).exch.abortDue = false := due
    rw [exec_sweep_step quiet, sweepStep_four sweep step]
    simp only [sweepAborted, due', Bool.false_eq_true, if_false]
    show Host.Outcome.next { s with exch := (stepped s).exch } = _
    rw [exch, step]

/-- The fifth step of a sweep. -/
theorem sweep_finds_stale {s : State} {w : Sweep} (release : BitVec 32) (hs : Table 64 Header)
    (running : s.exch.state = .running) (quiet : s.host.busIn = none) (sweep : s.exch.sweep = some w) (step : w.step = 5) :
    ∃ t, exec (.sweep 1 release hs ⟨none, none⟩) s = .next t ∧ t = { s with exch := t.exch, host := t.host } ∧
      (∀ (i : SlotNo) (v : Source), w.headers[i].state = 1 → s.exch.contexts[i] = none →
        w.headers[i].source.toNat = v.val → 32768 ≤ (w.headers[i].tag - s.exch.tags[v]).toNat →
        AnsweredSlot t i ⟨.staleTag, w.headers[i].kind, w.headers[i].tag, s.office.clock, .none⟩) ∧
      (∀ i : SlotNo, w.headers[i].state = 1 → s.exch.contexts[i] = none → 12 < w.headers[i].source.toNat →
        AnsweredSlot t i ⟨.badForm, w.headers[i].kind, w.headers[i].tag, s.office.clock, .none⟩) ∧
      (∀ i : SlotNo, (w.headers[i].state ≠ 1 ∨ s.exch.contexts[i] ≠ none ∨
          ∃ v : Source, w.headers[i].source.toNat = v.val ∧ (w.headers[i].tag - s.exch.tags[v]).toNat < 32768) →
        SlotKept s t i) ∧
      t.exch.tags = s.exch.tags ∧ ExchangeKept s.exch t.exch := by
  refine ⟨_, exec_sweep_step quiet release hs, ?_⟩
  rw [sweepStep_five sweep step]
  have exch := stepped_sweep sweep
  have running' : (stepped s).exch.state = .running := by rw [exch]; exact running
  have swept := sweepStale_swept (s := stepped s) quiet running'
  have answers : ∀ i, (staleAnswer (List.finRange 13) i (stepped s)).or (strayAnswer i (stepped s)) =
      (staleAnswer (List.finRange 13) i s).or (strayAnswer i s) := fun i => by
    rw [staleAnswer_congr (postedHeader_stepped s i) rfl rfl, strayAnswer_congr (postedHeader_stepped s i) rfl]
  generalize sweepStale (stepped s) = u at swept
  refine ⟨swept.rest.trans (stepped_rest s _ _), fun i v posted context source late => ?_, fun i posted context above => ?_,
    fun i other => ?_, swept.tags, (stepped_kept s).trans swept.kept⟩
  · refine (swept.answered i _ ?_).1
    have late' : behind w.headers[i].tag s.exch.tags[v] = true := decide_eq_true late
    rw [answers, staleAnswer_of sweep posted context source, if_pos late', Option.some_or]
  · have stray := headerSource_none.2 above
    have header := postedHeader_some.2 ⟨heldHeader_of sweep i, posted, context⟩
    refine (swept.answered i _ ?_).1
    rw [answers, staleAnswer_stray fun h is => by rw [← Option.some_inj.1 (header.symm.trans is)]; exact stray, Option.none_or,
      strayAnswer_stray header stray]
  · obtain ⟨kept, -⟩ := swept.left i (by
      rw [answers, Option.or_eq_none_iff]
      by_cases header : w.headers[i].state = 1 ∧ s.exch.contexts[i] = none
      · obtain ⟨posted, context⟩ := header
        obtain ⟨v, source, early⟩ := (other.resolve_left fun h => h posted).resolve_left fun h => h context
        refine ⟨?_, strayAnswer_none fun h is => ?_⟩
        · have early' : ¬ behind w.headers[i].tag s.exch.tags[v] = true := fun late => Nat.not_le.2 early (of_decide_eq_true late)
          rw [staleAnswer_of sweep posted context source, if_neg early']
        · obtain ⟨held, -⟩ := postedHeader_some.1 is
          rw [← Option.some_inj.1 ((heldHeader_of sweep i).symm.trans held), headerSource_some.2 source]
          exact Option.some_ne_none _
      · have none : ∀ h, postedHeader s i ≠ some h := fun h is => by
          obtain ⟨held, posted, context⟩ := postedHeader_some.1 is
          obtain rfl := Option.some_inj.1 ((heldHeader_of sweep i).symm.trans held)
          exact header ⟨posted, context⟩
        exact ⟨staleAnswer_stray fun h is => absurd is (none h), strayAnswer_none fun h is => absurd is (none h)⟩)
    exact ⟨kept.slot, kept.mark, kept.context⟩

/-- With no step to be made a SWEEP of any number changes nothing. -/
theorem exec_sweep_idle {s : State} (quiet : s.host.busIn = none) (idle : ∀ w, s.exch.sweep = some w → 7 ≤ w.step) (n : Nat)
    (release : BitVec 32) (hs : Table 64 Header) (bus : Option Nat) : exec (.sweep n release hs ⟨bus, none⟩) s = .next s := by
  have rest : sweepSteps n release.toNat hs (s.setBus bus) = s.setBus bus :=
    sweepSteps_idle (s := s.setBus bus) idle release.toNat hs n
  show Host.Outcome.next ((sweepSteps n release.toNat hs (s.setBus bus)).setBus none) = _
  rw [rest]
  show Host.Outcome.next (s.setBus none) = _
  rw [setBus_quiet quiet]

theorem exec_sweep_succ {s : State} (quiet : s.host.busIn = none) (n : Nat) (release : BitVec 32) (hs : Table 64 Header) :
    exec (.sweep (n + 1) release hs ⟨none, none⟩) s = exec (.sweep n release hs ⟨none, none⟩) (sweepStep release.toNat hs s) := by
  show Host.Outcome.next ((sweepSteps n release.toNat hs (sweepStep release.toNat hs (s.setBus none))).setBus none) =
    .next ((sweepSteps n release.toNat hs ((sweepStep release.toNat hs s).setBus none)).setBus none)
  rw [setBus_quiet quiet, setBus_quiet (Calm.sweepStep release.toNat hs s quiet)]

/-- Settles O36: each of the first five steps by its number, and the number of steps of a SWEEP. -/
theorem sweepReadsAndAnswers : Obligations.SweepReadsAndAnswers := by
  refine ⟨fun s w release hs running quiet sweep => sweep_reads_and_settles release hs running quiet sweep,
    fun s w release hs running quiet sweep => sweep_answers release hs running quiet sweep,
    fun s w release hs running quiet sweep step => sweep_finds_stale release hs running quiet sweep step,
    fun s n release hs quiet => ⟨?_, ⟨_, exec_sweep_step quiet release hs, exec_sweep_succ quiet n release hs⟩,
      fun idle bus => exec_sweep_idle quiet idle n release hs bus, fun bus k => ⟨_, rfl, ?_⟩⟩⟩
  · show Host.Outcome.next ((s.setBus none).setBus none) = _
    rw [setBus_quiet quiet, setBus_quiet quiet]
  · rw [exec_reset_command]
    rfl

end Sys2Proof.Machine
end

section
/-! The service of the sources where no slot is behind (O38, O40), and what is decided of an order before its owner (R42 to R45). -/

namespace Sys2Proof.Machine

/-! ### Sources served with no slot behind (R41) -/

/-- No slot of the source is behind its expected tag. -/
def NoneBehind (s : State) (src : Source) : Prop := ∀ i, slotBehind s src i = false

theorem noneBehind_iff {s : State} {src : Source} :
    NoneBehind s src ↔ ∀ i h, postedHeader s i = some h → headerSource h = some src → behind h.tag s.exch.tags[src] = false := by
  refine forall_congr' fun i => ?_
  unfold slotBehind
  cases postedHeader s i with
  | none => simp
  | some h => simp

theorem foldl_fixed {α : Type} {f : State → α → State} {s : State} (fixed : ∀ a, f s a = s) : ∀ as : List α, as.foldl f s = s
  | [] => rfl
  | a :: as => by rw [List.foldl_cons, fixed a, foldl_fixed fixed as]

theorem forSlots_fixed {f : SlotNo → State → State} {s : State} (fixed : ∀ i, f i s = s) : forSlots f s = s := by
  unfold forSlots
  generalize List.finRange 64 = is
  exact foldl_fixed (f := fun s i => f i s) fixed is

theorem answerStale_none {s : State} {src : Source} (none : NoneBehind s src) : answerStale src s = s := by
  unfold answerStale
  refine forSlots_fixed fun i => ?_
  rw [if_neg]
  rw [none i]
  exact Bool.false_ne_true

/-- The lowest slot at the expected tag. -/
theorem offerOf_some {s : State} {src : Source} {i : SlotNo} (at' : slotAtTag s src i = true)
    (first : ∀ j, j < i → slotAtTag s src j = false) : offerOf s src = some i := by
  refine List.find?_eq_some_iff_getElem.2 ⟨at', i.val, by rw [List.length_finRange]; exact i.isLt, ?_, fun j before => ?_⟩
  · rw [List.getElem_finRange]
    rfl
  · rw [List.getElem_finRange, first _ before]
    rfl

theorem offerOf_none {s : State} {src : Source} (none : ∀ j, slotAtTag s src j = false) : offerOf s src = .none :=
  List.find?_eq_none.2 fun j _ => by rw [none j]; exact Bool.false_ne_true

/-- A source with no slot to answer or to offer is passed over. -/
theorem serve_skip {s : State} {src : Source} (rest : List Source) (going : s.exch.sweep.isSome = true) (behind : NoneBehind s src)
    (none : ∀ j, slotAtTag s src j = false) : serve (src :: rest) s = serve rest s := by
  have going : s.exch.sweep.isNone = false := by rw [← Option.not_isSome, going]; rfl
  rw [serve, answerStale_none behind, offerNext]
  simp only [going, Bool.false_eq_true, if_false, offerOf_none none]

/-- The first source that has a slot at its expected tag has it offered. -/
theorem serve_offers {s : State} {v : Source} {i : SlotNo} (later : List Source) (going : s.exch.sweep.isSome = true)
    (at' : slotAtTag s v i = true) (first : ∀ j, j < i → slotAtTag s v j = false) : ∀ before : List Source,
    (∀ x ∈ before, ∀ j, slotAtTag s x j = false) → (∀ x ∈ before ++ v :: later, NoneBehind s x) →
    serve (before ++ v :: later) s = s.onSweep fun w => { w with remaining := v :: later, offered := some i }
  | [], _, behind => by
    have going : s.exch.sweep.isNone = false := by rw [← Option.not_isSome, going]; rfl
    rw [List.nil_append, serve, answerStale_none (behind v List.mem_cons_self), offerNext]
    simp only [going, Bool.false_eq_true, if_false, offerOf_some at' first]
  | x :: before, away, behind => by
    rw [List.cons_append, serve_skip _ going (behind x List.mem_cons_self) (away x List.mem_cons_self)]
    exact serve_offers later going at' first before (fun y mem => away y (List.mem_cons_of_mem _ mem)) fun y mem =>
      behind y (List.mem_cons_of_mem _ mem)

/-- With no slot of any source at its expected tag the sweep ends. -/
theorem serve_ends {s : State} (going : s.exch.sweep.isSome = true) : ∀ srcs : List Source,
    (∀ x ∈ srcs, ∀ j, slotAtTag s x j = false) → (∀ x ∈ srcs, NoneBehind s x) → serve srcs s = s.onExch ExchangeController.endSweep
  | [], _, _ => rfl
  | x :: srcs, away, behind => by
    rw [serve_skip _ going (behind x List.mem_cons_self) (away x List.mem_cons_self)]
    exact serve_ends going srcs (fun y mem => away y (List.mem_cons_of_mem _ mem)) fun y mem => behind y (List.mem_cons_of_mem _ mem)

/-- The slots at their tags and behind them are those that the sweep holds, by the contexts and the expected tags. -/
theorem slotAtTag_congr {s t : State} (posted : ∀ i, postedHeader t i = postedHeader s i) (tags : t.exch.tags = s.exch.tags)
    (src : Source) (i : SlotNo) : slotAtTag t src i = slotAtTag s src i ∧ slotBehind t src i = slotBehind s src i := by
  unfold slotAtTag slotBehind
  rw [posted, tags]
  exact ⟨rfl, rfl⟩

theorem postedHeader_held {s t : State} {i : SlotNo} (held : heldHeader t i = heldHeader s i)
    (contexts : t.exch.contexts = s.exch.contexts) : postedHeader t i = postedHeader s i := by
  rw [postedHeader_eq, postedHeader_eq, held, contexts]

theorem rotation_eq (start : Source) : rotation start = (List.range' 0 13).map fun m => start + Fin.ofNat 13 m := by
  have order : List.finRange 13 = (List.range' 0 13).map (Fin.ofNat 13) := by decide
  rw [rotation, order, List.map_map]
  rfl

/-- The sources from the one that the sweep begins with, split at the n-th. -/
theorem rotation_split (start : Source) {n : Nat} (low : n < 13) : rotation start =
    ((List.range' 0 n).map fun m => start + Fin.ofNat 13 m) ++
      (start + Fin.ofNat 13 n) :: ((List.range' (n + 1) (12 - n)).map fun m => start + Fin.ofNat 13 m) := by
  have split : List.range' 0 13 = List.range' 0 n ++ List.range' n (13 - n) := by
    have parts := List.range'_append (s := 0) (m := n) (n := 13 - n) (step := 1)
    rw [one_mul, Nat.zero_add, Nat.add_sub_of_le (by omega)] at parts
    exact parts.symm
  have head : List.range' n (13 - n) = n :: List.range' (n + 1) (12 - n) := by
    rw [show 13 - n = 12 - n + 1 by omega, List.range'_succ]
  rw [rotation_eq, split, head, List.map_append, List.map_cons]

theorem sweep_timer_of_period (p : Byte) : max 1 p.toNat = if p = 0 then 1 else p.toNat := by
  split
  next zero => rw [zero]; rfl
  next more =>
    have : p.toNat ≠ 0 := fun none => more (BitVec.eq_of_toNat_eq none)
    omega

theorem endSweep_eq (x : ExchangeController) : x.endSweep =
    if x.stopAtEnd = true then
      { x with sweep := none, timer := none, again := false, stopAtEnd := false, state := if x.enable then .starting else .stopped }
    else if x.again = true then { x with sweep := some Sweep.fresh, timer := none, again := false }
    else { x with sweep := none, timer := some (if x.period = 0 then 1 else x.period.toNat) } := by
  unfold ExchangeController.endSweep
  rw [sweep_timer_of_period]
  rfl

/-- Settles O38: the sources are served in rotation with no slot behind. -/
theorem sweepOffersInRotation : Obligations.SweepOffersInRotation := by
  intro s w release hs running quiet sweep step fresh
  refine ⟨_, exec_sweep_step quiet release hs, ?_⟩
  obtain ⟨u, served, posted, exch, rest⟩ : ∃ u, sweepStep release.toNat hs s = serve (rotation s.exch.nextStart) u ∧
      (∀ i, postedHeader u i = postedHeader s i) ∧
      u.exch = { s.exch with sweep := some { w with step := 7 }, nextStart := s.exch.nextStart + 1 } ∧
      u = { s with exch := u.exch } := by
    refine ⟨(stepped s).onExch fun x => { x with nextStart := x.nextStart + 1 }, ?_, postedHeader_stepped s, ?_, rfl⟩
    · rw [sweepStep_six sweep step]
      rfl
    · rw [State.onExch_exch, stepped_sweep sweep, step]
  have going : u.exch.sweep.isSome = true := by rw [exch]; rfl
  have tags : u.exch.tags = s.exch.tags := by rw [exch]
  have at' : ∀ v j, slotAtTag u v j = slotAtTag s v j := fun v j => (slotAtTag_congr posted tags v j).1
  have none : ∀ v, NoneBehind u v := fun v => noneBehind_iff.2 fun i h is source => by
    rw [tags]
    exact fresh i h v (by rw [← posted]; exact is) source
  rw [served]
  refine ⟨fun n i src low is before here first => ?_, fun nowhere => ?_⟩
  · subst is
    rw [rotation_split s.exch.nextStart low, serve_offers _ going (by rw [at']; exact here) (fun j lt => by rw [at']; exact first j lt) _
      (fun x mem j => ?_) fun x _ => none x]
    · rw [rest, show 13 - n = 12 - n + 1 by omega, List.range'_succ, List.map_cons]
      unfold State.onSweep State.onExch
      rw [exch]
      rfl
    · obtain ⟨m, range, rfl⟩ := List.mem_map.1 mem
      rw [at']
      exact before m (by simpa using range) j
  · rw [serve_ends going _ (fun x _ j => by rw [at']; exact nowhere x j) fun x _ => none x, rest]
    unfold State.onExch
    rw [exch, endSweep_eq]

/-! ### The rule and the owner of an order command (R43, R45) -/

/-- Who decides an order command, given its source, tag and attachment. -/
abbrev Owner : Type := Source → Tag → Option (List Byte) → State → Verdict

/-- A code of none of the 18 kinds, as an order that its owner refuses (R43). -/
def unknownRule (code : Byte) : OrderRule := ⟨code, false, false, true, fun _ => true⟩

/-- The owner of each order command. -/
def ownerOf : Instr → Owner
  | .officeOpen _ b _ => fun _ _ _ => officeOpenVerdict b
  | .dayClose _ _ => fun _ _ _ => dayCloseVerdict
  | .setDiscounts _ n _ => fun _ _ att _ => setDiscountsVerdict n att
  | .setRefundFees _ ps _ => fun _ _ _ => setRefundFeesVerdict ps
  | .setLayout _ n _ => fun _ _ att _ => setLayoutVerdict n att
  | .stockReceive _ k f n _ => fun _ _ _ => stockReceiveVerdict k f n
  | .magazineLoad _ l k f n _ => fun _ _ _ => magazineLoadVerdict l k f n
  | .magazineUnload _ l _ => fun _ _ _ => magazineUnloadVerdict l
  | .laneStart _ l _ => fun _ _ _ => laneStartVerdict l
  | .lanePark _ l _ => fun _ _ _ => laneParkVerdict l
  | .faultClear _ b _ => fun _ _ _ => faultClearVerdict b
  | .shiftOpen _ c f h a _ => fun src _ _ s => forWindow src fun w => shiftOpenVerdict c f h a w s
  | .issue o b _ => fun src tag att s => forWindow src fun w => issueVerdict o tag b att w s
  | .void _ k n _ => fun src _ _ s => forWindow src fun w => voidVerdict k n w s
  | .refund _ k n r _ => fun src _ _ s => forWindow src fun w => refundVerdict k n r w s
  | .cashUp o d _ => fun src tag _ s => forWindow src fun w => cashUpVerdict ⟨o.slot, tag, d⟩ w s
  | .cashUpWithdraw _ n _ => fun src _ _ s => match withdrawWindow src n with
    | none => .refuse .outOfRange
    | some w => withdrawVerdict w s
  | .statusRead _ d n _ => fun _ _ _ _ => .accept (writeSnapshot d n) (some (statusReply n))
  | _ => fun _ _ _ _ => .refuse .badForm

/-- What the Exchange Controller knows of an order kind, by its code (R42 to R45). -/
structure RuleOf (code : Byte) (r : OrderRule) : Prop where
  coded     : r.code = code
  permitted : ∀ src, r.permitted src = mayPost code src
  attaches  : r.attaches = true ↔ code = 3 ∨ code = 5 ∨ code = 13
  anyGate   : r.anyGate = true ↔ code = 17 ∨ code = 18
  anyOffice : r.anyOffice = true ↔ code = 1 ∨ code = 18

theorem supervisor_iff (src : Source) : supervisor src = decide (src = 12) := decide_eq_decide.2 (by rw [Fin.ext_iff]; rfl)

theorem windowSource_iff (src : Source) : windowSource src = decide (src ≠ 12) := by
  refine decide_eq_decide.2 ?_
  rw [Ne, Fin.ext_iff]
  have : (12 : Source).val = 12 := rfl
  omega

theorem supervisorRule_of (code : Byte) (attaches : Bool) (low : code.toNat ≤ 11) (first : code ≠ 1)
    (reads : attaches = true ↔ code = 3 ∨ code = 5 ∨ code = 13) : RuleOf code (supervisorRule code attaches) := by
  have bound : ∀ k : Byte, code = k → k.toNat ≤ 11 := fun k same => same ▸ low
  refine ⟨rfl, fun src => ?_, reads, iff_of_false Bool.false_ne_true ?_, iff_of_false Bool.false_ne_true ?_⟩
  · rw [mayPost, if_pos low]
    exact supervisor_iff src
  · rintro (same | same)
    · exact absurd (bound _ same) (by decide)
    · exact absurd (bound _ same) (by decide)
  · rintro (same | same)
    · exact first same
    · exact absurd (bound _ same) (by decide)

theorem windowRule_of (code : Byte) (attaches : Bool) (low : 12 ≤ code.toNat) (high : code.toNat ≤ 16)
    (reads : attaches = true ↔ code = 3 ∨ code = 5 ∨ code = 13) : RuleOf code (windowRule code attaches) := by
  have bound : ∀ k : Byte, code = k → 12 ≤ k.toNat ∧ k.toNat ≤ 16 := fun k same => same ▸ ⟨low, high⟩
  refine ⟨rfl, fun src => ?_, reads, iff_of_false Bool.false_ne_true ?_, iff_of_false Bool.false_ne_true ?_⟩
  · rw [mayPost, if_neg (by omega), if_pos high]
    exact windowSource_iff src
  · rintro (same | same)
    · exact absurd (bound _ same) (by decide)
    · exact absurd (bound _ same) (by decide)
  · rintro (same | same)
    · exact absurd (bound _ same) (by decide)
    · exact absurd (bound _ same) (by decide)

/-- A command is the take of an order of a kind of R45, by its rule, its body and its owner. -/
structure TakenBy (c : Instr) (o : OrderHdr) (code : Byte) (r : OrderRule) (b : OrderBody) : Prop where
  rule : RuleOf code r
  runs : ∀ e s, exec (withEnv e c) s = .next (takeOrder r o b e (ownerOf c) s)

theorem takenBy_of_parts {c : Instr} {o : OrderHdr} {code : Byte} {e : Env} (parts : orderParts c = some (o, code, e)) :
    c = .unknownOrderKind o code e ∨
      withEnv e c = c ∧ (∀ k, c ≠ .unknownOrderKind o k e) ∧ ∃ r b, TakenBy c o code r b := by
  unfold orderParts at parts
  split at parts
  case h_19 => cases parts; exact .inl rfl
  case h_20 => cases parts
  all_goals
    cases parts
    refine .inr ⟨rfl, fun _ h => (nomatch h), ?_⟩
  · exact ⟨officeOpenRule, _, ⟨rfl, fun src => supervisor_iff src, by decide, by decide, by decide⟩, fun _ _ => rfl⟩
  · exact ⟨_, _, supervisorRule_of 2 false (by decide) (by decide) (by decide), fun _ _ => rfl⟩
  · exact ⟨_, _, supervisorRule_of 3 true (by decide) (by decide) (by decide), fun _ _ => rfl⟩
  · exact ⟨_, _, supervisorRule_of 4 false (by decide) (by decide) (by decide), fun _ _ => rfl⟩
  · exact ⟨_, _, supervisorRule_of 5 true (by decide) (by decide) (by decide), fun _ _ => rfl⟩
  · exact ⟨_, _, supervisorRule_of 6 false (by decide) (by decide) (by decide), fun _ _ => rfl⟩
  · exact ⟨_, _, supervisorRule_of 7 false (by decide) (by decide) (by decide), fun _ _ => rfl⟩
  · exact ⟨_, _, supervisorRule_of 8 false (by decide) (by decide) (by decide), fun _ _ => rfl⟩
  · exact ⟨_, _, supervisorRule_of 9 false (by decide) (by decide) (by decide), fun _ _ => rfl⟩
  · exact ⟨_, _, supervisorRule_of 10 false (by decide) (by decide) (by decide), fun _ _ => rfl⟩
  · exact ⟨_, _, supervisorRule_of 11 false (by decide) (by decide) (by decide), fun _ _ => rfl⟩
  · exact ⟨_, _, windowRule_of 12 false (by decide) (by decide) (by decide), fun _ _ => rfl⟩
  · exact ⟨_, _, windowRule_of 13 true (by decide) (by decide) (by decide), fun _ _ => rfl⟩
  · exact ⟨_, _, windowRule_of 14 false (by decide) (by decide) (by decide), fun _ _ => rfl⟩
  · exact ⟨_, _, windowRule_of 15 false (by decide) (by decide) (by decide), fun _ _ => rfl⟩
  · exact ⟨_, _, windowRule_of 16 false (by decide) (by decide) (by decide), fun _ _ => rfl⟩
  · exact ⟨cashUpWithdrawRule, _, ⟨rfl, fun _ => rfl, by decide, by decide, by decide⟩, fun _ _ => rfl⟩
  · exact ⟨statusReadRule, _, ⟨rfl, fun _ => rfl, by decide, by decide, by decide⟩, fun _ _ => rfl⟩

/-- An order of a code of none of the 18 kinds is taken as one that its owner refuses (R43). -/
theorem takeUnknown_eq {code : Byte} (unknown : ¬ (1 ≤ code.toNat ∧ code.toNat ≤ 18)) (o : OrderHdr) (e : Env) (s : State) :
    takeUnknown o code e s = takeOrder (unknownRule code) o .other e (fun _ _ _ _ => .refuse .badForm) s := by
  have verdict : ∀ src (s : State), verdictOf (unknownRule code) o src (fun _ _ => .refuse .badForm) s =
      if s.journal.closed then .wait else .refuse .badForm := fun src s => by
    unfold verdictOf unknownRule readAttachment
    simp only [Bool.not_false, Bool.and_true, Bool.false_and, Bool.false_eq_true, if_false, Bool.not_true, Bool.and_false]
  unfold takeUnknown takeOrder
  rw [if_neg unknown]
  have same : (unknownRule code).code = code := rfl
  rw [same]
  cases offeredHeader s o.slot code with
  | none => rfl
  | some p =>
    dsimp only
    unfold withBus
    dsimp only
    rw [verdict]
    split <;> rfl

/-- Every order command that no code of the 18 kinds stands for is a take. -/
theorem taken_of_parts {c : Instr} {o : OrderHdr} {code : Byte} (parts : orderParts c = some (o, code, Env.quiet))
    (known : ∀ k, c = .unknownOrderKind o k Env.quiet → ¬ (1 ≤ k.toNat ∧ k.toNat ≤ 18)) :
    ∃ r b owner, r.code = code ∧ (r.anyGate = true → code = 17 ∨ code = 18) ∧
      ∀ s, exec c s = .next (takeOrder r o b Env.quiet owner s) := by
  rcases takenBy_of_parts parts with rfl | ⟨same, -, r, b, by'⟩
  · refine ⟨unknownRule code, .other, fun _ _ _ _ => .refuse .badForm, rfl, fun h => (nomatch h), fun s => ?_⟩
    rw [← takeUnknown_eq (known code rfl)]
    rfl
  · refine ⟨r, b, ownerOf c, by'.rule.coded, by'.rule.anyGate.1, fun s => ?_⟩
    rw [← by'.runs, same]

/-! ### What is decided before the owner (R42 to R45) -/

/-- The service of the sources after an order that stays POSTED, where no slot of them is behind (R41, R42). -/
theorem servePast_serves {s : State} {w : Sweep} (sweep : s.exch.sweep = some w)
    (fresh : ∀ (i : SlotNo) (h : Header) (v : Source), postedHeader s i = some h → headerSource h = some v →
      v ∈ w.remaining.tail → behind h.tag s.exch.tags[v] = false) :
    (∀ (before later : List Source) (v : Source) (i : SlotNo), w.remaining.tail = before ++ v :: later →
      (∀ x ∈ before, ∀ j, slotAtTag s x j = false) → slotAtTag s v i = true → (∀ j, j < i → slotAtTag s v j = false) →
      servePast s = { s with exch := { s.exch with sweep := some { w with remaining := v :: later, offered := some i } } }) ∧
    ((∀ x ∈ w.remaining.tail, ∀ j, slotAtTag s x j = false) →
      (servePast s).exch.sweep = none ∨ (servePast s).exch.sweep = some Sweep.fresh) := by
  obtain ⟨u, served, posted, exch, rest⟩ : ∃ u, servePast s = serve w.remaining.tail u ∧
      (∀ i, postedHeader u i = postedHeader s i) ∧
      u.exch = { s.exch with sweep := some { w with offered := none } } ∧ u = { s with exch := u.exch } := by
    refine ⟨s.onSweep fun w => { w with offered := none }, ?_, fun i => ?_, ?_, rfl⟩
    · unfold servePast
      rw [sweep]
    · refine postedHeader_held ?_ rfl
      unfold heldHeader
      rw [State.onSweep_exch, Option.map_map]
      rfl
    · rw [State.onSweep_exch, sweep]
      rfl
  have going : u.exch.sweep.isSome = true := by rw [exch]; rfl
  have tags : u.exch.tags = s.exch.tags := by rw [exch]
  have at' : ∀ v j, slotAtTag u v j = slotAtTag s v j := fun v j => (slotAtTag_congr posted tags v j).1
  have behind : ∀ v ∈ w.remaining.tail, NoneBehind u v := fun v mem => noneBehind_iff.2 fun i h is source => by
    rw [tags]
    exact fresh i h v (by rw [← posted]; exact is) source mem
  rw [served]
  refine ⟨fun before later v i split away here first => ?_, fun nowhere => ?_⟩
  · rw [split] at behind ⊢
    rw [serve_offers later going (by rw [at']; exact here) (fun j lt => by rw [at']; exact first j lt) before
      (fun x mem j => by rw [at']; exact away x mem j) behind, rest]
    unfold State.onSweep State.onExch
    rw [exch]
    rfl
  · rw [serve_ends going _ (fun x mem j => by rw [at']; exact nowhere x mem j) behind, State.onExch_exch, endSweep_eq]
    split
    · exact .inl rfl
    · split
      · exact .inr rfl
      · exact .inl rfl

/-- An attachment that cannot be used or read (R44). -/
theorem readAttachment_fails {o : OrderHdr} (has : o.attached = true) :
    ((o.attLen = 0 ∨ 1024 < o.attLen) → readAttachment true o = .error .badForm) ∧
      (1 ≤ o.attLen → o.attLen ≤ 1024 → o.att = .error → readAttachment true o = .error .attachmentFault) := by
  have limit : Config.maxAttachment = 1024 := rfl
  refine ⟨fun bad => ?_, fun low high fails => ?_⟩
  · simp only [readAttachment, has, Bool.and_self, if_true, limit, if_pos bad]
  · have good : ¬ (o.attLen = 0 ∨ 1024 < o.attLen) := by omega
    simp only [readAttachment, has, Bool.and_self, if_true, limit, if_neg good, fails]

theorem readAttachment_passes {attaches : Bool} {o : OrderHdr}
    (good : attaches = true → o.attached = false ∨ 1 ≤ o.attLen ∧ o.attLen ≤ 1024 ∧ o.att ≠ .error) :
    ∃ att, readAttachment attaches o = .ok att := by
  have limit : Config.maxAttachment = 1024 := rfl
  unfold readAttachment
  split
  next reads =>
    obtain ⟨reads, has⟩ := Bool.and_eq_true_iff.1 reads
    rcases good reads with absent | ⟨low, high, readable⟩
    · rw [has] at absent
      cases absent
    · rw [limit, if_neg (by omega)]
      cases att : o.att with
      | error => exact absurd att readable
      | data bs => exact ⟨_, rfl⟩
  · exact ⟨_, rfl⟩

theorem verdictOf_unread {r : OrderRule} {o : OrderHdr} {src : Source} {owner : Option (List Byte) → State → Verdict} {s : State}
    {oc : OrderOutcome} (gate : s.journal.closed = false ∨ r.anyGate = true) (fails : readAttachment r.attaches o = .error oc) :
    verdictOf r o src owner s = .refuse oc := by
  have passes : (s.journal.closed && !r.anyGate) = false := by rcases gate with h | h <;> simp [h]
  simp only [verdictOf, passes, Bool.false_eq_true, if_false, fails]

theorem verdictOf_unowned {r : OrderRule} {o : OrderHdr} {src : Source} {owner : Option (List Byte) → State → Verdict} {s : State}
    (gate : s.journal.closed = false ∨ r.anyGate = true) {att : Option (List Byte)} (reads : readAttachment r.attaches o = .ok att) :
    (r.permitted src = false → verdictOf r o src owner s = .refuse .wrongSource) ∧
      (r.permitted src = true → s.office.opened = false → r.anyOffice = false →
        verdictOf r o src owner s = .refuse .officeClosed) := by
  have passes : (s.journal.closed && !r.anyGate) = false := by rcases gate with h | h <;> simp [h]
  refine ⟨fun may => ?_, fun may closed only => ?_⟩
  · simp only [verdictOf, passes, Bool.false_eq_true, if_false, reads, may, Bool.not_false, if_true]
  · simp only [verdictOf, passes, Bool.false_eq_true, if_false, reads, may, Bool.not_true, closed, only, Bool.not_false,
      Bool.and_self, if_true]

/-- Settles O40: the gate first, then the attachment, the kind, the source and the office. -/
theorem decidedBeforeOwner : Obligations.DecidedBeforeOwner := by
  refine ⟨fun c o code s src tag w parts offers closed notWithdraw notStatus known sweep apart => ?_,
    fun c o code s src tag oc parts offers gate decides => ?_⟩
  · obtain ⟨r, b, owner, rfl, anyGate, runs⟩ := taken_of_parts parts known
    have stopped : r.anyGate = false := Bool.eq_false_iff.2 fun any => (anyGate any).elim notWithdraw notStatus
    have verdict : verdictOf r o src (owner src tag) s = .wait := by
      simp only [verdictOf, closed, stopped, Bool.not_false, Bool.and_self, if_true]
    obtain ⟨is, served⟩ := offers.waits (b := b) (owner := owner) verdict sweep apart
    refine ⟨servePast s, by rw [runs, is], served.rest, ⟨served.slot, served.mark, served.context⟩, served.tags,
      fun j _ => served.others j, ⟨?_, served.ring, served.alerts⟩, served.kept, servePast_serves sweep⟩
    rw [served.rest]
    rfl
  · rcases takenBy_of_parts parts with rfl | ⟨same, other, r, b, by'⟩
    · obtain ⟨⟨k, is, unknown⟩, rfl⟩ | ⟨known, -⟩ := decides
      · obtain rfl : code = k := by cases is; rfl
        have opened : s.journal.closed = false := by
          rcases gate with h | rfl | rfl
          · exact h
          · exact absurd (by decide) unknown
          · exact absurd (by decide) unknown
        refine offers.refused (r := unknownRule code) (b := .other) (owner := fun _ _ _ _ => .refuse .badForm) ?_ ?_
        · rw [← takeUnknown_eq unknown]
          rfl
        · simp only [verdictOf, opened, unknownRule, readAttachment, Bool.false_and, Bool.false_eq_true, if_false, Bool.not_true,
            Bool.and_false]
      · exact absurd rfl (known code)
    · obtain ⟨⟨k, is, -⟩, -⟩ | ⟨-, decides⟩ := decides
      · exact absurd is (other k)
      have runs : exec c s = .next (takeOrder r o b Env.quiet (ownerOf c) s) := by rw [← by'.runs, same]
      have passes : s.journal.closed = false ∨ r.anyGate = true := gate.imp id by'.rule.anyGate.2
      obtain rfl := by'.rule.coded
      refine offers.refused runs ?_
      rcases decides with ⟨reads, has, bad, rfl⟩ | ⟨reads, has, low, high, fails, rfl⟩ | ⟨good, decides⟩
      · refine verdictOf_unread passes ?_
        rw [by'.rule.attaches.2 reads]
        exact (readAttachment_fails has).1 bad
      · refine verdictOf_unread passes ?_
        rw [by'.rule.attaches.2 reads]
        exact (readAttachment_fails has).2 low high fails
      · obtain ⟨att, read⟩ := readAttachment_passes fun reads => good (by'.rule.attaches.1 reads)
        obtain ⟨wrong, office⟩ := verdictOf_unowned (owner := ownerOf c src tag) passes read (src := src)
        rw [by'.rule.permitted] at wrong office
        rcases decides with ⟨may, rfl⟩ | ⟨may, closed, notOpen, notStatus, rfl⟩
        · exact wrong may
        · exact office may closed (Bool.eq_false_iff.2 fun any => (by'.rule.anyOffice.1 any).elim notOpen notStatus)

end Sys2Proof.Machine
end

section
/-! What the changes of an accepted order leave of the exchange and of the order's slot, and what the answers given at a take may
be (O39, O41). -/

namespace Sys2Proof.Machine

/-- No pending cash-up has the slot. -/
def NoCashUpAt (i : SlotNo) (s : State) : Prop := ∀ (w : Window) (p : PendingCashUp), s.till[w].cashUp = some p → p.slot ≠ i

/-- From a state with no access error under way a change leaves none under way, and the state of the exchange; and where no
pending cash-up has slot `i`, that slot. -/
structure Tame (i : SlotNo) (s t : State) : Prop where
  quiet : s.host.busIn = none → t.host.busIn = none
  state : s.host.busIn = none → t.exch.state = s.exch.state
  slot  : s.host.busIn = none → NoCashUpAt i s → t.host.slots[i] = s.host.slots[i] ∧ NoCashUpAt i t

namespace Tame

variable {i : SlotNo} {s t u : State}

theorem refl (i : SlotNo) (s : State) : Tame i s s := ⟨id, fun _ => rfl, fun _ away => ⟨rfl, away⟩⟩

theorem trans (h : Tame i s t) (g : Tame i t u) : Tame i s u where
  quiet := fun q => g.quiet (h.quiet q)
  state := fun q => (g.state (h.quiet q)).trans (h.state q)
  slot  := fun q away => by
    obtain ⟨slot, away'⟩ := h.slot q away
    obtain ⟨slot', away''⟩ := g.slot (h.quiet q) away'
    exact ⟨slot'.trans slot, away''⟩

theorem ite {p : Prop} [Decidable p] (h : p → Tame i s t) (g : ¬ p → Tame i s u) : Tame i s (if p then t else u) := by
  split
  · exact h ‹_›
  · exact g ‹_›

theorem foldl {α : Type} {f : State → α → State} (h : ∀ s a, Tame i s (f s a)) : ∀ (as : List α) (s : State), Tame i s (as.foldl f s)
  | [], s => refl i s
  | a :: as, s => (h s a).trans (foldl h as (f s a))

/-- A change that leaves host memory, the exchange's state and the pending cash-ups. -/
theorem of_frame (host : t.host = s.host) (state : t.exch.state = s.exch.state)
    (cashUps : ∀ w : Window, t.till[w].cashUp = s.till[w].cashUp) : Tame i s t :=
  ⟨fun q => by rw [host]; exact q, fun _ => state, fun _ away => ⟨by rw [host], fun w p is => away w p (by rw [← cashUps]; exact is)⟩⟩

theorem of_lane {l : Lane} (h : LaneOnly l s t) : Tame i s t := of_frame (by rw [h.rest]) (by rw [h.rest]) fun w => by rw [h.rest]

theorem onStock (s : State) (f : StockRegister → StockRegister) : Tame i s (s.onStock f) := of_frame rfl rfl fun _ => rfl

theorem onOffice (s : State) (f : OfficeControl → OfficeControl) : Tame i s (s.onOffice f) := of_frame rfl rfl fun _ => rfl

theorem onIssue (s : State) (f : IssueController → IssueController) : Tame i s (s.onIssue f) := of_frame rfl rfl fun _ => rfl

theorem onCounters (s : State) (k : StockKind) (f : Counters → Counters) : Tame i s (s.onCounters k f) :=
  of_frame rfl rfl fun _ => rfl

theorem setMag (s : State) (l : Lane) (m : Option Loaded) : Tame i s (s.setMag l m) := of_frame rfl rfl fun _ => rfl

theorem setImage (s : State) (b : Buffer) (im : Option (List ImageField)) : Tame i s (s.setImage b im) :=
  of_frame rfl rfl fun _ => rfl

theorem setLanes (s : State) (ls : Table 8 LaneRec) : Tame i s { s with lanes := ls } := of_frame rfl rfl fun _ => rfl

theorem setFare (s : State) (f : FareUnit) : Tame i s { s with fare := f } := of_frame rfl rfl fun _ => rfl

theorem onFaults (s : State) (f : FaultTable → FaultTable) : Tame i s (s.onFaults f) := of_frame rfl rfl fun _ => rfl

theorem onAlerts (s : State) (f : Alerts → Alerts) : Tame i s (s.onAlerts f) := of_frame rfl rfl fun _ => rfl

theorem setTags (s : State) (ts : Table 13 Tag) : Tame i s (s.onExch fun x => { x with tags := ts }) :=
  of_frame rfl rfl fun _ => rfl

theorem onDrawer (s : State) (w : Window) {f : Drawer → Drawer} (same : (f s.till[w]).cashUp = s.till[w].cashUp) :
    Tame i s (s.onDrawer w f) := by
  refine of_frame rfl rfl fun v => ?_
  show (s.till.upd w f)[v].cashUp = _
  rw [Table.upd_get]
  split
  next here => rw [here]; exact same
  · rfl

theorem give (b : EntryBody) (s : State) : Tame i s (give b s) where
  quiet := (give_journalled · b |>.quiet ‹_›)
  state := fun q => by rw [(give_journalled q b).exch]
  slot  := fun q away => by
    have given := give_journalled q b
    exact ⟨by rw [given.host], by rw [given.rest]; exact away⟩

/-- An answer of another slot. -/
theorem answered {j : SlotNo} (other : i ≠ j) (a : Answer) (s : State) : Tame i s (answered j a s) where
  quiet := fun q => (answered_produced j a s).quiet.trans q
  state := fun _ => (answered_produced j a s).state
  slot  := fun _ away => by
    refine ⟨?_, by rw [(answered_produced j a s).rest]; exact away⟩
    by_cases running : s.exch.state = .running
    · exact ((answered_slot running j a).2.1 i other).slot
    · exact ((answered_pending running j a).2 i).slot

theorem closed (s : State) (w : Window) {f : Drawer → Drawer} (none : (f s.till[w]).cashUp = none) : Tame i s (s.onDrawer w f) := by
  refine ⟨id, fun _ => rfl, fun _ away => ⟨rfl, fun v p is => ?_⟩⟩
  by_cases here : v = w
  · subst here
    have gone : (s.onDrawer v f).till[v].cashUp = .none := (congrArg Drawer.cashUp (Table.upd_same _ _ _)).trans none
    exact absurd (is.symm.trans gone) (Option.some_ne_none p)
  · exact away v p ((congrArg Drawer.cashUp (Table.upd_ne s.till w v f here)).symm.trans is)

/-- The test of the cash-up condition. -/
theorem testCashUp (w : Window) (s : State) : Tame i s (testCashUp w s) := by
  cases waits : s.till[w].cashUp with
  | none => rw [testCashUp_none waits]; exact refl i s
  | some p =>
    cases settled : s.till[w].settled with
    | false => rw [testCashUp_unsettled settled]; exact refl i s
    | true =>
      have done := fun quiet => testCashUp_settled (s := s) quiet waits settled
      generalize cashUpEntry w s.till[w] s.office.settings.tolerance p.declared = e at done
      refine ⟨fun q => ?_, fun q => ?_, fun q away => ?_⟩
      · rw [done q]
        exact (answered_produced ..).quiet.trans ((give (i := i) e s).quiet q)
      · rw [done q]
        exact (answered_produced ..).state.trans ((give (i := i) e s).state q)
      · rw [done q]
        have other : i ≠ p.slot := fun same => away w p waits same.symm
        exact (((give e s).trans (answered other _ _)).trans (closed _ w rfl)).slot q away

theorem toStarting (l : Lane) (why : LaneReason) (s : State) : Tame i s (toStarting l why s) :=
  (((of_lane (LaneOnly.onLane l _ s)).trans (give _ _))).trans (of_lane (LaneOnly.beginLinkStart l _))

theorem park (l : Lane) (why : ParkReason) (reason : LaneReason) (s : State) : Tame i s (park l why reason s) := by
  rw [park_eq]
  exact (of_lane (LaneOnly.onLane l _ s)).trans (give _ _)

theorem sendFront (l : Lane) (s : State) : Tame i s (sendFront l s) := by
  unfold Machine.sendFront
  split
  · exact (((setMag s l _).trans (setImage _ _ _)).trans (onOffice _ _)).trans (of_lane (LaneOnly.onLane l _ _))
  · exact refl i s

theorem withStall (l : Lane) {f : State → State} (s : State) (h : Tame i s (f s)) : Tame i s (withStall l f s) :=
  h.trans (of_lane (LaneOnly.stallEdge _ l _))

theorem trySend (l : Lane) (s : State) : Tame i s (trySend l s) :=
  ite (fun _ => (withStall l s (sendFront l s)).trans (of_lane (LaneOnly.pump l _))) fun _ => refl i s

theorem joinLane (l : Lane) (j : Job) (s : State) : Tame i s (joinLane l j s) :=
  ((withStall l s (of_lane (LaneOnly.onLane l _ s))).trans (of_lane (LaneOnly.onAct l _ _))).trans (trySend l _)

theorem forLanes {f : Lane → State → State} (h : ∀ l s, Tame i s (f l s)) (s : State) : Tame i s (forLanes f s) :=
  foldl (f := fun s l => f l s) (fun s l => h l s) (List.finRange 8) s

theorem realign (l : Lane) (r : Nat) (s : State) : Tame i s (realign l r s) := by
  unfold Machine.realign
  split
  · exact refl i s
  · split
    · exact ((onCounters s _ _).trans (setMag _ _ _)).trans (give _ _)
    · exact refl i s

end Tame

/-! ### The changes that owners make -/

section
variable {i : SlotNo}

theorem applyReceive_tame (k : StockKind) (f c : Nat) (rs : List Run) (s : State) : Tame i s (applyReceive k f c rs s) :=
  ((Tame.onStock s _).trans (Tame.onCounters _ _ _)).trans (Tame.give _ _)

theorem applyLoad_tame (l : Lane) (k : StockKind) (f c : Nat) (s : State) : Tame i s (applyLoad l k f c s) :=
  (Tame.withStall l s (((Tame.onStock s _).trans (Tame.setMag _ _ _)).trans (Tame.give _ _))).trans (Tame.trySend l _)

theorem applyUnload_tame (l : Lane) (m : Loaded) (rs : List Run) (s : State) : Tame i s (applyUnload l m rs s) :=
  Tame.withStall l s (((Tame.onStock s _).trans (Tame.setMag _ _ _)).trans (Tame.give _ _))

theorem applyOfficeOpen_tame (b : OpenBody) (r : LinkRate) (s : State) : Tame i s (applyOfficeOpen b r s) :=
  (((Tame.onOffice s _).trans (Tame.onStock _ _)).trans (Tame.give _ _)).trans
    (Tame.forLanes (fun l s => Tame.ite (fun _ => Tame.toStarting l _ s) fun _ => Tame.refl i s) _)

theorem parkDayLane_tame (l : Lane) (s : State) : Tame i s (parkDayLane l s) := by
  unfold parkDayLane
  split
  · exact Tame.park l _ _ s
  · exact Tame.park l _ _ s
  · exact Tame.refl i s

theorem applyDayClose_tame (s : State) : Tame i s (applyDayClose s) := by
  simp only [applyDayClose]
  exact (((((Tame.onIssue s _).trans (Tame.setLanes _ _)).trans (Tame.forLanes parkDayLane_tame _)).trans (Tame.give _ _)).trans
    (Tame.onOffice _ _)).trans (Tame.setTags _ _)

theorem declareOne_tame (l : Lane) (s : State) (n : Nat) (oc : DeclOutcome) : Tame i s (declareOne l s n oc) := by
  unfold declareOne
  split
  · exact Tame.refl i s
  next d _ =>
    have drop : Tame i s (dropDoubt d s) := Tame.onStock s _
    have effect : Tame i s (declareEffect d oc (dropDoubt d s)) := by
      cases oc <;> exact ((drop.trans (Tame.onIssue _ _)).trans (Tame.onCounters _ _ _)).trans (Tame.onDrawer _ _ rfl)
    exact (effect.trans (Tame.give _ _)).trans (Tame.testCashUp _ _)

theorem declareAll_tame (l : Lane) (ds : List Declaration) (s : State) : Tame i s (declareAll l ds s) :=
  Tame.foldl (fun s d => by
    split
    · exact Tame.refl i s
    · exact declareOne_tame l s _ _) ds s

theorem applyRealign_tame (l : Lane) (r : Option Nat) (s : State) : Tame i s (applyRealign l r s) := by
  unfold applyRealign
  split
  · exact Tame.refl i s
  · exact (Tame.realign l _ s).trans (Tame.of_lane (LaneOnly.onFeed l _ _))

theorem applyResume_tame (l : Lane) (s : State) : Tame i s (applyResume l s) := by
  simp only [applyResume]
  have record : Tame i s (onRecord l (fun r => { r with active := none }) s) := Tame.onFaults s _
  refine Tame.trans (t := _) ?_ ((Tame.give _ _).trans (Tame.toStarting l _ _))
  exact record.trans (Tame.ite (fun _ => Tame.onAlerts _ _) fun _ => Tame.refl i _)

theorem applyFaultClear_tame (l : Lane) (b : ClearBody) (s : State) : Tame i s (applyFaultClear l b s) :=
  Tame.withStall l s ((declareAll_tame l b.decls s).trans ((applyRealign_tame l b.realign _).trans
    (Tame.ite (fun _ => applyResume_tame l _) fun _ => Tame.refl i _)))

theorem applyIssue_tame (o : OrderHdr) (tag : Tag) (w : Window) (l : Lane) (f : IssueFields) (fig : Figures) (items : List Text)
    (b : Buffer) (s : State) : Tame i s (applyIssue o tag w l f fig items b s) :=
  (((Tame.onIssue s _).trans (Tame.setImage _ _ _)).trans (Tame.onDrawer _ w rfl)).trans (Tame.joinLane l _ _)

theorem applyVoid_tame (w : Window) (e : IssueEntry) (s : State) : Tame i s (applyVoid w e s) :=
  (((Tame.onIssue s _).trans (Tame.onDrawer _ w rfl)).trans (Tame.onCounters _ _ _)).trans (Tame.give _ _)

theorem applyRefund_tame (w : Window) (e : IssueEntry) (r a : Nat) (s : State) : Tame i s (applyRefund w e r a s) :=
  ((Tame.onIssue s _).trans (Tame.onDrawer _ w rfl)).trans (Tame.give _ _)

theorem applyShiftOpen_tame (w : Window) (c f : Nat) (h : Lane) (a : Option Lane) (s : State) :
    Tame i s (applyShiftOpen w c f h a s) := (Tame.onDrawer s w rfl).trans (Tame.give _ _)

theorem applyWithdraw_tame (w : Window) (s : State) : Tame i s (applyWithdraw w s) := by
  simp only [applyWithdraw]
  refine Tame.trans (t := _) ?_ (Tame.closed _ w rfl)
  split
  · exact Tame.refl i s
  next p waits =>
    have is := fun quiet => answer_eq (s := s) quiet p.slot kindCashUp p.tag .withdrawn (.withdrawn s.till[w].shift)
    refine ⟨fun q => ?_, fun q => ?_, fun q away => ?_⟩
    · rw [is q]
      exact (answered_produced ..).quiet.trans q
    · rw [is q]
      exact (answered_produced ..).state
    · rw [is q]
      exact (Tame.answered (fun same => away w p waits same.symm) _ s).slot q away

theorem writeSnapshot_tame (d : BitVec 64) (n : Nat) (s : State) : Tame i s (writeSnapshot d n s) := by
  refine ⟨fun q => ?_, fun q => ?_, fun q away => ?_⟩
  all_goals
    unfold writeSnapshot
    split
  · exact q
  · simp only [access_quiet q, if_true]
    exact q
  · rfl
  · simp only [access_quiet q, if_true]
    rfl
  · exact ⟨rfl, away⟩
  · simp only [access_quiet q, if_true]
    exact ⟨rfl, away⟩

end

end Sys2Proof.Machine
end

section
/-! Every owner's decision, once: the outcomes that refuse, and the changes that an acceptance makes with what was checked for
them (R43). -/

namespace Sys2Proof.Machine

/-- The changes that an owner accepts for an order in slot `i`, each with what its checks have found of the state, and the answer
given within the take. -/
inductive Accepted (i : SlotNo) (s : State) : (State → State) → Option (State → OrderOutcome × AnswerFields) → Prop
  | officeOpen (b : OpenBody) (rate : LinkRate) (f : AnswerFields) (closed : s.office.opened = false) :
      Accepted i s (applyOfficeOpen b rate) (some fun _ => (.done, f))
  | dayClose (f : AnswerFields) (drawers : anyDrawer s = false) (jobs : anyJob s = false) (doubts : s.stock.doubts = []) :
      Accepted i s applyDayClose (some fun _ => (.done, f))
  | discounts (rs : List DiscountRec) (f : AnswerFields) (passes : discountRefusal rs = none) :
      Accepted i s (applyDiscounts rs) (some fun _ => (.done, f))
  | fees (ps : List (Nat × Nat)) (f : AnswerFields) :
      Accepted i s (fun s => { s with fare := feesAfter ps s.fare }) (some fun _ => (.done, f))
  | layout (n : Nat) (fs : List LayoutField) (f : AnswerFields) :
      Accepted i s (fun s => s.onIssue (writeLayout n fs)) (some fun _ => (.done, f))
  | receive (k : StockKind) (first count : Nat) (rs : List Run) (f : AnswerFields) (range : rangeOk first count = true)
      (apart : overlaps s k first count = false) (room : ¬ Config.max32 < s.stock.counters[k].received + count)
      (merges : mergeRun k first count s.stock.runs = some rs) :
      Accepted i s (applyReceive k first count rs) (some fun _ => (.done, f))
  | load (l : Lane) (k : StockKind) (first count : Nat) (r : Run) (f : AnswerFields) (range : rangeOk first count = true)
      (lane : loadable (s.lane l) = true) (empty : s.mag l = none)
      (kinds : ((s.lane l).queue.any fun j => decide (j.kind ≠ k)) = false) (holds : runHolding k first count s.stock.runs = some r)
      (room : ¬ (r.splits first count = true ∧ Config.maxRuns ≤ s.stock.runs.length)) :
      Accepted i s (applyLoad l k first count) (some fun _ => (.done, f))
  | unload (l : Lane) (m : Loaded) (rs : List Run) (f : AnswerFields) (out : (s.lane l).out = []) (sure : doubtful s l = false)
      (loaded : s.mag l = some m) (returns : returnedRuns m s.stock.runs = some rs) :
      Accepted i s (applyUnload l m rs) (some fun _ => (.done, f))
  | start (l : Lane) (f : AnswerFields) (still : (s.lane l).state = .off ∨ ∃ w, (s.lane l).state = .parked w) :
      Accepted i s (toStarting l .start) (some fun _ => (.done, f))
  | setReason (l : Lane) (f : AnswerFields) (parked : ∃ w, (s.lane l).state = .parked w) :
      Accepted i s (setParkReason l) (some fun _ => (.done, f))
  | park (l : Lane) (f : AnswerFields) (holds : laneHolds s l = false) :
      Accepted i s (park l .supervisor .supervisor) (some fun _ => (.done, f))
  | clear (l : Lane) (b : ClearBody) (f : State → AnswerFields) (passes : clearRefusal l b s = none) :
      Accepted i s (applyFaultClear l b) (some fun s => (.done, f s))
  | shiftOpen (w : Window) (clerk float : Nat) (home : Lane) (alt : Option Lane) (f : AnswerFields)
      (free : s.till[w].state = .none) : Accepted i s (applyShiftOpen w clerk float home alt) (some fun _ => (.done, f))
  | issue (o : OrderHdr) (tag : Tag) (w : Window) (l : Lane) (f : IssueFields) (fig : Figures) (items : List Text) (b : Buffer)
      (slot : o.slot = i) (opened : s.till[w].state = .opened) (lane : issuable (s.lane l) = true)
      (stock : loadedKind (s.mag l) f.kind = true) (room : issueRoom s = true) (buffer : pickBuffer s l = some b) :
      Accepted i s (applyIssue o tag w l f fig items b) none
  | void (w : Window) (k : StockKind) (n : Nat) (e : IssueEntry) (f : AnswerFields) (opened : s.till[w].state = .opened)
      (found : entryOf s k n = some e) (issued : e.state = .issued) : Accepted i s (applyVoid w e) (some fun _ => (.done, f))
  | refund (w : Window) (k : StockKind) (n reason amount : Nat) (e : IssueEntry) (f : AnswerFields)
      (opened : s.till[w].state = .opened) (found : entryOf s k n = some e) (issued : e.state = .issued) :
      Accepted i s (applyRefund w e reason amount) (some fun _ => (.done, f))
  | cashUp (w : Window) (p : PendingCashUp) (slot : p.slot = i) (opened : s.till[w].state = .opened) :
      Accepted i s (applyCashUp w p) (cashUpReply w p s)
  | withdraw (w : Window) (f : AnswerFields) (closing : s.till[w].state = .closing) :
      Accepted i s (applyWithdraw w) (some fun _ => (.done, f))
  | status (dest : BitVec 64) (len : Nat) : Accepted i s (writeSnapshot dest len) (some (statusReply len))

/-- A refusal has a code of 32 or above, and an acceptance is one of those listed. -/
def Decided (i : SlotNo) (s : State) : Verdict → Prop
  | .refuse oc => 32 ≤ oc.code.toNat
  | .wait => True
  | .accept change reply => Accepted i s change reply

namespace Decided

variable {i : SlotNo} {s : State}

theorem officeOpen (b : OpenBody) : Decided i s (officeOpenVerdict b s) := by
  unfold officeOpenVerdict
  split
  · exact (by decide : 32 ≤ OrderOutcome.notPermitted.code.toNat)
  next closed =>
    split
    · exact (by decide : 32 ≤ OrderOutcome.outOfRange.code.toNat)
    · split
      · exact Accepted.officeOpen _ _ _ (Bool.eq_false_iff.2 closed)
      · exact (by decide : 32 ≤ OrderOutcome.outOfRange.code.toNat)

theorem dayClose : Decided i s (dayCloseVerdict s) := by
  unfold dayCloseVerdict
  split
  · exact (by decide : 32 ≤ OrderOutcome.notPermitted.code.toNat)
  next settled =>
    simp only [Bool.or_eq_true, not_or, Bool.not_eq_true, Bool.not_eq_false', List.isEmpty_iff] at settled
    obtain ⟨⟨drawers, jobs⟩, doubts⟩ := settled
    exact Accepted.dayClose _ drawers jobs doubts

theorem discountRefusal_code {rs : List DiscountRec} {oc : OrderOutcome} (refuses : discountRefusal rs = some oc) :
    32 ≤ oc.code.toNat := by
  unfold discountRefusal at refuses
  split_ifs at refuses
  all_goals
    obtain rfl := Option.some_inj.1 refuses
    decide

theorem discounts (n : Nat) (att : Option (List Byte)) : Decided i s (setDiscountsVerdict n att) := by
  unfold setDiscountsVerdict
  split
  · exact (by decide : 32 ≤ OrderOutcome.badForm.code.toNat)
  · split
    · dsimp only
      split
      next refuses => exact discountRefusal_code refuses
      next passes => exact Accepted.discounts _ _ passes
    · exact (by decide : 32 ≤ OrderOutcome.badForm.code.toNat)

theorem feeRefusal_code {ps : List (Nat × Nat)} {oc : OrderOutcome} (refuses : feeRefusal ps = some oc) : 32 ≤ oc.code.toNat := by
  unfold feeRefusal at refuses
  split_ifs at refuses
  all_goals
    obtain rfl := Option.some_inj.1 refuses
    decide

theorem fees (ps : List (Nat × Nat)) : Decided i s (setRefundFeesVerdict ps s) := by
  unfold setRefundFeesVerdict
  split
  next refuses => exact feeRefusal_code refuses
  · exact Accepted.fees ps _

theorem layoutRefusal_code {n : Nat} {rs : List LayoutRec} {oc : OrderOutcome} (refuses : layoutRefusal n rs = some oc) :
    32 ≤ oc.code.toNat := by
  unfold layoutRefusal at refuses
  split_ifs at refuses
  all_goals
    obtain rfl := Option.some_inj.1 refuses
    decide

theorem layout (n : Nat) (att : Option (List Byte)) : Decided i s (setLayoutVerdict n att) := by
  unfold setLayoutVerdict
  split
  · exact (by decide : 32 ≤ OrderOutcome.badForm.code.toNat)
  · dsimp only
    split
    · exact (by decide : 32 ≤ OrderOutcome.badForm.code.toNat)
    · split
      next refuses => exact layoutRefusal_code refuses
      · exact Accepted.layout n _ _

theorem receive (k f c : Nat) : Decided i s (stockReceiveVerdict k f c s) := by
  unfold stockReceiveVerdict receiveVerdict
  split
  · exact (by decide : 32 ≤ OrderOutcome.outOfRange.code.toNat)
  · split
    next range =>
      split
      · exact (by decide : 32 ≤ OrderOutcome.overlap.code.toNat)
      next apart =>
        split
        · exact (by decide : 32 ≤ OrderOutcome.countLimit.code.toNat)
        next room =>
          split
          · exact (by decide : 32 ≤ OrderOutcome.runTableFull.code.toNat)
          next merges => exact Accepted.receive _ _ _ _ _ range (Bool.eq_false_iff.2 apart) room merges
    · exact (by decide : 32 ≤ OrderOutcome.outOfRange.code.toNat)

theorem load (l k f c : Nat) : Decided i s (magazineLoadVerdict l k f c s) := by
  unfold magazineLoadVerdict loadVerdict
  split
  · split
    next range =>
      split
      · exact (by decide : 32 ≤ OrderOutcome.laneBusy.code.toNat)
      next lane =>
        split
        · exact (by decide : 32 ≤ OrderOutcome.magazineLoaded.code.toNat)
        next empty =>
          split
          · exact (by decide : 32 ≤ OrderOutcome.wrongStock.code.toNat)
          next kinds =>
            split
            · exact (by decide : 32 ≤ OrderOutcome.notInStock.code.toNat)
            next holds =>
              split
              · exact (by decide : 32 ≤ OrderOutcome.runTableFull.code.toNat)
              next room =>
                exact Accepted.load _ _ _ _ _ _ range (by simpa using lane) (Option.not_isSome_iff_eq_none.1 empty)
                  (Bool.eq_false_iff.2 kinds) holds room
    · exact (by decide : 32 ≤ OrderOutcome.outOfRange.code.toNat)
  · exact (by decide : 32 ≤ OrderOutcome.outOfRange.code.toNat)

theorem unload (l : Nat) : Decided i s (magazineUnloadVerdict l s) := by
  unfold magazineUnloadVerdict unloadVerdict
  split
  · exact (by decide : 32 ≤ OrderOutcome.outOfRange.code.toNat)
  · split
    · exact (by decide : 32 ≤ OrderOutcome.laneBusy.code.toNat)
    next quiet =>
      split
      · exact (by decide : 32 ≤ OrderOutcome.notPermitted.code.toNat)
      next loaded =>
        split
        · exact (by decide : 32 ≤ OrderOutcome.runTableFull.code.toNat)
        next returns =>
          simp only [Bool.or_eq_true, not_or, Bool.not_eq_true, Bool.not_eq_false', List.isEmpty_iff] at quiet
          exact Accepted.unload _ _ _ _ quiet.1 quiet.2 loaded returns

theorem start (l : Nat) : Decided i s (laneStartVerdict l s) := by
  unfold laneStartVerdict startVerdict
  split
  · exact (by decide : 32 ≤ OrderOutcome.outOfRange.code.toNat)
  · split
    · exact (by decide : 32 ≤ OrderOutcome.busy.code.toNat)
    · exact (by decide : 32 ≤ OrderOutcome.notPermitted.code.toNat)
    · exact (by decide : 32 ≤ OrderOutcome.notPermitted.code.toNat)
    · exact (by decide : 32 ≤ OrderOutcome.notPermitted.code.toNat)
    next off => exact Accepted.start _ _ (.inl off)
    next w parked => exact Accepted.start _ _ (.inr ⟨w, parked⟩)

theorem parks (l : Lane) : Decided i s (if laneHolds s l then .refuse .laneBusy
    else acceptDone (Machine.park l .supervisor .supervisor) (.lane l (.parked .supervisor))) := by
  split
  · exact (by decide : 32 ≤ OrderOutcome.laneBusy.code.toNat)
  next holds => exact Accepted.park l _ (Bool.eq_false_iff.2 holds)

theorem park (l : Nat) : Decided i s (laneParkVerdict l s) := by
  unfold laneParkVerdict parkVerdict
  split
  · exact (by decide : 32 ≤ OrderOutcome.outOfRange.code.toNat)
  · split
    · exact (by decide : 32 ≤ OrderOutcome.laneBusy.code.toNat)
    · exact (by decide : 32 ≤ OrderOutcome.laneBusy.code.toNat)
    next w parked => exact Accepted.setReason _ _ ⟨w, parked⟩
    · exact parks _
    · exact parks _
    · exact parks _

theorem realignRefusal_code {l : Lane} {b : ClearBody} {r : Nat} {oc : OrderOutcome} (refuses : realignRefusal l b r s = some oc) :
    32 ≤ oc.code.toNat := by
  unfold realignRefusal at refuses
  split at refuses
  · obtain rfl := Option.some_inj.1 refuses
    decide
  · split at refuses
    · obtain rfl := Option.some_inj.1 refuses
      decide
    · split at refuses
      · obtain rfl := Option.some_inj.1 refuses
        decide
      · split at refuses
        · obtain rfl := Option.some_inj.1 refuses
          decide
        · split at refuses
          · cases refuses
          · obtain rfl := Option.some_inj.1 refuses
            decide

theorem clearRefusal_code {l : Lane} {b : ClearBody} {oc : OrderOutcome} (refuses : clearRefusal l b s = some oc) :
    32 ≤ oc.code.toNat := by
  unfold clearRefusal at refuses
  split at refuses
  · obtain rfl := Option.some_inj.1 refuses
    decide
  · split at refuses
    · obtain rfl := Option.some_inj.1 refuses
      decide
    · split at refuses
      · obtain rfl := Option.some_inj.1 refuses
        decide
      · split at refuses
        · cases refuses
        · exact realignRefusal_code refuses

theorem clear (b : ClearBody) : Decided i s (faultClearVerdict b s) := by
  unfold faultClearVerdict clearVerdict
  split
  · exact (by decide : 32 ≤ OrderOutcome.badForm.code.toNat)
  · split
    · exact (by decide : 32 ≤ OrderOutcome.outOfRange.code.toNat)
    · split
      · split
        next refuses => exact clearRefusal_code refuses
        next passes => exact Accepted.clear _ b _ passes
      · exact (by decide : 32 ≤ OrderOutcome.outOfRange.code.toNat)

theorem shiftOpen (c f h : Nat) (a : Option Nat) (w : Window) : Decided i s (shiftOpenVerdict c f h a w s) := by
  unfold shiftOpenVerdict
  split
  · exact (by decide : 32 ≤ OrderOutcome.shiftOpen.code.toNat)
  next free =>
    split
    · split
      · exact (by decide : 32 ≤ OrderOutcome.outOfRange.code.toNat)
      · split
        · exact (by decide : 32 ≤ OrderOutcome.badForm.code.toNat)
        · exact Accepted.shiftOpen w c f _ _ _ (not_not.1 free)
    · exact (by decide : 32 ≤ OrderOutcome.outOfRange.code.toNat)

theorem issueLane (o : OrderHdr) (tag : Tag) (w : Window) (f : IssueFields) (items : List Text) (slot : o.slot = i)
    (opened : s.till[w].state = .opened) : Decided i s (issueLaneVerdict o tag w f items s) := by
  unfold issueLaneVerdict
  split
  · exact (by decide : 32 ≤ OrderOutcome.laneUnavailable.code.toNat)
  · split
    · exact (by decide : 32 ≤ OrderOutcome.laneUnavailable.code.toNat)
    next lane =>
      split
      · exact (by decide : 32 ≤ OrderOutcome.wrongStock.code.toNat)
      next stock =>
        split
        · exact (by decide : 32 ≤ OrderOutcome.fareRange.code.toNat)
        · split
          · exact (by decide : 32 ≤ OrderOutcome.tableFull.code.toNat)
          next room =>
            split
            · trivial
            next buffer =>
              exact Accepted.issue o tag w _ f _ items _ slot opened (by simpa using lane) (by simpa using stock) (by simpa using room) buffer

theorem issue (o : OrderHdr) (tag : Tag) (b : IssueBody) (att : Option (List Byte)) (w : Window) (slot : o.slot = i) :
    Decided i s (issueVerdict o tag b att w s) := by
  unfold issueVerdict issueFormVerdict
  split
  · exact (by decide : 32 ≤ OrderOutcome.noShift.code.toNat)
  · exact (by decide : 32 ≤ OrderOutcome.drawerClosing.code.toNat)
  next opened =>
    split
    · exact (by decide : 32 ≤ OrderOutcome.outOfRange.code.toNat)
    · split
      · exact (by decide : 32 ≤ OrderOutcome.badForm.code.toNat)
      · split
        · exact (by decide : 32 ≤ OrderOutcome.badForm.code.toNat)
        · exact issueLane o tag w _ _ slot opened

theorem void (k n : Nat) (w : Window) : Decided i s (voidVerdict k n w s) := by
  unfold voidVerdict voidEntryVerdict
  split
  · exact (by decide : 32 ≤ OrderOutcome.noShift.code.toNat)
  · exact (by decide : 32 ≤ OrderOutcome.drawerClosing.code.toNat)
  next opened =>
    split
    · exact (by decide : 32 ≤ OrderOutcome.outOfRange.code.toNat)
    · split
      · split
        · exact (by decide : 32 ≤ OrderOutcome.notFound.code.toNat)
        next found =>
          split
          · exact (by decide : 32 ≤ OrderOutcome.notIssuedState.code.toNat)
          next issued =>
            split
            · exact (by decide : 32 ≤ OrderOutcome.notThisShift.code.toNat)
            · exact Accepted.void w _ _ _ _ opened found (not_not.1 issued)
      · exact (by decide : 32 ≤ OrderOutcome.outOfRange.code.toNat)

theorem refund (k n r : Nat) (w : Window) : Decided i s (refundVerdict k n r w s) := by
  unfold refundVerdict refundEntryVerdict
  split
  · exact (by decide : 32 ≤ OrderOutcome.noShift.code.toNat)
  · exact (by decide : 32 ≤ OrderOutcome.drawerClosing.code.toNat)
  next opened =>
    split
    · split
      · split
        · exact (by decide : 32 ≤ OrderOutcome.notFound.code.toNat)
        next found =>
          split
          · exact (by decide : 32 ≤ OrderOutcome.notIssuedState.code.toNat)
          next issued => exact Accepted.refund w _ _ _ _ _ _ opened found (not_not.1 issued)
      · exact (by decide : 32 ≤ OrderOutcome.outOfRange.code.toNat)
    · exact (by decide : 32 ≤ OrderOutcome.outOfRange.code.toNat)

theorem cashUp (p : PendingCashUp) (w : Window) (slot : p.slot = i) : Decided i s (cashUpVerdict p w s) := by
  unfold cashUpVerdict
  split
  · exact (by decide : 32 ≤ OrderOutcome.noShift.code.toNat)
  · exact (by decide : 32 ≤ OrderOutcome.busy.code.toNat)
  next opened =>
    split
    · exact Accepted.cashUp w p slot opened
    · exact (by decide : 32 ≤ OrderOutcome.outOfRange.code.toNat)

theorem withdraw (w : Window) : Decided i s (withdrawVerdict w s) := by
  unfold withdrawVerdict
  split
  next closing => exact Accepted.withdraw w _ closing
  · exact (by decide : 32 ≤ OrderOutcome.notPermitted.code.toNat)
  · exact (by decide : 32 ≤ OrderOutcome.notPermitted.code.toNat)

theorem ofWindow (src : Source) {f : Window → Verdict} (h : ∀ w, Decided i s (f w)) : Decided i s (forWindow src f) := by
  unfold forWindow
  split
  · exact (by decide : 32 ≤ OrderOutcome.wrongSource.code.toNat)
  · exact h _

/-- The decision on an order command. -/
theorem owner {c : Instr} {o : OrderHdr} {code : Byte} {e : Env} (parts : orderParts c = some (o, code, e)) (src : Source) (tag : Tag)
    (att : Option (List Byte)) (s : State) : Decided o.slot s (ownerOf c src tag att s) := by
  unfold orderParts at parts
  split at parts
  case h_20 => cases parts
  all_goals cases parts
  · exact officeOpen _
  · exact dayClose
  · exact discounts _ _
  · exact fees _
  · exact layout _ _
  · exact receive _ _ _
  · exact load _ _ _ _
  · exact unload _
  · exact start _
  · exact park _
  · exact clear _
  · exact ofWindow src fun w => shiftOpen _ _ _ _ w
  · exact ofWindow src fun w => issue _ _ _ _ w rfl
  · exact ofWindow src fun w => void _ _ w
  · exact ofWindow src fun w => refund _ _ _ w
  · exact ofWindow src fun w => cashUp _ w rfl
  · unfold ownerOf
    dsimp only
    split
    · exact (by decide : 32 ≤ OrderOutcome.outOfRange.code.toNat)
    · exact withdraw _
  · exact Accepted.status _ _
  · exact (by decide : 32 ≤ OrderOutcome.badForm.code.toNat)

end Decided

/-- The decision at a take, with what the Exchange Controller decides itself (R43). -/
theorem verdictOf_decided {r : OrderRule} {o : OrderHdr} {src : Source} {owner : Option (List Byte) → State → Verdict} {i : SlotNo}
    {s : State} (h : ∀ att, Decided i s (owner att s)) : Decided i s (verdictOf r o src owner s) := by
  unfold verdictOf
  split
  · trivial
  · split
    next oc unread =>
      unfold readAttachment at unread
      split at unread
      · split at unread
        · cases unread
          exact (by decide : 32 ≤ OrderOutcome.badForm.code.toNat)
        · split at unread
          · cases unread
            exact (by decide : 32 ≤ OrderOutcome.attachmentFault.code.toNat)
          · cases unread
      · cases unread
    · split
      · exact (by decide : 32 ≤ OrderOutcome.wrongSource.code.toNat)
      · split
        · exact (by decide : 32 ≤ OrderOutcome.officeClosed.code.toNat)
        · exact h _

end Sys2Proof.Machine
end

section
/-! Orders taken and answered by what their owner has decided: refusals that change nothing (O41), and access errors and resets
inside a take (O39). -/

namespace Sys2Proof.Machine

/-! ### The changes of an acceptance, and the service after it -/

theorem applyCashUp_own {k : State} (quiet : k.host.busIn = none) (w : Window) (p : PendingCashUp) : OwnEffect k (applyCashUp w p k) := by
  have begun : OwnEffect k (k.onDrawer w fun d => d.beginCashUp p) := ⟨rfl, rfl⟩
  unfold applyCashUp
  dsimp only
  split
  · generalize cashUpEntry _ _ _ _ = e
    have given := begun.journalled (give_journalled (s := k.onDrawer w fun d => d.beginCashUp p) quiet e)
    exact ⟨given.exch, given.host⟩
  · exact begun

theorem applyIssue_own (o : OrderHdr) (tag : Tag) (w : Window) (l : Lane) (f : IssueFields) (fig : Figures) (items : List Text)
    (b : Buffer) (k : State) : OwnEffect k (applyIssue o tag w l f fig items b k) := by
  unfold applyIssue
  dsimp only
  have same := fun j => (Inward.joinLane l j).exch
  have host := fun j => (Inward.joinLane l j).host
  exact ⟨by rw [same]; rfl, by rw [host]; rfl⟩

/-- What the changes of an acceptance leave of the exchange and of the order's slot; a reply given within the take is no refusal. -/
theorem Accepted.leaves {i : SlotNo} {s : State} {change : State → State} {reply : Option (State → OrderOutcome × AnswerFields)}
    (accepted : Accepted i s change reply) :
    (∀ k, k.host.busIn = none → (change k).host.busIn = none ∧ (change k).exch.state = k.exch.state ∧
      (NoCashUpAt i k → (change k).host.slots[i] = k.host.slots[i])) ∧
    (∀ f, reply = some f → ∀ k, k.exch.state = .running → (f k).1.code.toNat < 32) ∧
    (reply = none → ∀ k, k.host.busIn = none → OwnEffect k (change k)) := by
  have of_tame : ∀ {g : State → State}, (∀ k, Tame i k (g k)) → ∀ k, k.host.busIn = none → (g k).host.busIn = none ∧
      (g k).exch.state = k.exch.state ∧ (NoCashUpAt i k → (g k).host.slots[i] = k.host.slots[i]) :=
    fun tame k quiet => ⟨(tame k).quiet quiet, (tame k).state quiet, fun away => ((tame k).slot quiet away).1⟩
  have of_own : ∀ {g : State → State}, (∀ k, k.host.busIn = none → OwnEffect k (g k)) → ∀ k, k.host.busIn = none →
      (g k).host.busIn = none ∧ (g k).exch.state = k.exch.state ∧ (NoCashUpAt i k → (g k).host.slots[i] = k.host.slots[i]) :=
    fun own k quiet => ⟨by rw [(own k quiet).host]; exact quiet, by rw [(own k quiet).exch], fun _ => by rw [(own k quiet).host]⟩
  have done : ∀ (a : State → AnswerFields) (f : State → OrderOutcome × AnswerFields), some (fun s => (OrderOutcome.done, a s)) = some f →
      ∀ k, k.exch.state = .running → (f k).1.code.toNat < 32 := fun a f is k _ => by
    obtain rfl := Option.some_inj.1 is
    exact (by decide : OrderOutcome.done.code.toNat < 32)
  cases accepted with
  | officeOpen b rate f => exact ⟨of_tame (applyOfficeOpen_tame b rate), done _, fun h => nomatch h⟩
  | dayClose f => exact ⟨of_tame applyDayClose_tame, done _, fun h => nomatch h⟩
  | discounts rs f => exact ⟨of_tame fun k => Tame.setFare k _, done _, fun h => nomatch h⟩
  | fees ps f => exact ⟨of_tame fun k => Tame.setFare k _, done _, fun h => nomatch h⟩
  | layout n fs f => exact ⟨of_tame fun k => Tame.onIssue k _, done _, fun h => nomatch h⟩
  | receive k first count rs f => exact ⟨of_tame (applyReceive_tame k first count rs), done _, fun h => nomatch h⟩
  | load l k first count r f => exact ⟨of_tame (applyLoad_tame l k first count), done _, fun h => nomatch h⟩
  | unload l m rs f => exact ⟨of_tame (applyUnload_tame l m rs), done _, fun h => nomatch h⟩
  | start l f => exact ⟨of_tame (Tame.toStarting l _), done _, fun h => nomatch h⟩
  | setReason l f => exact ⟨of_tame fun k => Tame.of_lane (LaneOnly.onLane l _ k), done _, fun h => nomatch h⟩
  | park l f => exact ⟨of_tame (Tame.park l _ _), done _, fun h => nomatch h⟩
  | clear l b f => exact ⟨of_tame (applyFaultClear_tame l b), done _, fun h => nomatch h⟩
  | shiftOpen w clerk float home alt f => exact ⟨of_tame (applyShiftOpen_tame w clerk float home alt), done _, fun h => nomatch h⟩
  | issue o tag w l f fig items b =>
    exact ⟨of_tame (applyIssue_tame o tag w l f fig items b), fun f h => (nomatch h),
      fun _ k _ => applyIssue_own o tag w l f fig items b k⟩
  | void w k n e f => exact ⟨of_tame (applyVoid_tame w e), done _, fun h => nomatch h⟩
  | refund w k n reason amount e f => exact ⟨of_tame (applyRefund_tame w e reason amount), done _, fun h => nomatch h⟩
  | cashUp w p =>
    refine ⟨of_own fun k quiet => applyCashUp_own quiet w p, fun f is k _ => ?_, fun _ k quiet => applyCashUp_own quiet w p⟩
    unfold cashUpReply at is
    dsimp only at is
    split at is
    · obtain rfl := Option.some_inj.1 is
      exact (by decide : OrderOutcome.cashedUp.code.toNat < 32)
    · cases is
  | withdraw w f => exact ⟨of_tame (applyWithdraw_tame w), done _, fun h => nomatch h⟩
  | status dest len =>
    refine ⟨of_tame (writeSnapshot_tame dest len), fun f is k running => ?_, fun h => nomatch h⟩
    obtain rfl := Option.some_inj.1 is
    rw [statusReply, if_pos running]
    exact (by decide : OrderOutcome.done.code.toNat < 32)

/-- What is left by the take of an order that its owner accepts: its changes, with the exchange and host memory as the answer and
the service of the sources leave them. -/
theorem Offers.accepted {r : OrderRule} {o : OrderHdr} {b : OrderBody} {owner : Owner} {s : State} {src : Source} {tag : Tag}
    {change : State → State} {reply : Option (State → OrderOutcome × AnswerFields)} (offers : Offers s o.slot src tag)
    (verdict : verdictOf r o src (owner src tag) s = .accept change reply) (accepted : Accepted o.slot s change reply) :
    ∃ t, takeOrder r o b Env.quiet owner s = t ∧
      t = { change (takenState s r o b src) with exch := t.exch, host := t.host } ∧
      t.exch.tags = (change (takenState s r o b src)).exch.tags ∧
      t.host.journal = (change (takenState s r o b src)).host.journal ∧
      t.host.snapshot = (change (takenState s r o b src)).host.snapshot ∧
      ∀ a, t.host.slots[o.slot] = ⟨3, some a⟩ → a.outcome.code.toNat < 32 := by
  obtain ⟨x, h, frame, quiet⟩ := takenState_frame s r o b src
  have quiet : (takenState s r o b src).host.busIn = none := by rw [frame]; exact quiet.trans offers.quiet
  have running : (takenState s r o b src).exch.state = .running := (takenState_sameJournal s r o b src).state.trans offers.running
  obtain ⟨slot, -, unposted⟩ := takenState_slot s r o b src
  obtain ⟨leaves, replies, later⟩ := accepted.leaves
  obtain ⟨quiet', state', -⟩ := leaves _ quiet
  have running' := state'.trans running
  cases reply with
  | some f =>
    obtain ⟨srcs, served⟩ := takeOrder_done (b := b) (j := o.slot) offers verdict quiet' running' fun _ => written_unposted _ _ _
    have small := replies f rfl _ running'
    generalize takeOrder r o b Env.quiet owner s = t at served
    generalize change (takenState s r o b src) = g at *
    refine ⟨t, rfl, served.rest.trans (by rw [written_frame]), served.tags, served.ring, served.snapshot, fun a is => ?_⟩
    have answered := served.slot.symm.trans is
    rw [show (written o.slot _ g).host.slots[o.slot] = _ from Table.upd_same _ _ _] at answered
    obtain rfl := Option.some_inj.1 (congrArg HostSlot.answer answered)
    exact small
  | none =>
    have own := later rfl _ quiet
    have unposted' : postedHeader (change (takenState s r o b src)) o.slot = none :=
      (postedHeader_congr (by rw [own.exch]) (by rw [own.exch]) _).trans unposted
    obtain ⟨srcs, served⟩ := takeOrder_begun (b := b) offers verdict quiet' running' unposted'
    have slot' := (congrArg (fun h : HostMem => h.slots[o.slot]) own.host).trans slot
    generalize takeOrder r o b Env.quiet owner s = t at served
    generalize change (takenState s r o b src) = g at *
    refine ⟨t, rfl, served.rest, served.tags, served.ring, served.snapshot, fun a is => ?_⟩
    have taken := (served.slot.symm.trans is).symm.trans slot'
    exact nomatch (congrArg HostSlot.state taken)

/-! ### How an order command is decided -/

theorem staleAnswer_outcome {srcs : List Source} {i : SlotNo} {s : State} {a : Answer} (is : staleAnswer srcs i s = some a) :
    a.outcome = .staleTag := by
  unfold staleAnswer at is
  obtain ⟨h, -, is⟩ := Option.bind_eq_some_iff.1 is
  obtain ⟨v, -, is⟩ := Option.bind_eq_some_iff.1 is
  split at is
  · exact (congrArg Answer.outcome (Option.some_inj.1 is)).symm
  · cases is

/-- The service of the sources leaves a slot, or answers it STALE_TAG. -/
theorem serve_slot (j : SlotNo) : ∀ (srcs : List Source) (s : State), s.host.busIn = none → s.exch.state = .running →
    (serve srcs s).host.slots[j] = s.host.slots[j] ∨
      ∃ a, (serve srcs s).host.slots[j] = ⟨3, some a⟩ ∧ a.outcome = .staleTag
  | [], s, _, _ => .inl rfl
  | v :: rest, s, quiet, running => by
    have swept := answerStale_swept v quiet running
    have here : (answerStale v s).host.slots[j] = s.host.slots[j] ∨
        ∃ a, (answerStale v s).host.slots[j] = ⟨3, some a⟩ ∧ a.outcome = .staleTag := by
      cases is : staleAnswer [v] j s with
      | none => exact .inl (swept.left j is).1.slot
      | some a => exact .inr ⟨a, (swept.answered j a is).1.slot, staleAnswer_outcome is⟩
    rw [serve]
    generalize answerStale v s = u at swept here
    unfold offerNext
    split
    · exact here
    · split
      · exact here
      · rcases serve_slot j rest u swept.quiet swept.running with left | stale
        · rw [left]
          exact here
        · exact .inr stale

theorem servePast_slot {s : State} (quiet : s.host.busIn = none) (running : s.exch.state = .running) (j : SlotNo) :
    (servePast s).host.slots[j] = s.host.slots[j] ∨ ∃ a, (servePast s).host.slots[j] = ⟨3, some a⟩ ∧ a.outcome = .staleTag := by
  unfold servePast
  split
  · exact .inl rfl
  · exact serve_slot j _ _ quiet running

/-- An order that is not takeable now. -/
theorem Offers.passed {r : OrderRule} {o : OrderHdr} {b : OrderBody} {owner : Owner} {s : State} {src : Source} {tag : Tag}
    (offers : Offers s o.slot src tag) (verdict : verdictOf r o src (owner src tag) s = .wait) :
    takeOrder r o b Env.quiet owner s = (servePast s).setBus none := by
  obtain ⟨header, htag, -⟩ := offers.header r.code
  unfold takeOrder
  rw [header]
  simp only [withBus, Env.quiet, setLines_nil, setBus_quiet offers.quiet, htag, verdict, settleVerdict]

/-- An order command is the take of an order by its rule and its owner, or has a code that is none of its own. -/
theorem order_taken {c : Instr} {o : OrderHdr} {code : Byte} (parts : orderParts c = some (o, code, Env.quiet)) (s : State) :
    exec c s = .next s ∨ ∃ r b, r.code = code ∧ exec c s = .next (takeOrder r o b Env.quiet (ownerOf c) s) ∧
      ((∀ src tag att, ownerOf c src tag att s = .refuse .badForm) ∨ TakenBy c o code r b) := by
  rcases takenBy_of_parts parts with rfl | ⟨same, -, r, b, by'⟩
  · by_cases unknown : 1 ≤ code.toNat ∧ code.toNat ≤ 18
    · left
      show Host.Outcome.next (takeUnknown o code Env.quiet s) = _
      unfold takeUnknown
      rw [if_pos unknown]
    · right
      exact ⟨unknownRule code, .other, rfl, congrArg _ (takeUnknown_eq unknown o Env.quiet s), .inl fun _ _ _ => rfl⟩
  · exact .inr ⟨r, b, by'.rule.coded, by rw [← by'.runs, same], .inr by'⟩

/-- Settles O41: a take that ends in an answer of 32 or above was refused. -/
theorem refusedOrderChangesNothing : Obligations.RefusedOrderChangesNothing := by
  intro c o code s t src tag w a parts offers posted sweep apart runs answered refused
  rcases order_taken parts s with same | ⟨r, b, rfl, runs', -⟩
  · rw [same] at runs
    cases runs
    rw [answered] at posted
    exact nomatch posted
  · have decided := verdictOf_decided (r := r) (o := o) (src := src) fun att => Decided.owner parts src tag att s
    have is := runs
    rw [runs'] at is
    cases verdict : verdictOf r o src (ownerOf c src tag) s with
    | wait =>
      obtain ⟨past, served⟩ := offers.waits (b := b) verdict sweep apart
      rw [past] at is
      cases is
      rw [← served.slot, answered] at posted
      exact nomatch posted
    | accept change reply =>
      rw [verdict] at decided
      obtain ⟨u, taken, -, -, -, -, small⟩ := offers.accepted (b := b) verdict decided
      rw [taken] at is
      cases is
      exact absurd (small a answered) (by omega)
    | refuse oc =>
      obtain ⟨u, taken, rest, nothing, answers⟩ := offers.refused runs' verdict
      rw [taken] at runs
      cases runs
      obtain rfl : a = ⟨oc, r.code, tag, s.office.clock, .none⟩ :=
        Option.some_inj.1 (congrArg HostSlot.answer (answered.symm.trans answers.answered.slot))
      exact ⟨rest, nothing, rfl, rfl, rfl, rfl, answers⟩

end Sys2Proof.Machine
end

section
/-! Host-memory accesses that end in an error, and resets inside a take (O39). -/

namespace Sys2Proof.Machine

/-! ### Orders that are taken -/

/-- A decision to accept does not see what is left of an access error; the reply alone may. -/
theorem owner_setBus {c : Instr} {o : OrderHdr} {code : Byte} {e : Env} (parts : orderParts c = some (o, code, e)) (src : Source)
    (tag : Tag) (att : Option (List Byte)) (s : State) (n : Option Nat) {change : State → State}
    {reply : Option (State → OrderOutcome × AnswerFields)} (accepts : ownerOf c src tag att s = .accept change reply) :
    ∃ reply, ownerOf c src tag att (s.setBus n) = .accept change reply := by
  unfold orderParts at parts
  split at parts
  case h_20 => cases parts
  case h_11 o b e =>
    unfold ownerOf faultClearVerdict clearVerdict at accepts ⊢
    dsimp only at accepts ⊢
    split at accepts
    · cases accepts
    next few =>
      rw [if_neg few]
      split at accepts
      · cases accepts
      next l lane =>
        split at accepts
        next ranges =>
          have same : clearRefusal l b (s.setBus n) = clearRefusal l b s := rfl
          rw [if_pos ranges, same]
          split at accepts
          · cases accepts
          next passes =>
            cases accepts
            exact ⟨_, rfl⟩
        · cases accepts
  all_goals exact ⟨reply, accepts⟩

theorem verdictOf_setBus {c : Instr} {o : OrderHdr} {code : Byte} {e : Env} (parts : orderParts c = some (o, code, e)) {r : OrderRule}
    {src : Source} {tag : Tag} {s : State} (n : Option Nat) {change : State → State}
    {reply : Option (State → OrderOutcome × AnswerFields)} (accepts : verdictOf r o src (ownerOf c src tag) s = .accept change reply) :
    ∃ reply, verdictOf r o src (ownerOf c src tag) (s.setBus n) = .accept change reply := by
  have journal : (s.setBus n).journal = s.journal := rfl
  have office : (s.setBus n).office = s.office := rfl
  unfold verdictOf at accepts ⊢
  rw [journal, office]
  split at accepts
  · cases accepts
  next gate =>
    rw [if_neg gate]
    split at accepts
    · cases accepts
    next att read =>
      split at accepts
      · cases accepts
      next may =>
        rw [if_neg may]
        split at accepts
        · cases accepts
        next opened =>
          rw [if_neg opened]
          exact owner_setBus parts src tag att s n accepts

/-- An order that is TAKEN or answered below 32 at its take was accepted. -/
theorem Offers.accepts {c : Instr} {o : OrderHdr} {code : Byte} {s t : State} {src : Source} {tag : Tag}
    (parts : orderParts c = some (o, code, Env.quiet)) (offers : Offers s o.slot src tag) (posted : s.host.slots[o.slot].state = 1)
    (runs : exec c s = .next t)
    (settled : t.host.slots[o.slot].state = 2 ∨ ∃ a, t.host.slots[o.slot] = ⟨3, some a⟩ ∧ a.outcome.code.toNat < 32) :
    ∃ r b change reply, TakenBy c o code r b ∧ verdictOf r o src (ownerOf c src tag) s = .accept change reply ∧
      Accepted o.slot s change reply ∧ takeOrder r o b Env.quiet (ownerOf c) s = t := by
  have notPosted : t.host.slots[o.slot].state ≠ 1 := by
    rcases settled with two | ⟨a, is, -⟩
    · rw [two]
      decide
    · rw [is]
      exact (by decide : (3 : Byte) ≠ 1)
  have notRefused : ∀ a, t.host.slots[o.slot] = ⟨3, some a⟩ → a.outcome.code.toNat < 32 := fun a is => by
    rcases settled with two | ⟨b, is', small⟩
    · rw [is] at two
      exact absurd two (by decide : (3 : Byte) ≠ 2)
    · obtain rfl := Option.some_inj.1 (congrArg HostSlot.answer (is'.symm.trans is))
      exact small
  rcases order_taken parts s with same | ⟨r, b, rfl, runs', by'⟩
  · rw [same] at runs
    cases runs
    exact absurd posted notPosted
  · have decided := verdictOf_decided (r := r) (o := o) (src := src) fun att => Decided.owner parts src tag att s
    rw [runs'] at runs
    cases verdict : verdictOf r o src (ownerOf c src tag) s with
    | wait =>
      rw [offers.passed verdict] at runs
      cases runs
      rcases servePast_slot offers.quiet offers.running o.slot with left | ⟨a, is, stale⟩
      · exact absurd ((congrArg HostSlot.state left).trans posted) notPosted
      · have small := notRefused a is
        rw [stale] at small
        exact absurd small (by decide)
    | refuse oc =>
      rw [verdict] at decided
      obtain ⟨u, taken, -, -, answers⟩ := offers.refused runs' verdict
      rw [runs', runs] at taken
      cases taken
      have small := notRefused _ answers.answered.slot
      exact absurd decided (Nat.not_le.2 small)
    | accept change reply =>
      rw [verdict] at decided
      rcases by' with refuses | by'
      · have never : ∀ att, ownerOf c src tag att s ≠ .accept change reply := fun att is => nomatch ((refuses src tag att).symm.trans is)
        unfold verdictOf at verdict
        split at verdict
        · cases verdict
        · split at verdict
          · cases verdict
          · split at verdict
            · cases verdict
            · split at verdict
              · cases verdict
              · exact absurd verdict (never _)
      · cases runs
        exact ⟨r, b, change, reply, by', verdict, decided, rfl⟩

/-- The take of an accepted order whose TAKEN write fails (R52). -/
theorem Offers.fails {c : Instr} {o : OrderHdr} {code : Byte} {r : OrderRule} {b : OrderBody} {s : State} {src : Source} {tag : Tag}
    {change : State → State} {reply : Option (State → OrderOutcome × AnswerFields)} (offers : Offers s o.slot src tag)
    (parts : orderParts c = some (o, code, Env.quiet))
    (verdict : verdictOf r o src (ownerOf c src tag) s = .accept change reply) :
    takeOrder r o b ⟨some 0, none, []⟩ (ownerOf c) s = busFault s := by
  obtain ⟨header, htag, -⟩ := offers.header r.code
  obtain ⟨reply', verdict'⟩ := verdictOf_setBus parts (some 0) verdict
  have back : (s.setBus (some 0)).setBus none = s := setBus_quiet offers.quiet
  have access : (s.setBus (some 0)).access = ((s.setBus (some 0)).setBus none, false) := rfl
  unfold takeOrder
  rw [header]
  simp only [withBus, setLines_nil, htag, verdict', settleVerdict, acceptOrder, access, back, Bool.not_false, if_true]
  exact setBus_quiet (s := busFault s) offers.quiet

theorem busFault_halts {s : State} (on : s.exch.stopAtEnd = false) : busFault s = { s with exch := { s.exch with
    alerts := { s.exch.alerts with busFault := true }, state := .halted, sweep := none, timer := none, again := false } } := by
  unfold busFault State.onExch
  dsimp only
  rw [on]
  rfl

/-- The take of an accepted order inside which a reset comes (R173, log entry 7). -/
theorem Offers.cut {o : OrderHdr} {r : OrderRule} {b : OrderBody} {owner : Owner} {s : State} {src : Source} {tag : Tag}
    {change : State → State} {reply : Option (State → OrderOutcome × AnswerFields)} (offers : Offers s o.slot src tag)
    (verdict : verdictOf r o src (owner src tag) s = .accept change reply) (changed : Bool) (k : ResetKind) :
    takeOrder r o b ⟨none, some ⟨changed, k⟩, []⟩ owner s =
      doReset k (if changed then change (takenState s r o b src) else markTaken o.slot (orderHeader s o.slot r.code)
        (orderCopy r.attaches o b) s) := by
  obtain ⟨header, htag, -⟩ := offers.header r.code
  unfold takeOrder
  rw [header]
  simp only [withBus, setLines_nil, setBus_quiet offers.quiet, htag, verdict, settleVerdict, acceptOrder, access_quiet offers.quiet,
    Bool.not_true, Bool.false_eq_true, if_false]
  exact setBus_quiet (s := doReset k _) rfl

/-- A reset sees of the exchange the expected tags alone. -/
theorem doReset_congr {g t : State} (k : ResetKind) (rest : t = { g with exch := t.exch, host := t.host })
    (tags : t.exch.tags = g.exch.tags) : doReset k g = { doReset k t with host := (doReset k g).host } := by
  rw [rest]
  unfold doReset ExchangeController.afterReset
  rw [tags]

/-! ### Accesses that fail (R46, R52, R164) -/

theorem access_fails {s : State} (fails : s.host.busIn = some 0) : s.access = (s.setBus none, false) := by
  unfold State.access
  rw [fails]

/-- An entry whose write fails is the front of the holding queue (R164). -/
theorem give_fails {s : State} {b : EntryBody} {r : Nat} (on : s.exch.stopAtEnd = false) (running : s.exch.state = .running)
    (fails : s.host.busIn = some 0) (holding : s.journal.holding = []) (overflow : s.journal.overflow = [])
    (release : s.journal.release = some r) (room : (s.journal.head + (s.journal.n - r)) % s.journal.n + 2 ≤ s.journal.n) :
    give b s = { s with
      host := { s.host with busIn := none }
      journal := { s.journal with holding := [⟨s.office.day, s.office.clock, b⟩], closed := true }
      exch := { s.exch with
        alerts := { s.exch.alerts with
          busFault := true, pressure := s.exch.alerts.pressure || !s.journal.closed }
        state := .halted, sweep := none, timer := none, again := false } } := by
  have now : canWriteNow s = true := (canWriteNow_iff s).2 ⟨running, holding, overflow, r, release, room⟩
  have close : ∀ u : State, u.journal.holding ≠ [] → u.journal.release = some r → closeGate u =
      if u.journal.closed = true then u
      else (u.onJournal fun j => { j with closed := true }).onAlerts fun a => { a with pressure := true } := fun u waits present => by
    have must : u.journal.mustClose = true := by
      unfold JournalWriter.mustClose JournalWriter.free
      rw [present, Option.map_some, Option.any_some, List.isEmpty_eq_false_iff.2 waits]
      simp
    unfold closeGate
    rw [must]
    cases u.journal.closed <;> rfl
  unfold give place
  rw [if_pos now]
  simp only [writeEntry, access_fails fails, Bool.false_eq_true, if_false]
  rw [close]
  · have halts := busFault_halts (s := s.setBus none) on
    rw [halts]
    unfold State.onAlerts State.onJournal State.onExch State.setBus State.onHost stamp
    dsimp only
    rw [holding]
    cases is : s.journal.closed
    · rw [Bool.not_false, Bool.or_true]
      rfl
    · rw [Bool.not_true, Bool.or_false, if_pos rfl, ← is]
  · exact List.cons_ne_nil _ _
  · exact release

/-- A STATUS READ whose snapshot cannot be written (R49, R52). -/
theorem statusRead_fails {s : State} {o : OrderHdr} (dest : BitVec 64) {len : Nat} {src : Source} {tag : Tag}
    (offers : Offers s o.slot src tag) (on : s.exch.stopAtEnd = false) (some' : 1 ≤ len) :
    ∃ t, exec (.statusRead o dest len ⟨some 1, none, []⟩) s = .next t ∧ t = { s with exch := t.exch, host := t.host } ∧
      t.host.slots[o.slot] = ⟨2, s.host.slots[o.slot].answer⟩ ∧ t.host.snapshot = s.host.snapshot ∧
      t.exch.state = .halted ∧ t.exch.alerts = { s.exch.alerts with busFault := true } ∧ t.exch.sweep = none ∧
      t.exch.marks = s.exch.marks ∧ TagTaken s t src ∧
      t.exch.pendingAns = s.exch.pendingAns ++ [(o.slot, ⟨.attachmentFault, 18, tag, s.office.clock, .none⟩)] := by
  obtain ⟨header, htag, kind⟩ := offers.header 18
  obtain ⟨slot, -, -⟩ := takenState_slot s statusReadRule o (.statusRead dest len) src
  obtain ⟨-, tags, kept⟩ := takenState_kept s statusReadRule o (.statusRead dest len) src
  obtain ⟨x, h, frame, quiet⟩ := takenState_frame s statusReadRule o (.statusRead dest len) src
  have quiet : (takenState s statusReadRule o (.statusRead dest len) src).host.busIn = none := by
    rw [frame]
    exact quiet.trans offers.quiet
  have same : (takenState s statusReadRule o (.statusRead dest len) src).exch.alerts = s.exch.alerts ∧
      (takenState s statusReadRule o (.statusRead dest len) src).exch.marks = s.exch.marks ∧
      (takenState s statusReadRule o (.statusRead dest len) src).exch.stopAtEnd = s.exch.stopAtEnd ∧
      (takenState s statusReadRule o (.statusRead dest len) src).host.snapshot = s.host.snapshot := ⟨rfl, rfl, rfl, rfl⟩
  have clock : (takenState s statusReadRule o (.statusRead dest len) src).office.clock = s.office.clock := rfl
  have verdict : verdictOf statusReadRule o src (fun _ _ => .accept (writeSnapshot dest len) (some (statusReply len)))
      (s.setBus (some 1)) = .accept (writeSnapshot dest len) (some (statusReply len)) := by
    simp only [verdictOf, statusReadRule, readAttachment, Bool.false_and, Bool.not_true, Bool.and_false, Bool.false_eq_true, if_false]
  have access : (s.setBus (some 1)).access = (s.setBus (some 0), true) := rfl
  have taken : advanceTag src (markTaken o.slot (orderHeader s o.slot 18) (orderCopy statusReadRule.attaches o (.statusRead dest len))
      (s.setBus (some 0))) = (takenState s statusReadRule o (.statusRead dest len) src).setBus (some 0) := rfl
  have runs : exec (.statusRead o dest len ⟨some 1, none, []⟩) s = .next ((finishTake o.slot (orderHeader s o.slot 18)
      (some (statusReply len)) (writeSnapshot dest len
        ((takenState s statusReadRule o (.statusRead dest len) src).setBus (some 0)))).setBus none) := by
    show Host.Outcome.next (takeOrder statusReadRule o (.statusRead dest len) ⟨some 1, none, []⟩
      (fun _ _ _ _ => .accept (writeSnapshot dest len) (some (statusReply len))) s) = _
    rw [← taken]
    unfold takeOrder
    rw [show statusReadRule.code = 18 from rfl, header]
    simp only [withBus, setLines_nil, verdict, settleVerdict, acceptOrder, access, Bool.not_true, Bool.false_eq_true, if_false]
  generalize takenState s statusReadRule o (.statusRead dest len) src = k at *
  obtain ⟨alerts, marks, stop, snap⟩ := same
  have on' : k.exch.stopAtEnd = false := stop.trans on
  have back : (k.setBus (some 0)).setBus none = k := setBus_quiet quiet
  have fails : writeSnapshot dest len (k.setBus (some 0)) = busFault k := by
    have bytes : snapshotLen len ≠ 0 := by
      unfold snapshotLen
      have : Config.snapshotBytes = 1024 := rfl
      omega
    have access : (k.setBus (some 0)).access = ((k.setBus (some 0)).setBus none, false) := rfl
    unfold writeSnapshot
    rw [if_neg bytes]
    simp only [access, back, Bool.false_eq_true, if_false]
  have halted : (busFault k).exch.state = .halted := by rw [busFault_halts on']
  have reply : finishTake o.slot (orderHeader s o.slot 18) (some (statusReply len)) (busFault k) =
      holdAnswer o.slot ⟨.attachmentFault, 18, tag, s.office.clock, .none⟩ (busFault k) := by
    have stopped : (busFault k).exch.state ≠ .running := by rw [halted]; decide
    have answered := answer_held stopped o.slot 18 tag .attachmentFault .none
    have faulted : statusReply len (busFault k) = (.attachmentFault, .none) := if_neg stopped
    unfold finishTake
    simp only [faulted, htag, kind, answered]
    rw [show (busFault k).office.clock = s.office.clock from clock]
    rfl
  rw [fails, reply, busFault_halts on'] at runs
  refine ⟨_, runs, ?_, slot, snap, rfl, ?_, rfl, marks, ⟨tags.tag, tags.tags⟩, ?_⟩
  · rw [frame]
    rfl
  · show ({ k.exch.alerts with busFault := true } : Alerts) = _
    rw [alerts]
  · show k.exch.pendingAns ++ _ = _
    rw [kept.pendingAns]

/-- Settles O39: each access by the operation that makes it, and the resets by the two states in which they find a take. -/
theorem accessErrorsAndResetsInTake : Obligations.AccessErrorsAndResetsInTake := by
  refine ⟨fun c o code s t src tag parts offers posted on runs settled => ?_, fun s i kind tag oc f on => ⟨fun running fails => ?_,
    fun held => answer_held held i kind tag oc f⟩, fun s b r on running fails holding overflow release room =>
      give_fails on running fails holding overflow release room, fun s o dest len src tag offers on some' =>
      statusRead_fails dest offers on some', fun s w release hs on quiet sweep step => ?_,
    fun c o code s t src tag k parts offers posted runs settled away => ?_⟩
  · obtain ⟨r, b, change, reply, by', verdict, -, -⟩ := offers.accepts parts posted runs settled
    rw [by'.runs, offers.fails parts verdict, busFault_halts on]
  · have halts := busFault_halts (s := s.setBus none) on
    unfold answer tryAnswer
    dsimp only
    rw [if_pos running, access_fails fails]
    simp only [Bool.false_eq_true, if_false]
    rw [halts]
    rfl
  · have failed : sweepStep release.toNat hs (s.setBus (some 0)) = busFault (stepped s) := by
      rw [sweepStep_one (s := s.setBus (some 0)) sweep step]
      have access : (stepped (s.setBus (some 0))).access = ((stepped (s.setBus (some 0))).setBus none, false) := rfl
      have back : (stepped (s.setBus (some 0))).setBus none = stepped s := setBus_quiet (s := stepped s) quiet
      unfold sweepRead
      simp only [access, back, Bool.not_false, if_true]
    show Host.Outcome.next ((sweepSteps 1 release.toNat hs (s.setBus (some 0))).setBus none) = _
    rw [show sweepSteps 1 release.toNat hs (s.setBus (some 0)) = sweepStep release.toNat hs (s.setBus (some 0)) from rfl, failed,
      setBus_quiet (s := busFault (stepped s)) quiet, busFault_halts (s := stepped s) on]
    rfl
  · obtain ⟨r, b, change, reply, by', verdict, accepted, taken⟩ := offers.accepts parts posted runs settled
    obtain ⟨t', taken', rest, tags, ring, snap, -⟩ := offers.accepted (b := b) verdict accepted
    obtain rfl : t' = t := taken'.symm.trans taken
    obtain ⟨x, h, frame, quiet⟩ := takenState_frame s r o b src
    obtain ⟨slot, -, -⟩ := takenState_slot s r o b src
    obtain ⟨leaves, -, -⟩ := accepted.leaves
    obtain ⟨-, -, stands⟩ := leaves (takenState s r o b src) (by rw [frame]; exact quiet.trans offers.quiet)
    have away' : NoCashUpAt o.slot (takenState s r o b src) := by rw [frame]; exact away
    refine ⟨?_, doReset k t', _, exec_reset_command k t', (by'.runs _ s).trans (congrArg _ (offers.cut verdict true k)), ?_, ?_, ?_, ?_⟩
    · rw [by'.runs, offers.cut verdict false k, exec_reset_command]
      rfl
    · exact doReset_congr k rest tags
    · exact (stands away').trans slot
    · exact ring.symm
    · exact snap.symm

end Sys2Proof.Machine
end

section
/-! The drain of a sweep's first step (R141, R164, R167, R168; O37): entries written from the head, items moved up from the overflow
line, and the two together. -/

namespace Sys2Proof.Machine

/-! ### Entries written from the head (R164) -/

/-- One entry written at the head. -/
def filedAtHead (e : Entry) (s : State) : State :=
  { s with
    journal := s.journal.advance
    host := { s.host with
      journal := Memory.put (journalAddress s s.journal.head) ⟨e, s.journal.seq, s.journal.pass⟩ s.host.journal } }

/-- Entries written at the head in turn. -/
def filedAll : List Entry → State → State
  | [], s => s
  | e :: es, s => filedAll es (filedAtHead e s)

/-- The Journal Writer's queues and the fault records replaced. -/
def requeued (t : FaultTable) (h : List Entry) (o : List OverflowItem) (s : State) : State :=
  { s with faults := t, journal := { s.journal with holding := h, overflow := o } }

theorem filedAll_append (xs ys : List Entry) : ∀ s, filedAll (xs ++ ys) s = filedAll ys (filedAll xs s) := by
  induction xs with
  | nil => exact fun _ => rfl
  | cons x xs ih => exact fun s => ih (filedAtHead x s)

/-- The writes do not see the queues and the fault records. -/
theorem filedAll_requeued (t : FaultTable) (h : List Entry) (o : List OverflowItem) (es : List Entry) :
    ∀ s, filedAll es (requeued t h o s) = requeued t h o (filedAll es s) := by
  induction es with
  | nil => exact fun _ => rfl
  | cons e es ih => exact fun s => ih (filedAtHead e s)

/-- What the writes leave of everything but the Journal Writer and the ring. -/
theorem filedAll_rest (es : List Entry) : ∀ s, filedAll es s =
    { s with journal := (filedAll es s).journal, host := { s.host with journal := (filedAll es s).host.journal } } := by
  induction es with
  | nil => exact fun _ => rfl
  | cons e es ih => exact fun s => (ih (filedAtHead e s)).trans rfl

theorem seq_next (v : BitVec 32) (n : Nat) : v + 1 + BitVec.ofNat 32 n = v + BitVec.ofNat 32 (n + 1) := by
  have one : (1 : BitVec 32) = BitVec.ofNat 32 1 := rfl
  rw [BitVec.add_assoc, one, ← BitVec.ofNat_add, Nat.add_comm]

/-- The head, the sequence number and the pass count after some entries have been written (R164). -/
theorem filedAll_journal (es : List Entry) : ∀ s, s.journal.head < s.journal.n → es.length < s.journal.n →
    (filedAll es s).journal = { s.journal with
      head := (s.journal.head + es.length) % s.journal.n
      seq := s.journal.seq + BitVec.ofNat 32 es.length
      pass := if s.journal.n ≤ s.journal.head + es.length then s.journal.pass + 1 else s.journal.pass } := by
  induction es with
  | nil =>
    intro s inside _
    rw [filedAll, List.length_nil, Nat.add_zero, Nat.mod_eq_of_lt inside, if_neg (by omega), BitVec.add_zero]
  | cons e es ih =>
    intro s inside few
    rw [List.length_cons] at few ⊢
    have head : (filedAtHead e s).journal.head = if s.journal.head + 1 = s.journal.n then 0 else s.journal.head + 1 := rfl
    have n : (filedAtHead e s).journal.n = s.journal.n := rfl
    have seq : (filedAtHead e s).journal.seq = s.journal.seq + 1 := rfl
    have pass : (filedAtHead e s).journal.pass = if s.journal.head + 1 = s.journal.n then s.journal.pass + 1 else s.journal.pass := rfl
    rw [filedAll, ih (filedAtHead e s) (by rw [head, n]; split <;> omega) (by rw [n]; omega), head, n, seq, pass]
    rw [seq_next]
    by_cases wraps : s.journal.head + 1 = s.journal.n
    · have place : (0 + es.length) % s.journal.n = (s.journal.head + (es.length + 1)) % s.journal.n := by
        rw [show s.journal.head + (es.length + 1) = es.length + s.journal.n by omega, Nat.add_mod_right, Nat.zero_add]
      rw [if_pos wraps, if_pos wraps, place, if_neg (by omega), if_pos (by omega)]
      rfl
    · rw [if_neg wraps, if_neg wraps, show s.journal.head + 1 + es.length = s.journal.head + (es.length + 1) by omega]
      rfl

/-- The host addresses of two places of the ring differ. -/
theorem journalAddress_inj (s : State) {i j : Nat} (low : i < 8192) (low' : j < 8192) (same : journalAddress s i = journalAddress s j) :
    i = j := by
  unfold journalAddress at same
  generalize areaAddress s.exch + s.exch.latchedOffset = base at same
  omega

theorem ring_place_inj {h n i j : Nat} (inside : h < n) (few : i < n) (few' : j < n) (same : (h + i) % n = (h + j) % n) : i = j := by
  have key : (h + i) % n = if h + i < n then h + i else h + i - n := by
    split
    · exact Nat.mod_eq_of_lt ‹_›
    · rw [Nat.mod_eq_sub_mod (by omega), Nat.mod_eq_of_lt (by omega)]
  have key' : (h + j) % n = if h + j < n then h + j else h + j - n := by
    split
    · exact Nat.mod_eq_of_lt ‹_›
    · rw [Nat.mod_eq_sub_mod (by omega), Nat.mod_eq_of_lt (by omega)]
  rw [key, key'] at same
  split at same <;> split at same <;> omega

/-- The place that an entry takes after those before it. -/
theorem ring_place_next {h n i : Nat} :
    ((if h + 1 = n then 0 else h + 1) + i) % n = (h + (i + 1)) % n := by
  split
  · rw [show h + (i + 1) = i + n by omega, Nat.add_mod_right, Nat.zero_add]
  · rw [show h + 1 + i = h + (i + 1) by omega]

/-- An address at which none of the entries is written reads as before. -/
theorem filedAll_read_other {a : Nat} (es : List Entry) : ∀ s, s.journal.head < s.journal.n →
    (∀ i, i < es.length → a ≠ journalAddress s ((s.journal.head + i) % s.journal.n)) →
    Memory.read a (filedAll es s).host.journal = Memory.read a s.host.journal := by
  induction es with
  | nil => exact fun _ _ _ => rfl
  | cons e es ih =>
    intro s inside away
    have head : (filedAtHead e s).journal.head = if s.journal.head + 1 = s.journal.n then 0 else s.journal.head + 1 := rfl
    have n : (filedAtHead e s).journal.n = s.journal.n := rfl
    have first := away 0 (by rw [List.length_cons]; omega)
    rw [Nat.add_zero, Nat.mod_eq_of_lt inside] at first
    rw [filedAll, ih (filedAtHead e s) (by rw [head, n]; split <;> omega) fun i few => by
      rw [head, n, ring_place_next]
      exact away (i + 1) (by rw [List.length_cons]; omega)]
    exact Memory.read_put_ne first _ _

/-- Each entry stands at its address, with its sequence number and pass. -/
theorem filedAll_read (es : List Entry) : ∀ s, s.journal.head < s.journal.n → s.journal.n ≤ 8192 → es.length < s.journal.n →
    ∀ (i : Nat) (e : Entry), es[i]? = some e →
      Memory.read (journalAddress s ((s.journal.head + i) % s.journal.n)) (filedAll es s).host.journal =
        some ⟨e, s.journal.seq + BitVec.ofNat 32 i,
          if s.journal.n ≤ s.journal.head + i then s.journal.pass + 1 else s.journal.pass⟩ := by
  induction es with
  | nil => exact fun _ _ _ _ i e is => (nomatch is)
  | cons e es ih =>
    intro s inside small few i x is
    rw [List.length_cons] at few
    have head : (filedAtHead e s).journal.head = if s.journal.head + 1 = s.journal.n then 0 else s.journal.head + 1 := rfl
    have n : (filedAtHead e s).journal.n = s.journal.n := rfl
    have inside' : (filedAtHead e s).journal.head < (filedAtHead e s).journal.n := by rw [head, n]; split <;> omega
    rw [filedAll]
    cases i with
    | zero =>
      obtain rfl : e = x := Option.some_inj.1 is
      rw [Nat.add_zero, Nat.mod_eq_of_lt inside, if_neg (by omega), BitVec.add_zero,
        filedAll_read_other es _ inside' fun j before same => ?_]
      · exact Memory.read_put_same _ _ _
      · rw [head, n, ring_place_next] at same
        have equal := journalAddress_inj s (by omega) ((Nat.mod_lt _ (by omega)).trans_le small) same
        have same' : (s.journal.head + 0) % s.journal.n = (s.journal.head + (j + 1)) % s.journal.n := by
          rw [Nat.add_zero, Nat.mod_eq_of_lt inside]
          exact equal
        have := ring_place_inj inside (by omega) (by omega) same'
        omega
    | succ i =>
      have found := ih (filedAtHead e s) inside' small (by rw [n]; omega) i x is
      rw [head, n, ring_place_next] at found
      refine found.trans ?_
      have bound : i < es.length := Nat.lt_of_succ_lt_succ (List.getElem?_eq_some_iff.1 is).1
      have seq : (filedAtHead e s).journal.seq = s.journal.seq + 1 := rfl
      have pass : (filedAtHead e s).journal.pass = if s.journal.head + 1 = s.journal.n then s.journal.pass + 1 else s.journal.pass :=
        rfl
      rw [seq, pass, seq_next]
      by_cases wraps : s.journal.head + 1 = s.journal.n
      · rw [if_pos wraps, if_pos wraps, if_neg (by omega), if_pos (by omega)]
      · rw [if_neg wraps, if_neg wraps, show s.journal.head + 1 + i = s.journal.head + (i + 1) by omega]

/-! ### Room (R164) -/

/-- There is room for `f` entries. -/
structure Room (j : JournalWriter) (r f : Nat) : Prop where
  release : j.release = some r
  inside  : j.head < j.n
  behind  : r < j.n
  free    : (j.head + (j.n - r)) % j.n + 1 + f = j.n

theorem Room.hasRoom {j : JournalWriter} {r f : Nat} (room : Room j r f) : j.hasRoom = decide (1 ≤ f) := by
  have free := room.free
  unfold JournalWriter.hasRoom JournalWriter.free JournalWriter.used
  rw [room.release, Option.map_some, Option.any_some]
  exact decide_eq_decide.2 (by omega)

theorem Room.mustClose {j : JournalWriter} {r f : Nat} (room : Room j r f) :
    j.mustClose = true ↔ f < 64 ∨ j.holding ≠ [] ∨ j.overflow ≠ [] := by
  have free := room.free
  unfold JournalWriter.mustClose JournalWriter.free JournalWriter.used
  rw [room.release, Option.map_some, Option.any_some]
  simp only [Bool.or_eq_true, decide_eq_true_eq, Bool.not_eq_true', List.isEmpty_eq_false_iff, or_assoc]
  refine or_congr ?_ Iff.rfl
  have : Config.gateRoom = 64 := rfl
  omega

theorem Room.advance {j : JournalWriter} {r f : Nat} (room : Room j r (f + 1)) : Room j.advance r f := by
  obtain ⟨release, inside, behind, free⟩ := room
  have head : j.advance.head = if j.head + 1 = j.n then 0 else j.head + 1 := rfl
  have n : j.advance.n = j.n := rfl
  refine ⟨release, ?_, behind, ?_⟩
  · rw [head, n]
    split <;> omega
  · have step : ((if j.head + 1 = j.n then 0 else j.head + 1) + (j.n - r)) % j.n = (j.head + (j.n - r) + 1) % j.n := by
      split
      · rw [show j.head + (j.n - r) + 1 = j.n - r + j.n by omega, Nat.add_mod_right, Nat.zero_add]
      · rw [show j.head + 1 + (j.n - r) = j.head + (j.n - r) + 1 by omega]
    rw [head, n, step, Nat.add_mod, Nat.mod_eq_of_lt (show 1 < j.n by omega), Nat.mod_eq_of_lt (by omega)]
    omega

theorem Room.filedAll (es : List Entry) : ∀ {s : State} {r f : Nat}, Room s.journal r (f + es.length) →
    Room (filedAll es s).journal r f := by
  induction es with
  | nil => exact fun room => room
  | cons e es ih => exact fun {s r f} room => ih (s := filedAtHead e s) (Room.advance (f := f + es.length) room)

/-! ### The holding queue written (R167) -/

theorem drainQueue_eq : ∀ (es : List Entry) (s : State) (r f : Nat), s.host.busIn = none → Room s.journal r f →
    drainQueue es s = requeued s.faults (es.drop f) s.journal.overflow (filedAll (es.take f) s)
  | [], s, _, f, _, _ => by
    rw [List.drop_nil, List.take_nil]
    rfl
  | e :: es, s, r, f, quiet, room => by
    unfold drainQueue
    rw [room.hasRoom]
    cases f with
    | zero => rfl
    | succ f =>
      have wrote : writeEntry e s = (filedAtHead e s, true) := by
        unfold writeEntry
        simp only [access_quiet quiet, if_true]
        rfl
      have enough : decide (1 ≤ f + 1) = true := decide_eq_true (by omega)
      simp only [enough, if_true, wrote]
      exact drainQueue_eq es (filedAtHead e s) r f quiet room.advance

/-! ### The overflow line moved up (R141, R167) -/

/-- The entry that an item of the line becomes in the holding queue. -/
def OverflowItem.moved (s : State) : OverflowItem → Option Entry
  | .entry e => some e
  | .place l => s.faults.recs[l].deferred.map fun d => stamp s (.fault l d.1 d.2 s.faults.recs[l].repeats)

/-- The lane whose place an item is. -/
def OverflowItem.lane : OverflowItem → Option Lane
  | .place l => some l
  | .entry _ => none

/-- The fault records after some items of the line have been moved up. -/
structure MovedUp (xs : List OverflowItem) (t u : FaultTable) : Prop where
  recs     : ∀ l : Lane, u.recs[l] = if .place l ∈ xs then { t.recs[l] with deferred := none } else t.recs[l]
  deferral : u.deferral = t.deferral.filter fun l => decide (.place l ∉ xs)

theorem MovedUp.nil (t : FaultTable) : MovedUp [] t t := ⟨fun _ => rfl, by simp⟩

theorem moveItem_eq {x : OverflowItem} {s : State} (deferred : ∀ l : Lane, x = .place l → s.faults.recs[l].deferred ≠ none) :
    ∃ e t, x.moved s = some e ∧ MovedUp [x] s.faults t ∧
      moveItem x s = requeued t (s.journal.holding ++ [e]) s.journal.overflow s := by
  cases x with
  | entry e =>
    refine ⟨e, s.faults, rfl, ⟨fun l => (if_neg (by simp)).symm, by simp⟩, rfl⟩
  | place l =>
    obtain ⟨d, is⟩ := Option.ne_none_iff_exists'.1 (deferred l rfl)
    refine ⟨stamp s (.fault l d.1 d.2 s.faults.recs[l].repeats),
      { recs := s.faults.recs.upd l fun r => { r with deferred := none }, deferral := s.faults.deferral.filter (· ≠ l) },
      by rw [OverflowItem.moved, is]; rfl, ⟨fun m => ?_, ?_⟩, ?_⟩
    · rw [Table.upd_get]
      simp only [List.mem_singleton, OverflowItem.place.injEq]
    · simp only [List.mem_singleton, OverflowItem.place.injEq]
    · unfold moveItem
      dsimp only
      rw [is]
      rfl

/-- What the items behind one become is not changed by its move. -/
theorem moved_after {x y : OverflowItem} {s u : State} (apart : ∀ l, x = .place l → y ≠ .place l) (t : MovedUp [x] s.faults u.faults)
    (office : u.office = s.office) : y.moved u = y.moved s := by
  cases y with
  | entry e => rfl
  | place l =>
    have same : u.faults.recs[l] = s.faults.recs[l] := by
      rw [t.recs, if_neg]
      rw [List.mem_singleton]
      exact fun is => apart l is.symm rfl
    unfold OverflowItem.moved stamp
    dsimp only
    rw [same, office]

theorem MovedUp.cons {x : OverflowItem} {xs : List OverflowItem} {t u v : FaultTable} (first : MovedUp [x] t u)
    (later : MovedUp xs u v) : MovedUp (x :: xs) t v := by
  refine ⟨fun l => ?_, ?_⟩
  · rw [later.recs, first.recs]
    simp only [List.mem_cons]
    by_cases here : OverflowItem.place l = x <;> by_cases there : OverflowItem.place l ∈ xs <;> simp [here, there]
  · rw [later.deferral, first.deferral, List.filter_filter]
    refine List.filter_congr fun l _ => ?_
    rw [← Bool.decide_and]
    refine decide_eq_decide.2 ?_
    rw [List.mem_singleton, List.mem_cons, not_or, and_comm]

theorem refill_eq : ∀ (xs : List OverflowItem) (s : State), (xs.filterMap OverflowItem.lane).Nodup →
    (∀ l : Lane, .place l ∈ xs → s.faults.recs[l].deferred ≠ none) →
    ∃ t, MovedUp (xs.take (256 - s.journal.holding.length)) s.faults t ∧
      refill xs s = requeued t (s.journal.holding ++ (xs.take (256 - s.journal.holding.length)).filterMap (OverflowItem.moved s))
        (xs.drop (256 - s.journal.holding.length)) s
  | [], s, _, _ => by
    refine ⟨s.faults, ?_, ?_⟩
    · rw [List.take_nil]
      exact .nil _
    · rw [List.take_nil, List.drop_nil, List.filterMap_nil, List.append_nil]
      rfl
  | x :: xs, s, once, deferred => by
    unfold refill
    have limit : Config.holdingRoom = 256 := rfl
    split
    next few =>
      rw [limit] at few
      obtain ⟨e, t, becomes, movedUp, is⟩ := moveItem_eq fun l here => deferred l (here ▸ List.mem_cons_self)
      have apart : ∀ y ∈ xs, ∀ l, x = .place l → y ≠ .place l := fun y mem l here there => by
        rw [here, List.filterMap_cons] at once
        exact (List.nodup_cons.1 once).1 (List.mem_filterMap.2 ⟨y, mem, by rw [there]; rfl⟩)
      have rest : (xs.filterMap OverflowItem.lane).Nodup := by
        rw [List.filterMap_cons] at once
        split at once
        · exact once
        · exact (List.nodup_cons.1 once).2
      rw [is]
      obtain ⟨v, movedUp', is'⟩ := refill_eq xs (requeued t (s.journal.holding ++ [e]) s.journal.overflow s) rest fun l mem => by
        show t.recs[l].deferred ≠ none
        rw [movedUp.recs, if_neg]
        · exact deferred l (List.mem_cons_of_mem _ mem)
        · rw [List.mem_singleton]
          exact fun here => apart _ mem l here.symm rfl
      have length : (requeued t (s.journal.holding ++ [e]) s.journal.overflow s).journal.holding.length =
          s.journal.holding.length + 1 := by
        show (s.journal.holding ++ [e]).length = _
        rw [List.length_append, List.length_singleton]
      rw [length] at movedUp' is'
      have count : 256 - s.journal.holding.length = 256 - (s.journal.holding.length + 1) + 1 := by omega
      rw [count, List.take_succ_cons, List.drop_succ_cons]
      generalize 256 - (s.journal.holding.length + 1) = m at *
      refine ⟨v, movedUp.cons movedUp', is'.trans ?_⟩
      have same : (xs.take m).filterMap (OverflowItem.moved (requeued t (s.journal.holding ++ [e]) s.journal.overflow s)) =
          (xs.take m).filterMap (OverflowItem.moved s) :=
        List.filterMap_congr fun y mem => moved_after (u := requeued t _ _ s) (fun l here => apart y (List.mem_of_mem_take mem) l here)
          movedUp rfl
      rw [same, List.filterMap_cons, becomes]
      show requeued v ((s.journal.holding ++ [e]) ++ _) _ _ = _
      rw [List.append_assoc]
      rfl
    next full =>
      rw [limit] at full
      have none : 256 - s.journal.holding.length = 0 := by omega
      refine ⟨s.faults, ?_, ?_⟩
      · rw [none, List.take_zero]
        exact .nil _
      · rw [none, List.take_zero, List.drop_zero, List.filterMap_nil, List.append_nil]
        rfl

/-! ### The drain (R167, R168) -/

/-- The gate after a drain, as one change (R168). -/
theorem settleGate_eq (s : State) : settleGate s = { s with
    journal := { s.journal with closed := s.journal.mustClose }
    exch := { s.exch with alerts := { s.exch.alerts with pressure := s.exch.alerts.pressure || s.journal.mustClose } } } := by
  unfold settleGate
  cases must : s.journal.mustClose
  · simp only [Bool.false_eq_true, if_false, Bool.or_false]
    rfl
  · simp only [if_true, Bool.or_true]
    rfl

/-- The holding queue behind what was written of it, with what was moved up. -/
def movedUpQueue (s : State) (f : Nat) : List Entry :=
  s.journal.holding.drop f ++
    (s.journal.overflow.take (256 - (s.journal.holding.drop f).length)).filterMap (OverflowItem.moved s)

theorem drain_eq {s : State} {r f : Nat} (quiet : s.host.busIn = none) (running : s.exch.state = .running) (room : Room s.journal r f)
    (once : (s.journal.overflow.filterMap OverflowItem.lane).Nodup)
    (deferred : ∀ l : Lane, .place l ∈ s.journal.overflow → s.faults.recs[l].deferred ≠ none) :
    ∃ t, MovedUp (s.journal.overflow.take (256 - (s.journal.holding.drop f).length)) s.faults t ∧
      drain s = settleGate (requeued t ((movedUpQueue s f).drop (f - s.journal.holding.length))
        (s.journal.overflow.drop (256 - (s.journal.holding.drop f).length))
        (filedAll (s.journal.holding.take f ++ (movedUpQueue s f).take (f - s.journal.holding.length)) s)) := by
  have first := drainQueue_eq s.journal.holding s r f quiet room
  have rest := filedAll_rest (s.journal.holding.take f) s
  have length : f = f - s.journal.holding.length + (s.journal.holding.take f).length := by
    rw [List.length_take]
    omega
  have room' : Room (filedAll (s.journal.holding.take f) s).journal r (f - s.journal.holding.length) :=
    Room.filedAll (s.journal.holding.take f) (length ▸ room)
  rw [filedAll_append]
  generalize filedAll (s.journal.holding.take f) s = u at first rest room' ⊢
  obtain ⟨t, movedUp, refilled⟩ := refill_eq s.journal.overflow (requeued s.faults (s.journal.holding.drop f) s.journal.overflow u)
    once deferred
  have same : OverflowItem.moved (requeued s.faults (s.journal.holding.drop f) s.journal.overflow u) = OverflowItem.moved s := by
    funext x
    rw [rest]
    cases x <;> rfl
  rw [same] at refilled
  have quiet' : u.host.busIn = none := by rw [rest]; exact quiet
  have second := drainQueue_eq (movedUpQueue s f)
    (requeued t (movedUpQueue s f) (s.journal.overflow.drop (256 - (s.journal.holding.drop f).length)) u) r
    (f - s.journal.holding.length) quiet' ⟨room'.release, room'.inside, room'.behind, room'.free⟩
  rw [filedAll_requeued] at second
  refine ⟨t, movedUp, ?_⟩
  have going : (requeued s.faults (s.journal.holding.drop f) s.journal.overflow u).exch.state = .running := by
    show u.exch.state = _
    rw [rest]
    exact running
  have into : refill (requeued s.faults (s.journal.holding.drop f) s.journal.overflow u).journal.overflow
      (requeued s.faults (s.journal.holding.drop f) s.journal.overflow u) =
      requeued t (movedUpQueue s f) (s.journal.overflow.drop (256 - (s.journal.holding.drop f).length)) u := refilled
  unfold drain
  dsimp only
  rw [first, if_pos going, into]
  exact congrArg settleGate second

/-- The writes do not see what is left of an access error. -/
theorem filedAll_setBus (b : Option Nat) (es : List Entry) : ∀ s, filedAll es (s.setBus b) = (filedAll es s).setBus b := by
  induction es with
  | nil => exact fun _ => rfl
  | cons e es ih => exact fun s => ih (filedAtHead e s)

/-- A write of the drain that ends in an error keeps its entry and those behind it (R164, R167). -/
theorem drainQueue_cut : ∀ (m : Nat) (es : List Entry) (s : State) (r f : Nat), s.host.busIn = some m → Room s.journal r f →
    m < min f es.length → drainQueue es s =
      (busFault ((filedAll (es.take m) s).setBus none)).onJournal fun j => { j with holding := es.drop m }
  | _, [], s, r, f, _, _, few => by
    rw [List.length_nil] at few
    omega
  | m, e :: es, s, r, f, bus, room, few => by
    rw [List.length_cons] at few
    unfold drainQueue
    have some' : decide (1 ≤ f) = true := decide_eq_true (by omega)
    rw [room.hasRoom, some', if_pos rfl]
    cases m with
    | zero =>
      have fails : writeEntry e s = (busFault (s.setBus none), false) := by
        unfold writeEntry
        simp only [access_fails bus, Bool.false_eq_true, if_false]
      simp only [fails, Bool.false_eq_true, if_false]
      rfl
    | succ m =>
      have access : s.access = (s.setBus (some m), true) := by
        unfold State.access
        rw [bus]
      have wrote : writeEntry e s = ((filedAtHead e s).setBus (some m), true) := by
        unfold writeEntry
        simp only [access, if_true]
        rfl
      obtain ⟨k, is⟩ : ∃ k, f = k + 1 := ⟨f - 1, by omega⟩
      subst is
      have tail := drainQueue_cut m es ((filedAtHead e s).setBus (some m)) r k rfl room.advance (by omega)
      simp only [wrote, if_true]
      rw [tail, filedAll_setBus]
      rfl

theorem take_min_length {α : Type} (n : Nat) (l : List α) : l.take (min n l.length) = l.take n := List.take_eq_take_min.symm

theorem drop_min_length {α : Type} (n : Nat) (l : List α) : l.drop (min n l.length) = l.drop n := by
  rcases Nat.le_total n l.length with le | ge
  · rw [Nat.min_eq_left le]
  · rw [Nat.min_eq_right ge, List.drop_length, List.drop_eq_nil_of_le ge]

end Sys2Proof.Machine
end

section
/-! The first step of a sweep with its drain, and a reset that interrupts it (O37). -/

namespace Sys2Proof.Machine

/-- The first step of a sweep, before the headers are held, when its drain leaves the sweep in progress (R40, R167). -/
theorem sweepRead_drained {s u : State} (quiet : s.host.busIn = none) (release : Nat) (hs : Table 64 Header)
    (drains : drain (s.onJournal fun j => j.handRelease release) = u) (quiet' : u.host.busIn = none)
    (going : u.exch.sweep.isSome = true) :
    sweepRead release hs s = (u.onHost fun h => h.readSlots hs).onExch fun x =>
      { x with sweep := x.sweep.map fun w => { w with headers := hs, marksRead := x.marks } } := by
  have going' : u.exch.sweep.isNone = false := by rw [← Option.not_isSome, going]; rfl
  unfold sweepRead
  simp only [access_quiet quiet, Bool.not_true, Bool.false_eq_true, if_false, drains, going', access_quiet quiet']

/-- The Release Word taken modulo N, with the room that it gives (R164). -/
theorem room_of_release {j : JournalWriter} {release r f : Nat} (some' : 1 ≤ j.n) (inside : j.head < j.n) (is : r = release % j.n)
    (free : f = j.n - 1 - (j.head + (j.n - r)) % j.n) : Room (j.handRelease release) r f := by
  have below : (j.head + (j.n - r)) % j.n < j.n := Nat.mod_lt _ some'
  have head : (j.handRelease release).head = j.head := rfl
  have n : (j.handRelease release).n = j.n := rfl
  refine ⟨congrArg some is.symm, inside, ?_, ?_⟩
  · rw [is]
    exact Nat.mod_lt _ some'
  · rw [head, n]
    omega

/-- The overflow line as the entries that it holds and those that its places become. -/
theorem line_length {s : State} (deferred : ∀ l : Lane, .place l ∈ s.journal.overflow → s.faults.recs[l].deferred ≠ none) :
    ∀ xs : List OverflowItem, (∀ x ∈ xs, x ∈ s.journal.overflow) → ∀ n, (xs.filterMap (OverflowItem.moved s)).take n =
      (xs.take n).filterMap (OverflowItem.moved s) ∧ (xs.filterMap (OverflowItem.moved s)).length = xs.length
  | [], _, n => by simp
  | x :: xs, among, n => by
    obtain ⟨e, is⟩ : ∃ e, x.moved s = some e := by
      cases x with
      | entry e => exact ⟨e, rfl⟩
      | place l =>
        obtain ⟨d, is⟩ := Option.ne_none_iff_exists'.1 (deferred l (among _ List.mem_cons_self))
        exact ⟨_, by rw [OverflowItem.moved, is]; rfl⟩
    have rest := line_length deferred xs fun y mem => among y (List.mem_cons_of_mem _ mem)
    rw [List.filterMap_cons, is]
    refine ⟨?_, ?_⟩
    · cases n with
      | zero => rfl
      | succ n => rw [List.take_succ_cons, List.take_succ_cons, List.filterMap_cons, is, (rest n).1]
    · rw [List.length_cons, List.length_cons, (rest 0).2]

/-- Settles O37: the drain by `drain_eq`, its interruption by `drainQueue_cut`. -/
theorem sweepDrainsJournal : Obligations.SweepDrainsJournal := by
  intro s w release hs r f a moved b left line running quiet sweep step some' small inside release' deferred once free line' taken
    rest moves writes
  obtain ⟨g, handed⟩ : ∃ g, (stepped s).onJournal (fun j => j.handRelease release.toNat) = g := ⟨_, rfl⟩
  have journal : g.journal = { s.journal with release := some r } := by rw [← handed, release']; rfl
  have frame : g = { stepped s with journal := g.journal } := by rw [← handed]; rfl
  have exch := stepped_sweep sweep
  have room : Room g.journal r f := by
    rw [← handed]
    exact room_of_release some' inside release' free
  have overflow : g.journal.overflow = s.journal.overflow := by rw [journal]
  have holding : g.journal.holding = s.journal.holding := by rw [journal]
  have faults : g.faults = s.faults := by rw [frame]; rfl
  have moved' : OverflowItem.moved g = OverflowItem.moved s := by
    funext x
    rw [frame]
    cases x <;> rfl
  refine ⟨?_, fun m k few => ?_⟩
  · have line'' : line = s.journal.overflow.filterMap (OverflowItem.moved s) :=
      line'.trans (List.filterMap_congr fun x _ => by cases x <;> rfl)
    have running' : g.exch.state = .running := by rw [frame]; exact (congrArg ExchangeController.state exch).trans running
    have quiet' : g.host.busIn = none := by rw [frame]; exact quiet
    have once' : (g.journal.overflow.filterMap OverflowItem.lane).Nodup := by
      rw [overflow, show OverflowItem.lane = fun x => match x with
        | .place l => some l
        | .entry _ => none from funext fun x => by cases x <;> rfl]
      exact once
    obtain ⟨t, movedUp, drains⟩ := drain_eq quiet' running' room once' (by rw [overflow, faults]; exact deferred)
    have left' : g.journal.holding.drop f = left := by rw [holding, rest, taken, drop_min_length]
    obtain ⟨taken', lineLength⟩ := line_length deferred s.journal.overflow (fun _ mem => mem) (256 - left.length)
    rw [← line''] at taken' lineLength
    have beyond : s.journal.overflow.drop (256 - left.length) = s.journal.overflow.drop moved := by
      rw [moves, lineLength, drop_min_length]
    have overTake : s.journal.overflow.take (256 - left.length) = s.journal.overflow.take moved := by
      rw [moves, lineLength, take_min_length]
    have lineTake : line.take (256 - left.length) = line.take moved := by rw [moves, take_min_length]
    have queue : movedUpQueue g f = left ++ line.take moved := by
      unfold movedUpQueue
      rw [left', overflow, moved', ← lineTake, taken']
    have first : s.journal.holding.take f = s.journal.holding.take a := by rw [taken, take_min_length]
    have less : f - s.journal.holding.length = f - a := by omega
    have second : (left ++ line.take moved).take (f - a) = (left ++ line.take moved).take b ∧
        (left ++ line.take moved).drop (f - a) = (left ++ line.take moved).drop b := by
      have length : left.length + moved = (left ++ line.take moved).length := by
        rw [List.length_append, List.length_take]
        omega
      rw [writes, length, take_min_length, drop_min_length]
      exact ⟨rfl, rfl⟩
    rw [left', queue, holding, overflow, beyond, first, less, second.1, second.2] at drains
    rw [left', overflow, overTake, faults] at movedUp
    obtain ⟨es, entries⟩ : ∃ es, s.journal.holding.take a ++ (left ++ line.take moved).take b = es := ⟨_, rfl⟩
    obtain ⟨kept, keeps⟩ : ∃ kept, (left ++ line.take moved).drop b = kept := ⟨_, rfl⟩
    obtain ⟨beyond', overs⟩ : ∃ beyond', s.journal.overflow.drop moved = beyond' := ⟨_, rfl⟩
    have count : es.length = a + b := by
      rw [← entries, List.length_append, List.length_take, List.length_take, List.length_append, List.length_take]
      omega
    have fits : a + b ≤ f := by omega
    have few : es.length < g.journal.n := by
      rw [journal]
      show es.length < s.journal.n
      omega
    rw [entries, keeps, overs] at drains ⊢
    have wrote := filedAll_journal es g room.inside few
    have reads := filedAll_read es g room.inside (by rw [journal]; exact small) few
    have left'' := filedAll_rest es g
    have room' : Room (filedAll es g).journal r (f - a - b) :=
      Room.filedAll es (s := g) (f := f - a - b) (by rw [count, show f - a - b + (a + b) = f by omega]; exact room)
    generalize filedAll es g = u at drains wrote reads left'' room'
    have must := Room.mustClose (j := (requeued t kept beyond' u).journal) ⟨room'.release, room'.inside, room'.behind, room'.free⟩
    rw [settleGate_eq] at drains
    obtain ⟨low, gate⟩ : ∃ low, (requeued t kept beyond' u).journal.mustClose = low := ⟨_, rfl⟩
    rw [gate] at drains must
    have exch' : u.exch = (stepped s).exch := by rw [left'', frame]
    have host : u.host = { s.host with journal := u.host.journal } := by
      conv => lhs; rw [left'']
      rw [frame]
      rfl
    have done := sweepRead_drained (s := stepped s) quiet release.toNat hs (handed ▸ drains)
      (by show u.host.busIn = none; rw [host]; exact quiet) (by show u.exch.sweep.isSome = true; rw [exch', exch]; rfl)
    refine ⟨_, (exec_sweep_step quiet release hs).trans (congrArg _ ((sweepStep_one sweep step release.toNat hs).trans done)), ?_, ?_, ?_, ?_,
      movedUp.recs, movedUp.deferral, ?_⟩
    · show ({ u with faults := _, journal := _, exch := _, host := _ } : State) = _
      rw [left'', frame]
      rfl
    · show ({ u.journal with holding := kept, overflow := beyond', closed := low } : JournalWriter) = _
      rw [wrote, journal, count, ← Nat.add_assoc]
      rfl
    · exact must
    · intro i e is
      have found := reads i e is
      have address : ∀ n, journalAddress g n = ((s.exch.areaBase &&& 0xFFFFFFFFFFFFF000).toNat + s.exch.latchedOffset + 64 * n) % 2 ^ 64 :=
        fun n => by rw [frame]; rfl
      rw [address, journal] at found
      exact found
    · show ({ u.exch with
        alerts := { u.exch.alerts with pressure := u.exch.alerts.pressure || low }
        sweep := u.exch.sweep.map fun w => { w with headers := hs, marksRead := u.exch.marks } } : ExchangeController) = _
      rw [exch', exch, step]
      rfl
  · have held : m < s.journal.holding.length := by omega
    have cut := drainQueue_cut m g.journal.holding (g.setBus (some m)) r f rfl room (by rw [holding]; omega)
    rw [filedAll_setBus, holding] at cut
    have wrote := filedAll_journal (s.journal.holding.take m) g room.inside (by
      rw [List.length_take, journal]
      show min m s.journal.holding.length < s.journal.n
      omega)
    rw [List.length_take, Nat.min_eq_left held.le, journal] at wrote
    have left'' := filedAll_rest (s.journal.holding.take m) g
    generalize filedAll (s.journal.holding.take m) g = u at cut wrote left''
    obtain ⟨v, faulted⟩ : ∃ v, (busFault ((u.setBus (some m)).setBus none)).onJournal
      (fun j => { j with holding := s.journal.holding.drop m }) = v := ⟨_, rfl⟩
    have stopped : v.exch.state ≠ .running := by
      rw [← faulted]
      show (if _ then _ else _) ≠ _
      split
      · split <;> decide
      · decide
    have ended : v.exch.sweep = none := by rw [← faulted]; rfl
    have journal' : v.journal = { u.journal with holding := s.journal.holding.drop m } := by rw [← faulted]; rfl
    have drained : drain (g.setBus (some m)) = settleGate v := by
      unfold drain
      dsimp only
      rw [show (g.setBus (some m)).journal.holding = s.journal.holding from holding, cut, faulted, if_neg stopped]
    have read : sweepStep release.toNat hs (s.setBus (some (1 + m))) = settleGate v := by
      rw [Nat.add_comm, sweepStep_one (s := s.setBus (some (m + 1))) sweep step]
      have access : (stepped (s.setBus (some (m + 1)))).access = ((stepped s).setBus (some m), true) := rfl
      have hand : ((stepped s).setBus (some m)).onJournal (fun j => j.handRelease release.toNat) = g.setBus (some m) := by
        rw [← handed]
        rfl
      have beyond : (settleGate v).exch.sweep.isNone = true := by
        rw [settleGate_eq]
        show v.exch.sweep.isNone = true
        rw [ended]
        rfl
      unfold sweepRead
      simp only [access, Bool.not_true, Bool.false_eq_true, if_false, hand, drained, beyond, if_true]
    have runs : exec (.sweep 1 release hs ⟨some (1 + m), some k⟩) s = .next (doReset k ((settleGate v).setBus none)) := by
      rw [← read]
      rfl
    refine ⟨_, runs, ?_, rfl, fun h => nomatch h⟩
    show (settleGate v).journal.afterReset = _
    rw [settleGate_eq]
    show ({ v.journal with release := none, closed := false } : JournalWriter) = _
    rw [journal', wrote]

end Sys2Proof.Machine
end

section
/-! Exchanges begun on a lane, the send, and hold patience (R85, R89 to R92, R100, R102): each operation of a lane as one
change of its record. -/

namespace Sys2Proof.Machine

/-! ### An exchange begun (R102, R110) -/

/-- The lane with an exchange begun that carries the frame. -/
def LaneRec.carrying (stretch : Nat) (c : Carried) (r : LaneRec) : LaneRec :=
  { r with
    out := match c.frame with
      | .image b _ => r.out.map fun j => if j.buffer = b then j.begin else j
      | _ => r.out
    link := { r.link with exchange := some (startExchange r.pins stretch c), poll := none } }

theorem beginCarried_eq (l : Lane) (c : Carried) (s : State) :
    beginCarried l c s = s.onLane l (LaneRec.carrying s.office.settings.stretch c) := by
  rcases c with ⟨_ | _ | _ | _, _⟩ <;> simp only [beginCarried, onOut, State.onLink, State.onLane_onLane] <;> rfl

theorem beginPoll_eq {l : Lane} {s : State} {ack : Bool} (bit : s.lanes[l].link.ack = some ack) :
    beginPoll l s = s.onLane l (LaneRec.carrying s.office.settings.stretch ⟨.poll ack, pollBytes ack⟩) := by
  have bit' : (s.lane l).link.ack.getD false = ack := by rw [State.lane, bit, Option.getD_some]
  rw [beginPoll, bit']
  exact beginCarried_eq l _ s

/-- An exchange begun on a lane whose record has been changed. -/
theorem beginCarried_onLane (l : Lane) (c : Carried) (f : LaneRec → LaneRec) (s : State) :
    beginCarried l c (s.onLane l f) = s.onLane l fun r => (f r).carrying s.office.settings.stretch c := by
  rw [beginCarried_eq, State.onLane_onLane]
  rfl

theorem between_iff (k : LinkEngine) :
    k.between = true ↔ k.phase = .running ∧ k.exchange = none ∧ k.repeatFrame = none := by
  simp only [LinkEngine.between, Bool.and_eq_true, decide_eq_true_eq, Option.isNone_iff_eq_none, and_assoc]

/-- The waiting frame goes out between exchanges (R102). -/
theorem pump_begins {l : Lane} {s : State} {f : Frame} (between : s.lanes[l].link.between = true)
    (waiting : s.lanes[l].link.waiting = some f) :
    pump l s = beginExchange l f (s.onLink l fun k => { k with waiting := none }) := by
  rw [pump, if_pos (by exact between)]
  simp only [State.lane, waiting]

/-! ### The job out that holds a buffer -/

theorem findOut_none {s : State} {l : Lane} {b : Buffer} : findOut s l b = none ↔ ∀ j ∈ s.lanes[l].out, j.buffer ≠ b := by
  rw [findOut, List.find?_eq_none]
  exact forall₂_congr fun j _ => not_congr decide_eq_true_iff

theorem findOut_isSome {s : State} {l : Lane} {b : Buffer} : (findOut s l b).isSome = true ↔ ∃ j ∈ s.lanes[l].out, j.buffer = b := by
  rw [findOut, List.find?_isSome]
  exact exists_congr fun j => and_congr_right fun _ => decide_eq_true_iff

/-- Jobs none of which holds the buffer stand. -/
theorem map_others {js : List Job} {b : Buffer} (f : Job → Job) (h : ∀ j ∈ js, j.buffer ≠ b) :
    (js.map fun j => if j.buffer = b then f j else j) = js :=
  (List.map_congr_left fun j mem => if_neg (h j mem)).trans (List.map_id _)

/-! ### Stalls (R90, R91) -/

/-- The model's edge of a stall is the one that the statements name. -/
theorem stallEdged_eq (l : Lane) (s t : State) : stallEdged l s t = stallEdge (stalled s l) l t := by
  rw [stallEdge_eq]
  refine congrArg (fun f => State.onLane t l f) (funext fun r => ?_)
  unfold LaneRec.edged patienceTimer
  cases stalled s l <;> cases stalled t l <;> rfl

theorem stallEdge_again (was : Bool) (l : Lane) (s : State) : stallEdge was l (stallEdge was l s) = stallEdge was l s := by
  have still : stalled (stallEdge was l s) l = stalled s l := by
    rw [stallEdge_eq, stalled_eq, State.onLane_same]
    rfl
  have timer : patienceTimer (stallEdge was l s) = patienceTimer s := by
    rw [stallEdge_eq]
    rfl
  rw [stallEdge_eq was l (stallEdge was l s), still, timer, stallEdge_eq, State.onLane_onLane]
  refine State.onLane_congr ?_
  cases was <;> cases stalled s l <;> rfl

/-! ### The send (R89, R15, R64) -/

/-- The sending condition, part by part (R89). -/
theorem canSend_iff (s : State) (l : Lane) : canSend s l = true ↔
    Working s l ∧ 0 < s.lanes[l].credits ∧ s.lanes[l].link.awaited = none ∧ s.lanes[l].link.phase = .running ∧
      s.lanes[l].link.exchange = none ∧ s.lanes[l].link.repeatFrame = none ∧
      ∃ j q m, s.lanes[l].queue = j :: q ∧ s.stock.mags[l] = some m ∧ m.kind = j.kind ∧ m.next ≤ m.last := by
  unfold canSend State.mag State.lane
  dsimp only
  split
  next j q m queue mag =>
    simp only [queue, mag, Bool.and_eq_true, decide_eq_true_eq, Option.isNone_iff_eq_none, between_iff, Working]
    constructor
    · rintro ⟨⟨⟨⟨⟨working, credit⟩, kind⟩, stock⟩, awaited⟩, running, free, fresh⟩
      exact ⟨working, credit, awaited, running, free, fresh, j, q, m, rfl, rfl, kind, stock⟩
    · rintro ⟨working, credit, awaited, running, free, fresh, _, _, _, same, same', kind, stock⟩
      cases same
      cases same'
      exact ⟨⟨⟨⟨⟨working, credit⟩, kind⟩, stock⟩, awaited⟩, running, free, fresh⟩
  next missing =>
    refine iff_of_false Bool.false_ne_true ?_
    rintro ⟨-, -, -, -, -, -, j, q, m, queue, mag, -⟩
    exact missing j q m queue mag

/-- The image with its serial filled in (R64). -/
def sentImage (s : State) (j : Job) (n : Nat) : List ImageField := fillSerial n (s.images[j.buffer].getD [])

/-- The state but for the lane's record after a send. -/
def sentStock (l : Lane) (j : Job) (m : Loaded) (s : State) : State :=
  ((s.setMag l (some m.consume)).setImage j.buffer (some (sentImage s j m.next))).onOffice fun o =>
    { o with flight := o.flight ++ [(j.send m.next).flight m.next] }

/-- The lane's record after a send, its frame waiting. -/
def LaneRec.sent (j : Job) (q : List Job) (n : Nat) (f : Frame) (r : LaneRec) : LaneRec :=
  { r with
    queue := q, out := r.out ++ [j.send n], credits := r.credits - 1, state := .printing
    link := { r.link with waiting := some f } }

theorem sendFront_eq {l : Lane} {s : State} {j : Job} {q : List Job} {m : Loaded} (queue : s.lanes[l].queue = j :: q)
    (mag : s.stock.mags[l] = some m) :
    sendFront l s = (sentStock l j m s).onLane l (LaneRec.sent j q m.next (imageFrame j.buffer (sentImage s j m.next))) := by
  unfold sendFront State.lane State.mag
  simp only [queue, mag]
  rfl

/-- A send begins a stall when it takes the last serial under a queue (R90). -/
theorem stalled_sent {l : Lane} {s : State} {j : Job} {q : List Job} {m : Loaded} (f : Frame) :
    stalled ((sentStock l j m s).onLane l (LaneRec.sent j q m.next f)) l = (!q.isEmpty && decide (m.last ≤ m.next)) := by
  have mag : ((sentStock l j m s).onLane l (LaneRec.sent j q m.next f)).stock.mags[l] = some m.consume := Table.upd_same _ _ _
  rw [stalled_eq, State.onLane_same, mag, laneStalled_working (by exact LaneState.noConfusion)]
  simp only [LaneRec.sent, magSpent, Loaded.consume, Nat.lt_succ_iff]

/-- The part number of an image's first frame (R100). -/
theorem imageFrame_eq (b : Buffer) (im : List ImageField) :
    imageFrame b im = .image b (if 1000 < 8 + (im.map fun f => 3 + f.text.length).sum then 1 else 0) := by
  have size : ∀ f : ImageField, f.bytes.length = 3 + f.text.length := fun f => Nat.add_comm f.text.length 3
  simp only [imageFrame, needsTwo, size, decide_eq_true_eq]
  rfl

theorem send_buffer (j : Job) (n : Nat) : (j.send n).buffer = j.buffer := rfl

/-- The job sent is the one out that holds its buffer. -/
theorem find_sent {js : List Job} {j : Job} (fresh : ∀ i ∈ js, i.buffer ≠ j.buffer) (n : Nat) :
    (js ++ [j.send n]).find? (fun i => decide (i.buffer = j.buffer)) = some (j.send n) := by
  rw [List.find?_append, List.find?_eq_none.2 fun i mem => by rw [decide_eq_true_eq]; exact fresh i mem]
  exact Option.none_or.trans (List.find?_cons_of_pos (p := fun i : Job => decide (i.buffer = j.buffer)) (decide_eq_true rfl))

theorem carry_image {s : State} {l : Lane} {b : Buffer} {p : Nat} {j : Job} (found : findOut s l b = some j) :
    carry s l (.image b p) = ⟨.image b p, imageBytes b p (j.serial.getD 0) j.kind (s.images[b].getD [])⟩ := by
  simp only [carry, found]

/-- The IMAGE that a send begins to carry. -/
def sentFrame (s : State) (j : Job) (n : Nat) : Carried :=
  let im := sentImage s j n
  let part := if 1000 < 8 + (im.map fun f => 3 + f.text.length).sum then 1 else 0
  ⟨.image j.buffer part, imageBytes j.buffer part n j.kind im⟩

/-- The send with the stall it may begin, its frame still waiting. -/
theorem withStall_sendFront {l : Lane} {s : State} {j : Job} {q : List Job} {m : Loaded} (working : Working s l)
    (queue : s.lanes[l].queue = j :: q) (mag : s.stock.mags[l] = some m) (stock : m.next ≤ m.last) :
    withStall l (sendFront l) s = (sentStock l j m s).onLane l fun r =>
      (r.sent j q m.next (imageFrame j.buffer (sentImage s j m.next))).edged false
        (!q.isEmpty && decide (m.next = m.last)) (patienceTimer s) := by
  have notStalled : stalled s l = false := by
    have notHolding : s.lanes[l].state ≠ .holding := by rcases working with h | h <;> rw [h] <;> exact LaneState.noConfusion
    rw [stalled_eq, laneStalled_working notHolding, mag]
    simp [magSpent, stock]
  have runs : decide (m.last ≤ m.next) = decide (m.next = m.last) := by simp only [decide_eq_decide]; omega
  rw [withStall, sendFront_eq queue mag, notStalled, stallEdge_eq, stalled_sent, runs, State.onLane_onLane]
  rfl

/-- A send goes out at once: the engine that could send is between exchanges (R102). -/
theorem trySend_pumps {l : Lane} {s : State} (can : canSend s l = true) :
    ∃ f, trySend l s = beginExchange l f ((withStall l (sendFront l) s).onLink l fun k => { k with waiting := none }) := by
  obtain ⟨working, credit, awaited, running, free, noRepeat, j, q, m, queue, mag, kind, stock⟩ := (canSend_iff s l).1 can
  refine ⟨imageFrame j.buffer (sentImage s j m.next), ?_⟩
  rw [trySend, if_pos can, withStall_sendFront working queue mag stock]
  refine pump_begins ?_ ?_
  · rw [State.onLane_same, between_iff]
    exact ⟨running, free, noRepeat⟩
  · rw [State.onLane_same]
    rfl

/-- A send, as one change of the lane's record and of the records of stock, images and flight (R89). -/
theorem trySend_sends {l : Lane} {s : State} {j : Job} {q : List Job} {m : Loaded} (can : canSend s l = true)
    (queue : s.lanes[l].queue = j :: q) (mag : s.stock.mags[l] = some m) (fresh : ∀ i ∈ s.lanes[l].out, i.buffer ≠ j.buffer) :
    trySend l s = (sentStock l j m s).onLane l fun r =>
      { r with
        queue := q, credits := r.credits - 1, state := .printing
        out := r.out ++ [{ j with serial := some m.next, state := .sent, delivery := .carrying true }]
        patience := if q ≠ [] ∧ m.next = m.last then patienceTimer s else r.patience
        link := { r.link with
          waiting := none, poll := none
          exchange := some (startExchange r.pins s.office.settings.stretch (sentFrame s j m.next)) } } := by
  obtain ⟨working, credit, awaited, running, free, noRepeat, j', q', m', queue', mag', kind, stock⟩ := (canSend_iff s l).1 can
  obtain ⟨rfl, rfl⟩ := List.cons.inj (queue'.symm.trans queue)
  obtain rfl := Option.some.inj (mag'.symm.trans mag)
  rw [trySend, if_pos can, withStall_sendFront working queue mag stock,
    pump_begins (f := imageFrame j'.buffer (sentImage s j' m'.next))]
  · rw [State.onLink, State.onLane_onLane, beginExchange, imageFrame_eq, carry_image (j := j'.send m'.next), beginCarried_onLane]
    · refine State.onLane_congr ?_
      have image : (sentStock l j' m' s).images[j'.buffer] = some (sentImage s j' m'.next) := Vector.getElem_set_self _
      have others : ((sentStock l j' m' s).lanes[l].out.map fun i => if i.buffer = j'.buffer then i.begin else i) = s.lanes[l].out :=
        map_others _ fresh
      have timer : ∀ p : Option Nat, (if (!false && (!q'.isEmpty && decide (m'.next = m'.last))) = true then patienceTimer s
          else if (false && !(!q'.isEmpty && decide (m'.next = m'.last))) = true then none else p) =
          if q' ≠ [] ∧ m'.next = m'.last then patienceTimer s else p := fun p => by cases q' <;> simp
      simp only [LaneRec.carrying, LaneRec.edged, LaneRec.sent, List.map_append, List.map_cons, List.map_nil, Function.comp_apply,
        State.onLane_images, image, others, timer, send_buffer, if_true]
      rfl
    · rw [findOut, State.lane, State.onLane_same]
      exact find_sent fresh m'.next
  · rw [State.onLane_same, between_iff]
    exact ⟨running, free, noRepeat⟩
  · rw [State.onLane_same]
    rfl

/-- The lane's record with its activity counters changed. -/
def LaneRec.acted (f : Activity → Activity) (r : LaneRec) : LaneRec :=
  match r.state with
  | .parked _ => r
  | _ => { r with act := f r.act }

theorem onAct_eq (s : State) (l : Lane) (f : Activity → Activity) : s.onAct l f = s.onLane l (LaneRec.acted f) := rfl

theorem acted_eq (f : Activity → Activity) (r : LaneRec) : r.acted f = { r with act := match r.state with
    | .parked _ => r.act
    | _ => f r.act } := by
  unfold LaneRec.acted
  split <;> rfl

theorem acted_edged (f : Activity → Activity) (was now : Bool) (timer : Option Nat) (r : LaneRec) :
    (r.edged was now timer).acted f = (r.acted f).edged was now timer := by
  rw [acted_eq, acted_eq]
  rfl

/-- An activity counter rises alike before and after the edge of a stall. -/
theorem onAct_stallEdge (was : Bool) (l : Lane) (f : Activity → Activity) (s : State) :
    (stallEdge was l s).onAct l f = stallEdge was l (s.onAct l f) := by
  have now : stalled (s.onAct l f) l = stalled s l := by
    rw [stalled_eq, onAct_eq, State.onLane_same, acted_eq]
    rfl
  rw [stallEdge_eq, stallEdge_eq, now, onAct_eq, onAct_eq, State.onLane_onLane, State.onLane_onLane]
  exact State.onLane_congr (acted_edged f _ _ _ _)

/-- Settles O55: a send is `trySend_sends`, a test that fails sends nothing, and a join is an edge of a stall and the test. -/
theorem sendTakesNextSerial : Obligations.SendTakesNextSerial := by
  refine ⟨fun s l j q m working queue credit mag kind stock awaited running free noRepeat fresh => ?_,
    fun s l unmet => ?_, fun s l j w is => ?_⟩
  · have can := (canSend_iff s l).2 ⟨working, credit, awaited, running, free, noRepeat, j, q, m, queue, mag, kind, stock⟩
    refine ⟨_, _, _, trySend_sends can queue mag fresh, rfl, rfl, rfl, rfl, rfl, rfl, fun n other => ?_, ?_⟩
    · exact Table.upd_ne _ _ _ _ other
    · exact State.onLane_same _ _ _
  · exact trySend_off (Bool.eq_false_iff.2 fun can => unmet ((canSend_iff s l).1 can))
  · subst is
    rw [stallEdged_eq, joinLane, withStall]
    dsimp only
    rw [onAct_stallEdge, onAct_eq, State.onLane_onLane]
    refine congrArg (fun t => trySend l (stallEdge _ l t)) (State.onLane_congr ?_)
    rw [Function.comp_apply, acted_eq]
    rfl

/-! ### Hold patience (R91, R92) -/

theorem stalled_iff (s : State) (l : Lane) :
    stalled s l = true ↔ s.lanes[l].state = .holding ∨ s.lanes[l].queue ≠ [] ∧ magSpent s.stock.mags[l] = true := by
  rw [stalled_eq, laneStalled, Bool.or_eq_true, decide_eq_true_eq, Bool.and_eq_true, Bool.not_eq_true', List.isEmpty_eq_false_iff]

/-- A job moves to its window's alternate lane when that is another one, working, with stock of its kind (R92). -/
theorem moveTarget_eq_some {s : State} {l a : Lane} {j : Job} : moveTarget s l j = some a ↔
    s.till[j.window].alt = some a ∧ j.movable = true ∧ a ≠ l ∧ Working s a ∧
      ∃ m, s.stock.mags[a] = some m ∧ m.kind = j.kind ∧ m.next ≤ m.last := by
  rw [moveTarget, Option.filter_eq_some_iff]
  simp only [Bool.and_eq_true, decide_eq_true_eq, Option.any_eq_true, and_assoc]
  rfl

theorem considerJob_stays {l : Lane} {s : State} {j : Job} (h : ∀ a, moveTarget s l j = some a → moveBuffer s a j = none) :
    considerJob l s j = s := by
  unfold considerJob
  split
  · rfl
  next a target => rw [h a target]

theorem considerJob_moves {l a : Lane} {s : State} {j : Job} {b : Buffer} (target : moveTarget s l j = some a)
    (buffer : moveBuffer s a j = some b) :
    considerJob l s j = joinLane a { j with buffer := b }
      ((rehome j b s).onLane l fun r => { r with queue := r.queue.filter fun q => decide (q.buffer ≠ j.buffer) }) := by
  simp only [considerJob, target, buffer]

theorem moveBuffer_shared {s : State} {a : Lane} {j : Job} (shared : j.buffer.val < 32) : moveBuffer s a j = some j.buffer :=
  if_pos (decide_eq_true shared)

theorem moveBuffer_reserved {s : State} {a : Lane} {j : Job} (reserved : 32 ≤ j.buffer.val) : moveBuffer s a j = pickBuffer s a :=
  if_neg fun shared => absurd (of_decide_eq_true shared) (Nat.not_lt.2 reserved)

/-- A job takes its image into a free buffer; into the one it names there is nothing to take where that is free itself. -/
theorem rehome_free {s : State} {j : Job} {b : Buffer} (free : s.bufferFree b = true) :
    rehome j b s = { s with images := (s.images.upd b fun _ => s.images[j.buffer]).upd j.buffer fun _ => none } := by
  unfold rehome
  split
  next same =>
    subst same
    have empty : s.images[j.buffer] = none := Option.isNone_iff_eq_none.1 free
    have once : s.images.upd j.buffer (fun _ => none) = s.images := by
      rw [Table.upd, ← empty]
      exact Vector.set_getElem_self _
    rw [empty, once, once]
  next => rfl

theorem pickBuffer_free {s : State} {l : Lane} {b : Buffer} (given : pickBuffer s l = some b) : s.bufferFree b = true :=
  List.find?_some given

/-- Settles O60: the expiry by its definition, and a job considered by its target and its buffer there. -/
theorem patienceMovesJobs : Obligations.PatienceMovesJobs := by
  refine fun s l => ⟨fun none => ?_, fun p running => ?_, fun j => ⟨fun stays => considerJob_stays fun a target => ?_,
    fun a m left movable alt other working mag kind stock is => ?_⟩⟩
  · show Host.Outcome.next (patienceEnds l s) = _
    rw [patienceEnds, State.lane, none]
    rfl
  · refine ⟨_, _, rfl, rfl, ?_⟩
    show patienceEnds l s = _
    rw [patienceEnds, State.lane, running, Option.isSome_some, if_pos rfl]
    exact if_congr (stalled_iff _ l) rfl rfl
  · obtain ⟨alt, movable, other, working, m, mag, kind, stock⟩ := moveTarget_eq_some.1 target
    rcases stays with fixed | stays
    · exact absurd (fixed.symm.trans movable) Bool.false_ne_true
    · rcases stays a alt with same | idle | empty | ⟨reserved, full⟩
      · exact absurd same other
      · exact absurd working idle
      · rcases empty m mag with kind' | spent
        · exact absurd kind kind'
        · omega
      · exact (moveBuffer_reserved reserved).trans full
  · have target := moveTarget_eq_some.2 ⟨alt, movable, other, working, m, mag, kind, stock⟩
    subst is
    refine ⟨fun shared => ?_, fun b reserved given => ?_⟩
    · rw [considerJob_moves target (moveBuffer_shared shared), rehome, if_pos rfl]
      rfl
    · rw [considerJob_moves target ((moveBuffer_reserved reserved).trans given), rehome_free (pickBuffer_free given)]
      rfl

/-! ### What follows a good exchange (R100, R102, R106) -/

/-- The lane with an exchange begun is between exchanges no longer. -/
theorem beginCarried_busy (l : Lane) (c : Carried) (s : State) :
    ∃ x, (beginCarried l c s).lanes[l].link.exchange = some x ∧ x.carried = c := by
  refine ⟨startExchange s.lanes[l].pins s.office.settings.stretch c, ?_, ?_⟩
  · rw [beginCarried_eq, State.onLane_same]
    rfl
  · unfold startExchange
    split
    · rfl
    · split <;> rfl

theorem not_between {s : State} {l : Lane} {x : Exchange} (busy : s.lanes[l].link.exchange = some x) :
    s.lanes[l].link.between = false :=
  Bool.eq_false_iff.2 fun between => Option.some_ne_none x (busy.symm.trans ((between_iff _).1 between).2.1)

theorem canSend_busy {s : State} {l : Lane} {x : Exchange} (busy : s.lanes[l].link.exchange = some x) : canSend s l = false :=
  Bool.eq_false_iff.2 fun can => Option.some_ne_none x (busy.symm.trans ((canSend_iff s l).1 can).2.2.2.2.1)

/-- The lane's exchange ended. -/
def exchangeEnded (l : Lane) (s : State) : State := s.onLink l fun k => { k with exchange := none }

/-- The POLL or the poll timer of an engine that has nothing else to carry. -/
def pollOrWait (l : Lane) (acceptedOther : Bool) (s : State) : State :=
  if (s.lane l).link.between then
    if acceptedOther then beginPoll l s else s.onLink l fun k => { k with poll := some s.office.settings.poll }
  else s

/-- What follows where no second part of an IMAGE is to be carried. -/
def followUp (l : Lane) (acceptedOther : Bool) (s : State) : State :=
  pollOrWait l acceptedOther (trySend l (pump l (dropWaiting l s)))

theorem pollOrWait_busy {l : Lane} {s : State} (other : Bool) (busy : s.lanes[l].link.between = false) : pollOrWait l other s = s :=
  if_neg (Bool.eq_false_iff.1 busy)

theorem afterExchange_second {l : Lane} {s : State} {b : Buffer} (other : Bool) (out : (findOut s l b).isSome = true) :
    afterExchange l other (.image b 1) s = beginExchange l (.image b 2) (exchangeEnded l s) := by
  have out' : (findOut (exchangeEnded l s) l b).isSome = true := by
    rw [findOut_isSome, exchangeEnded, State.onLink, State.onLane_same]
    exact findOut_isSome.1 out
  simp only [afterExchange]
  exact if_pos out'

theorem afterExchange_next {l : Lane} {s : State} {f : Frame} (other : Bool) (first : ∀ b, f = .image b 1 → findOut s l b = none) :
    afterExchange l other f s = followUp l other (exchangeEnded l s) := by
  simp only [afterExchange]
  split
  next b =>
    have gone : (findOut (exchangeEnded l s) l b).isSome = false := by
      rw [Option.isSome_eq_false_iff, Option.isNone_iff_eq_none, findOut_none, exchangeEnded, State.onLink, State.onLane_same]
      exact findOut_none.1 (first b rfl)
    exact if_neg (Bool.eq_false_iff.1 gone)
  next => rfl

/-- A waiting frame that can be carried goes out (R102). -/
theorem followUp_waiting {l : Lane} {s : State} {g : Frame} (other : Bool) (between : s.lanes[l].link.between = true)
    (waiting : s.lanes[l].link.waiting = some g) (out : ∀ b p, g = .image b p → (findOut s l b).isSome = true) :
    followUp l other s = beginExchange l g (s.onLink l fun k => { k with waiting := none }) := by
  have kept : dropWaiting l s = s := by
    unfold dropWaiting
    split
    next b p is =>
      have gone : (findOut s l b).isNone = false := by
        rw [Option.isNone_eq_false_iff]
        exact out b p (Option.some.inj (waiting.symm.trans is))
      exact if_neg (Bool.eq_false_iff.1 gone)
    next => rfl
  obtain ⟨x, busy, -⟩ : ∃ x, (beginExchange l g (s.onLink l fun k => { k with waiting := none })).lanes[l].link.exchange = some x ∧ _ :=
    beginCarried_busy l _ _
  rw [followUp, kept, pump_begins between waiting, trySend_off (canSend_busy busy), pollOrWait_busy other (not_between busy)]

/-- With no frame to carry, the front job is sent, or a POLL or the poll timer follows. -/
theorem followUp_free {l : Lane} {s : State} (other : Bool) (dropped : (dropWaiting l s).lanes[l].link.waiting = none) :
    followUp l other s = pollOrWait l other (trySend l (dropWaiting l s)) := by
  rw [followUp, pump_none dropped]

theorem pollOrWait_sent {l : Lane} {s : State} (other : Bool) (can : canSend s l = true) :
    pollOrWait l other (trySend l s) = trySend l s := by
  obtain ⟨f, sent⟩ := trySend_pumps can
  obtain ⟨x, busy, -⟩ := beginCarried_busy l (carry ((withStall l (sendFront l) s).onLink l fun k => { k with waiting := none }) l f)
    ((withStall l (sendFront l) s).onLink l fun k => { k with waiting := none })
  exact pollOrWait_busy other (by rw [sent]; exact not_between busy)

/-- The waiting frame dropped, where it is an IMAGE whose job has left the lane. -/
theorem dropWaiting_drops {l : Lane} {s : State} (gone : s.lanes[l].link.waiting = none ∨
    ∃ b p, s.lanes[l].link.waiting = some (.image b p) ∧ ∀ j ∈ s.lanes[l].out, j.buffer ≠ b) :
    dropWaiting l s = s.onLink l fun k => { k with waiting := none } := by
  unfold dropWaiting State.lane
  rcases gone with empty | ⟨b, p, image, gone⟩
  · rw [empty]
    have same : { s.lanes[l].link with waiting := none } = s.lanes[l].link := by rw [← empty]
    exact (State.onLane_id (s := s) (congrArg (fun k => { s.lanes[l] with link := k }) same)).symm
  · rw [image]
    exact if_pos (Option.isNone_iff_eq_none.2 (findOut_none.2 gone))

/-- What an exchange begun from a state of the same lane shows. -/
theorem beginExchange_shows {l : Lane} {s t : State} {f : Frame} (only : LaneOnly l s t) (queue : t.lanes[l].queue = s.lanes[l].queue) :
    beginExchange l f t = { s with lanes := (beginExchange l f t).lanes } ∧ OtherLanes l s (beginExchange l f t) ∧
      (beginExchange l f t).lanes[l].queue = s.lanes[l].queue ∧
      ∃ x, (beginExchange l f t).lanes[l].link.exchange = some x ∧ x.carried.frame = f := by
  have both := only.trans (LaneOnly.beginExchange l f t)
  obtain ⟨x, begun, carried⟩ := beginCarried_busy l (carry t l f) t
  refine ⟨both.rest, both.others, ?_, x, begun, congrArg Carried.frame carried⟩
  rw [beginExchange, beginCarried_eq, State.onLane_same]
  exact queue

/-- Settles O54: the end of the exchange, then its cases in order. -/
theorem nextExchange : Obligations.NextExchange := by
  intro s u l other ack f running fresh bit is
  have ended : (exchangeEnded l s).lanes[l] = { s.lanes[l] with link := { s.lanes[l].link with exchange := none } } :=
    State.onLane_same _ _ _
  have only : LaneOnly l s (exchangeEnded l s) := LaneOnly.onLink l _ s
  have between : (exchangeEnded l s).lanes[l].link.between = true := by
    rw [ended, between_iff]
    exact ⟨running, rfl, fresh⟩
  refine ⟨_, rfl, fun b second out => ?_, fun first => ⟨fun g waiting out => ?_, fun gone => ?_⟩⟩
  · subst second
    rw [afterExchange_second other (findOut_isSome.2 out)]
    exact beginExchange_shows only (by rw [ended])
  · rw [afterExchange_next other fun b second => findOut_none.2 (first b second),
      followUp_waiting (g := g) other between (by rw [ended]; exact waiting)
        fun b p image => findOut_isSome.2 (by rw [ended]; exact out b p image)]
    have only' := only.trans (LaneOnly.onLink l (fun k => { k with waiting := none }) (exchangeEnded l s))
    obtain ⟨rest, others, queue, x, begun, frame⟩ := beginExchange_shows (f := g) only'
      (by rw [State.onLink, State.onLane_same, ended])
    refine ⟨rest, others, queue, ?_, x, begun, frame⟩
    rw [beginExchange, beginCarried_eq, State.onLane_same, State.onLink, State.onLane_same]
    rfl
  · have dropped : dropWaiting l (exchangeEnded l s) = u := by
      rw [dropWaiting_drops (by rw [ended]; exact gone), exchangeEnded, State.onLink, State.onLink, State.onLane_onLane, is]
      rfl
    have lane : u.lanes[l] = { s.lanes[l] with link := { s.lanes[l].link with exchange := none, waiting := none } } := by
      rw [is]
      exact Table.upd_same _ _ _
    have between' : (u.lane l).link.between = true := by
      rw [State.lane, lane, between_iff]
      exact ⟨running, rfl, fresh⟩
    rw [afterExchange_next other fun b second => findOut_none.2 (first b second),
      followUp_free other (by rw [dropped, lane]), dropped]
    refine ⟨fun can => pollOrWait_sent other can, fun cannot accepted => ?_, fun cannot nothing => ?_⟩
    · subst accepted
      rw [trySend_off cannot, pollOrWait, if_pos between', if_pos rfl, beginPoll_eq (ack := ack) (by rw [lane]; exact bit)]
      rw [is]
      rfl
    · subst nothing
      rw [trySend_off cannot, pollOrWait, if_pos between', if_neg Bool.false_ne_true, is]
      rfl

end Sys2Proof.Machine
end

section
/-! What no operation of one lane touches: the records of the other lanes, the office's day, clock and settings, the slot that
the sweep offers, and the quiet of the bus. -/

namespace Sys2Proof.Machine

/-- From one state to the other nothing has changed but by the work of one lane. -/
structure Within (l : Lane) (s t : State) : Prop where
  quiet   : s.host.busIn = none → t.host.busIn = none
  office  : t.office = { s.office with flight := t.office.flight }
  lanes   : OtherLanes l s t
  records : ∀ m, m ≠ l → t.faults.recs[m] = s.faults.recs[m]
  offered : ∀ w, t.exch.sweep = some w → ∃ v, s.exch.sweep = some v ∧ w.offered = v.offered

namespace Within

variable {l : Lane} {s t u : State}

theorem refl (l : Lane) (s : State) : Within l s s := ⟨id, rfl, fun _ _ => rfl, fun _ _ => rfl, fun w h => ⟨w, h, rfl⟩⟩

theorem trans (h : Within l s t) (g : Within l t u) : Within l s u where
  quiet := g.quiet ∘ h.quiet
  office := by rw [g.office, h.office]
  lanes := fun m other => (g.lanes m other).trans (h.lanes m other)
  records := fun m other => (g.records m other).trans (h.records m other)
  offered := fun w is => by
    obtain ⟨v, is', same⟩ := g.offered w is
    obtain ⟨x, is'', same'⟩ := h.offered v is'
    exact ⟨x, is'', same.trans same'⟩

theorem ite {p : Prop} [Decidable p] (h : p → Within l s t) (g : ¬ p → Within l s u) : Within l s (if p then t else u) := by
  split
  · exact h ‹_›
  · exact g ‹_›

theorem foldl {α : Type} {f : State → α → State} (h : ∀ s a, Within l s (f s a)) : ∀ (as : List α) (s : State), Within l s (as.foldl f s)
  | [], s => refl l s
  | a :: as, s => (h s a).trans (foldl h as (f s a))

/-! ### Changes of one block -/

theorem of_frame (host : t.host.busIn = s.host.busIn) (office : t.office = { s.office with flight := t.office.flight })
    (lanes : t.lanes = s.lanes) (faults : t.faults = s.faults) (sweep : t.exch.sweep = s.exch.sweep) : Within l s t :=
  ⟨fun q => host.trans q, office, fun m _ => by rw [lanes], fun m _ => by rw [faults], fun w is => ⟨w, sweep.symm.trans is, rfl⟩⟩

theorem of_lane (h : LaneOnly l s t) : Within l s t :=
  ⟨h.quiet, by rw [h.rest], h.others, fun m _ => by rw [h.rest], fun w is => ⟨w, by rw [h.rest] at is; exact is, rfl⟩⟩

theorem onLane (s : State) (l : Lane) (f : LaneRec → LaneRec) : Within l s (s.onLane l f) := of_lane (LaneOnly.onLane l f s)

theorem onLink (s : State) (l : Lane) (f : LinkEngine → LinkEngine) : Within l s (s.onLink l f) := of_lane (LaneOnly.onLink l f s)

theorem onFeed (s : State) (l : Lane) (f : FeedMonitor → FeedMonitor) : Within l s (s.onFeed l f) := of_lane (LaneOnly.onFeed l f s)

theorem onAct (s : State) (l : Lane) (f : Activity → Activity) : Within l s (s.onAct l f) := of_lane (LaneOnly.onAct l f s)

theorem onOut (l : Lane) (b : Buffer) (f : Job → Job) (s : State) : Within l s (onOut l b f s) := of_lane (LaneOnly.onOut l b f s)

theorem onStock (s : State) (f : StockRegister → StockRegister) : Within l s (s.onStock f) := of_frame rfl rfl rfl rfl rfl

theorem onIssue (s : State) (f : IssueController → IssueController) : Within l s (s.onIssue f) := of_frame rfl rfl rfl rfl rfl

theorem onDrawer (s : State) (w : Window) (f : Drawer → Drawer) : Within l s (s.onDrawer w f) := of_frame rfl rfl rfl rfl rfl

theorem onCounters (s : State) (k : StockKind) (f : Counters → Counters) : Within l s (s.onCounters k f) := of_frame rfl rfl rfl rfl rfl

theorem setMag (s : State) (m : Lane) (x : Option Loaded) : Within l s (s.setMag m x) := of_frame rfl rfl rfl rfl rfl

theorem setImage (s : State) (b : Buffer) (im : Option (List ImageField)) : Within l s (s.setImage b im) := of_frame rfl rfl rfl rfl rfl

theorem onAlerts (s : State) (f : Alerts → Alerts) : Within l s (s.onAlerts f) := of_frame rfl rfl rfl rfl rfl

theorem onJournal (s : State) (f : JournalWriter → JournalWriter) : Within l s (s.onJournal f) := of_frame rfl rfl rfl rfl rfl

theorem dropFlight (k : StockKind) (n : Nat) (s : State) : Within l s (dropFlight k n s) := of_frame rfl rfl rfl rfl rfl

theorem addFlight (s : State) (e : FlightEntry) : Within l s (s.onOffice fun o => { o with flight := o.flight ++ [e] }) :=
  of_frame rfl rfl rfl rfl rfl

theorem onRecord (s : State) (l : Lane) (f : FaultRec → FaultRec) (d : List Lane → List Lane) :
    Within l s (s.onFaults fun t => ⟨t.recs.upd l f, d t.deferral⟩) :=
  ⟨id, rfl, fun _ _ => rfl, fun _ other => Table.upd_ne _ _ _ _ other, fun w is => ⟨w, is, rfl⟩⟩

theorem holdAnswer (i : SlotNo) (a : Answer) (s : State) : Within l s (holdAnswer i a s) := of_frame rfl rfl rfl rfl rfl

/-! ### Accesses, answers and entries -/

theorem setBus_access (s : State) : Within l s s.access.1 := by
  unfold State.access
  split
  · exact refl l s
  next busy => exact ⟨fun q => absurd (busy.symm.trans q) (Option.some_ne_none _), rfl, fun _ _ => rfl, fun _ _ => rfl,
      fun w is => ⟨w, is, rfl⟩⟩
  next busy => exact ⟨fun q => absurd (busy.symm.trans q) (Option.some_ne_none _), rfl, fun _ _ => rfl, fun _ _ => rfl,
      fun w is => ⟨w, is, rfl⟩⟩

theorem busFault (s : State) : Within l s (busFault s) :=
  ⟨id, rfl, fun _ _ => rfl, fun _ _ => rfl, fun _ is => absurd is (Option.some_ne_none _).symm⟩

theorem onSweep (s : State) {f : Sweep → Sweep} (h : ∀ w, (f w).offered = w.offered) : Within l s (s.onSweep f) :=
  ⟨id, rfl, fun _ _ => rfl, fun _ _ => rfl, fun w is => by
    obtain ⟨v, is', rfl⟩ := Option.map_eq_some_iff.1 is
    exact ⟨v, is', h v⟩⟩

theorem tryAnswer (i : SlotNo) (a : Answer) (s : State) : Within l s (tryAnswer i a s).1 := by
  simp only [Machine.tryAnswer]
  split
  · refine (setBus_access s).trans (Within.trans (t := (s.access.1.onHost _).onExch _) ?_ (onSweep _ fun _ => rfl))
    exact of_frame rfl rfl rfl rfl rfl
  · exact (setBus_access s).trans (busFault _)

theorem answer (i : SlotNo) (k : Byte) (tag : Tag) (oc : OrderOutcome) (f : AnswerFields) (s : State) :
    Within l s (answer i k tag oc f s) := by
  simp only [Machine.answer]
  split
  · split
    · exact tryAnswer i _ s
    · exact (tryAnswer i _ s).trans (holdAnswer i _ _)
  · exact holdAnswer i _ s

theorem closeGate (s : State) : Within l s (closeGate s) := by
  unfold Machine.closeGate
  exact ite (fun _ => (onJournal s _).trans (onAlerts _ _)) fun _ => refl l s

theorem writeEntry (e : Entry) (s : State) : Within l s (writeEntry e s).1 := by
  simp only [Machine.writeEntry]
  split
  · exact (setBus_access s).trans (of_frame rfl rfl rfl rfl rfl)
  · exact (setBus_access s).trans (busFault _)

theorem place (e : Entry) (s : State) : Within l s (place e s) := by
  simp only [Machine.place]
  split
  · refine Within.trans (t := _) ?_ (closeGate _)
    split
    · exact writeEntry e s
    · exact (writeEntry e s).trans (onJournal _ _)
  · exact ite (fun _ => (onJournal s _).trans (closeGate _)) fun _ => (onJournal s _).trans (closeGate _)

theorem give (b : EntryBody) (s : State) : Within l s (give b s) := place _ s

theorem giveAll (bs : List EntryBody) (s : State) : Within l s (giveAll bs s) := foldl (fun s b => give b s) bs s

theorem giveFault (l : Lane) (k : FaultKind) (r : Bool) (n : Nat) (s : State) : Within l s (giveFault l k r n s) := by
  unfold Machine.giveFault
  refine ite (fun _ => refl l s) fun _ => ite (fun _ => give _ s) fun _ => ?_
  exact ((onRecord s l (fun r => { r with deferred := some (k, _) }) (· ++ [l])).trans (onJournal _ _)).trans (closeGate _)

/-! ### Stock and drawers -/

theorem countSpoilt (l : Lane) (k : StockKind) (s : State) : Within l s (countSpoilt l k s) := (onCounters s k _).trans (onAct _ l _)

theorem spoilHeld (l : Lane) (k : StockKind) (n : Nat) (s : State) : Within l s (spoilHeld l k n s) :=
  (dropFlight k n s).trans (countSpoilt l k _)

theorem spoilNext (l : Lane) (s : State) : Within l s (spoilNext l s) := by
  unfold Machine.spoilNext
  split
  · exact refl l s
  · exact ite (fun _ => (setMag s _ _).trans (countSpoilt l _ _)) fun _ => refl l s

theorem withdraw (l : Lane) (set : List (StockKind × Nat)) (s : State) : Within l s (withdraw l set s) := by
  simp only [Machine.withdraw]
  have h := foldl (l := l) (f := fun s (p : StockKind × Nat) => Machine.dropFlight p.1 p.2 s) (fun s p => dropFlight p.1 p.2 s) set s
  split
  · exact h
  · exact h
  · exact h.trans (setMag _ _ _)

theorem testCashUp (w : Window) (s : State) : Within l s (testCashUp w s) := by
  simp only [Machine.testCashUp]
  split
  · exact refl l s
  · exact ite (fun _ => ((give _ s).trans (answer _ _ _ _ _ _)).trans (onDrawer _ w _)) fun _ => refl l s

/-! ### Sends and exchanges -/

theorem stallEdge (was : Bool) (l : Lane) (s : State) : Within l s (stallEdge was l s) := of_lane (LaneOnly.stallEdge was l s)

theorem withStall (l : Lane) {f : State → State} (s : State) (h : Within l s (f s)) : Within l s (withStall l f s) :=
  h.trans (stallEdge _ l _)

theorem sendFront (l : Lane) (s : State) : Within l s (sendFront l s) := by
  simp only [Machine.sendFront]
  split
  · exact (((setMag s _ _).trans (setImage _ _ _)).trans (addFlight _ _)).trans (onLane _ l _)
  · exact refl l s

theorem trySend (l : Lane) (s : State) : Within l s (trySend l s) :=
  ite (fun _ => (withStall l s (sendFront l s)).trans (of_lane (LaneOnly.pump l _))) fun _ => refl l s

theorem beginPoll (l : Lane) (s : State) : Within l s (beginPoll l s) := of_lane (LaneOnly.beginPoll l s)

theorem pollOrWait (l : Lane) (other : Bool) (s : State) : Within l s (pollOrWait l other s) :=
  ite (fun _ => ite (fun _ => beginPoll l s) fun _ => onLink s l _) fun _ => refl l s

theorem afterExchange (l : Lane) (other : Bool) (f : Frame) (s : State) : Within l s (afterExchange l other f s) := by
  have next : ∀ t, Within l t (followUp l other t) := fun t =>
    ((of_lane ((LaneOnly.dropWaiting l t).trans (LaneOnly.pump l _))).trans (trySend l _)).trans (pollOrWait l other _)
  have ended := onLink s l fun k => { k with exchange := none }
  simp only [Machine.afterExchange]
  split
  · exact ite (fun _ => ended.trans (of_lane (LaneOnly.beginExchange l _ _))) fun _ => ended.trans (next _)
  · exact ended.trans (next _)

/-! ### The ends of a job (R65 to R68, R129) -/

theorem leaveOut (l : Lane) (b : Buffer) (s : State) : Within l s (leaveOut l b s) := of_lane (LaneOnly.leaveOut l b s)

theorem answerIssue (l : Lane) (j : Job) (oc : OrderOutcome) (n : Option Nat) (c : Option DoubtCause) (s : State) :
    Within l s (answerIssue l j oc n c s) := answer _ _ _ _ _ s

theorem endIssued (l : Lane) (j : Job) (n : Nat) (s : State) : Within l s (endIssued l j n s) := by
  simp only [Machine.endIssued]
  exact (((((((onIssue s _).trans (onCounters _ _ _)).trans (dropFlight _ _ _)).trans (onDrawer _ _ _)).trans (give _ _)).trans
    (setImage _ _ _)).trans (answerIssue l j _ _ _ _)).trans ((leaveOut l _ _).trans (testCashUp _ _))

theorem endSpoilt (l : Lane) (j : Job) (s : State) : Within l s (endSpoilt l j s) :=
  ((((onIssue s _).trans (onDrawer _ _ _)).trans (setImage _ _ _)).trans (answerIssue l j _ _ _ _)).trans (testCashUp _ _)

theorem endInDoubt (l : Lane) (k : FaultKind) (j : Job) (s : State) : Within l s (endInDoubt l k j s) := by
  simp only [Machine.endInDoubt]
  split
  · exact refl l s
  · exact (((((((onStock s _).trans (dropFlight _ _ _)).trans (onDrawer _ _ _)).trans (give _ _)).trans (setImage _ _ _)).trans
      (answerIssue l j _ _ _ _)).trans (leaveOut l _ _)).trans (testCashUp _ _)

theorem retryOrEnd (l : Lane) (j : Job) (s : State) : Within l s (retryOrEnd l j s) :=
  ite (fun _ => onLane s l _) fun _ => endSpoilt l j s

/-! ### Faults (R130, R136 to R138) -/

theorem recallSent (l : Lane) (s : State) : Within l s (recallSent l s) := (withdraw l _ s).trans (onLane _ l _)

theorem requestFlush (l : Lane) (n : Nat) (s : State) : Within l s (requestFlush l n s) := of_lane (LaneOnly.requestFlush l n s)

theorem settleOut (l : Lane) (k : FaultKind) (s : State) : Within l s (settleOut l k s) := by
  simp only [Machine.settleOut]
  have h := (foldl (f := fun s j => Machine.endInDoubt l k j s) (fun s j => endInDoubt l k j s)
    ((s.lane l).out.filter fun j => decide (j.state = .fed ∨ j.state = .printed)) s).trans (recallSent l _)
  exact ite (fun _ => h) fun _ => h.trans (requestFlush l _ _)

theorem holdLane (l : Lane) (k : FaultKind) (s : State) : Within l s (holdLane l k s) := by
  have h := withStall l (f := fun s => Machine.settleOut l k (Machine.give (.lane l .holding .fault)
    (s.onLane l fun r => { r with state := .holding }))) s (((onLane s l _).trans (give _ _)).trans (settleOut l k _))
  unfold Machine.holdLane
  split
  · exact h
  · exact h
  · exact h
  · exact refl l s

theorem raiseHolding (l : Lane) (k : FaultKind) (s : State) : Within l s (raiseHolding l k s) := by
  simp only [Machine.raiseHolding]
  refine (onAct s l _ : Within l s (countFault l s)).trans ?_
  split
  · exact (((onRecord _ l _ id).trans (onAlerts _ _)).trans (giveFault l k _ _ _)).trans (holdLane l k _)
  next a _ =>
    refine (onRecord _ l (fun r => { r with active := some (a.add k) }) id).trans (Within.trans (t := _) ?_ (holdLane l k _))
    exact ite (fun _ => refl l _) fun _ => giveFault l k _ _ _

theorem raiseRecovered (l : Lane) (k : FaultKind) (s : State) : Within l s (raiseRecovered l k s) :=
  (onAct s l _).trans (giveFault l k _ _ _)

theorem raiseDown (l : Lane) (k : FaultKind) (s : State) : Within l s (raiseDown l k s) :=
  (of_lane (LaneOnly.linkDown l s)).trans (raiseHolding l k _)

theorem headFault (l : Lane) (s : State) : Within l s (headFault l s) :=
  ite (fun _ => raiseHolding l _ s) fun _ => (onLink s l _).trans (raiseRecovered l _ _)

/-! ### Reports (R111 to R117) -/

theorem actEjected (l : Lane) (ref : Byte) (s : State) : Within l s (actEjected l ref s) := by
  simp only [Machine.actEjected]
  split
  · exact raiseHolding l _ s
  · split
    · exact raiseHolding l _ s
    · have h := (endIssued l ‹_› ‹_› s).trans (onLink _ l fun k => { k with headFault := false })
      exact ite (fun _ => h.trans (raiseHolding l _ _)) fun _ => h

theorem actSpoiled (l : Lane) (ref : Byte) (s : State) : Within l s (actSpoiled l ref s) := by
  simp only [Machine.actSpoiled]
  split
  · exact raiseHolding l _ s
  next j _ =>
    split
    · exact raiseHolding l _ s
    next n _ =>
      have h := (((((spoilHeld l j.kind n s).trans (onDrawer _ j.window Drawer.countSpoilt)).trans
        (give (spoiltEntry j.kind n l (some j.window) .headFault) _)).trans (leaveOut l j.buffer _)).trans
        (retryOrEnd l (j.addSpoilt n) _)).trans (headFault l _)
      exact ite (fun _ => h.trans (raiseHolding l _ _)) fun _ => h

theorem actAccepted (l : Lane) (ref : Byte) (s : State) : Within l s (actAccepted l ref s) := by
  unfold Machine.actAccepted
  split
  · exact raiseHolding l _ s
  · exact onOut l _ _ s

theorem actPrinted (l : Lane) (ref : Byte) (s : State) : Within l s (actPrinted l ref s) := by
  unfold Machine.actPrinted
  split
  · exact raiseHolding l _ s
  · split
    · exact onOut l _ _ s
    · exact raiseHolding l _ s
    · exact raiseHolding l _ s

theorem clearFlush (l : Lane) (s : State) : Within l s (clearFlush l s) := of_lane (LaneOnly.clearFlush l s)

theorem actFlushed (l : Lane) (c : Byte) (s : State) : Within l s (actFlushed l c s) := by
  unfold Machine.actFlushed
  split
  · exact raiseHolding l _ s
  · exact ite (fun _ => (clearFlush l s).trans (trySend l _)) fun _ => (clearFlush l s).trans (raiseHolding l _ _)

theorem actOutOfStock (l : Lane) (s : State) : Within l s (actOutOfStock l s) := ite (fun _ => refl l s) fun _ => raiseHolding l _ s

theorem actWorking (l : Lane) (r : Report) (s : State) : Within l s (actWorking l r s) := by
  unfold Machine.actWorking
  split
  · exact ite (fun _ => refl l s) fun _ => actAccepted l _ s
  · exact ite (fun _ => refl l s) fun _ => actPrinted l _ s
  · exact ite (fun _ => refl l s) fun _ => actEjected l _ s
  · exact ite (fun _ => refl l s) fun _ => actSpoiled l _ s
  · exact actFlushed l _ s
  · exact raiseHolding l _ s
  · exact actOutOfStock l s
  · exact raiseHolding l _ s
  · exact refl l s

theorem actHolding (l : Lane) (r : Report) (s : State) : Within l s (actHolding l r s) := by
  unfold Machine.actHolding
  split
  · exact clearFlush l s
  · exact raiseHolding l _ s
  · exact actOutOfStock l s
  all_goals exact refl l s

theorem act (l : Lane) (r : Report) (s : State) : Within l s (act l r s) := by
  unfold Machine.act
  split
  · exact withStall l s (actWorking l r s)
  · exact withStall l s (actWorking l r s)
  · exact actHolding l r s
  · exact refl l s

/-! ### The end of an exchange (R99, R101, R105 to R109) -/

theorem setPins (l : Lane) (p : Pins) (s : State) : Within l s (setPins l p s) := onLane s l _

theorem setStep (l : Lane) (x : XStep) (n : Option Nat) (s : State) : Within l s (setStep l x n s) := onLink s l _

theorem delivered (l : Lane) (f : Frame) (s : State) : Within l s (delivered l f s) := of_lane (LaneOnly.delivered l f s)

theorem linkStart (l : Lane) (s : State) : Within l s (linkStart l s) := of_lane (LaneOnly.linkStart l s)

theorem failGreeting (l : Lane) (s : State) : Within l s (failGreeting l s) :=
  (onLink s l _).trans (ite (fun _ => onLink _ l _) fun _ => raiseDown l _ _)

theorem failRunning (l : Lane) (x : Exchange) (s : State) : Within l s (failRunning l x s) :=
  (onLink s l _).trans (ite (fun _ => refl l _) fun _ => raiseDown l _ _)

theorem failExchange (l : Lane) (x : Exchange) (s : State) : Within l s (failExchange l x s) := by
  refine ite (fun _ => linkStart l s) fun _ => ?_
  split
  · exact failGreeting l s
  · exact failRunning l x s
  · exact refl l s

theorem acceptCapacity (l : Lane) (x : Exchange) (bit : Bool) (k : Nat) (s : State) : Within l s (acceptCapacity l x bit k s) :=
  (((onLane s l _).trans (withStall l _ (onLane _ l _))).trans (give _ _)).trans (afterExchange l _ _ _)

theorem answerGreet (l : Lane) (x : Exchange) (r : Report) (s : State) : Within l s (answerGreet l x r s) := by
  unfold Machine.answerGreet
  split
  · exact ite (fun _ => acceptCapacity l x _ _ s) fun _ => failGreeting l s
  · exact failGreeting l s

theorem answerRunning (l : Lane) (x : Exchange) (r : Report) (s : State) : Within l s (answerRunning l x r s) := by
  simp only [Machine.answerRunning]
  refine ((onLink s l fun k => { k with fails := 0 }).trans (delivered l x.carried.frame _)).trans ?_
  refine ite (fun _ => afterExchange l _ _ _) fun _ => ?_
  split
  · exact ((onLink _ l _).trans (act l r _)).trans (afterExchange l _ _ _)
  · exact (raiseHolding l _ _ : Within l _ (protocol l _)).trans (afterExchange l _ _ _)

theorem goodReport (l : Lane) (x : Exchange) (r : Report) (s : State) : Within l s (goodReport l x r s) := by
  refine ite (fun _ => linkStart l s) fun _ => ?_
  split
  · exact answerGreet l x r s
  · exact answerRunning l x r s
  · exact refl l s

theorem badForm (l : Lane) (x : Exchange) (s : State) : Within l s (badForm l x s) := by
  refine ite (fun _ => linkStart l s) fun _ => ?_
  split
  · exact failGreeting l s
  · exact (((onLink s l _).trans (delivered l _ _)).trans (raiseHolding l _ _ : Within l _ (protocol l _))).trans
      (afterExchange l _ _ _)
  · exact refl l s

theorem judged (l : Lane) (x : Exchange) (r : Report) (s : State) :
    Within l s (if r.wellFormed then Machine.goodReport l x r s else Machine.badForm l x s) :=
  ite (fun _ => goodReport l x r s) fun _ => badForm l x s

/-! ### The Feed Monitor (R119 to R127) -/

theorem countFed (l : Lane) (n : Nat) (s : State) : Within l s (countFed l n s) := onAct s l _

theorem sequenceRepair (l : Lane) (also : List Buffer) (s : State) : Within l s (sequenceRepair l also s) :=
  ((recallSent l s).trans (requestFlush l _ _)).trans (onLane _ l _)

theorem feedJob (l : Lane) (j : Job) (s : State) : Within l s (feedJob l j s) := onOut l _ _ s

theorem secondBlank (l : Lane) (j : Job) (n : Nat) (s : State) : Within l s (secondBlank l j n s).1 := by
  unfold Machine.secondBlank
  split
  · exact (onOut l _ _ s).trans (spoilHeld l _ _ _)
  · split
    · exact spoilNext l s
    · exact refl l s

theorem doubleFeed (l : Lane) (j : Job) (n : Nat) (s : State) : Within l s (doubleFeed l j n s) := by
  simp only [Machine.doubleFeed]
  exact ((((((((spoilHeld l j.kind n s).trans (secondBlank l j n _)).trans
    (foldl (f := fun s (_ : Nat) => s.onDrawer j.window Drawer.countSpoilt) (fun s _ => onDrawer s _ _) _ _)).trans
    (giveAll _ _)).trans (leaveOut l j.buffer _)).trans (retryOrEnd l _ _)).trans (sequenceRepair l _ _)).trans (raiseRecovered l _ _))

theorem unexpectedFeed (l : Lane) (s : State) : Within l s (unexpectedFeed l s) := by
  simp only [Machine.unexpectedFeed]
  refine ((countFed l 1 s).trans (Within.trans (t := _) ?_ (sequenceRepair l _ _))).trans (raiseRecovered l _ _)
  split
  · exact refl l _
  · exact (spoilNext l _).trans (give _ _)

theorem jobMark (l : Lane) (j : Job) (c : MarkClass) (s : State) : Within l s (jobMark l j c s) := by
  have h := (feedJob l j s).trans (countFed l 1 _)
  unfold Machine.jobMark
  split
  · exact h
  · exact h
  · exact h.trans (raiseHolding l _ _)
  · split
    · exact (countFed l 2 s).trans (doubleFeed l j _ _)
    · exact h

theorem markEdge (l : Lane) (s : State) : Within l s (markEdge l s) := by
  simp only [Machine.markEdge]
  refine ite (fun _ => ?_) fun _ => refl l s
  have captured := onFeed s l FeedMonitor.capture
  have h : Within l (s.onFeed l FeedMonitor.capture) (match awaitingMark (s.onFeed l FeedMonitor.capture) l with
      | none => Machine.unexpectedFeed l (s.onFeed l FeedMonitor.capture)
      | some j => Machine.jobMark l j (markClass (s.lane l).feed (markKind (s.onFeed l FeedMonitor.capture) l j).pitch
          (markKind (s.onFeed l FeedMonitor.capture) l j).tol) (s.onFeed l FeedMonitor.capture)) := by
    split
    · exact unexpectedFeed l _
    · exact jobMark l _ _ _
  split
  · exact captured.trans (withStall l _ h)
  · exact captured.trans (withStall l _ h)
  · exact (captured.trans (countFed l 1 _)).trans (raiseRecovered l _ _)

theorem stepPulse (l : Lane) (s : State) : Within l s (stepPulse l s) :=
  ite (fun _ => (onFeed s l _).trans (ite (fun _ => raiseHolding l _ _) fun _ => refl l _)) fun _ => refl l s

/-! ### Events of the lines -/

theorem abandonAt (l : Lane) (x : XStep) (k : FaultKind) (s : State) : Within l s (abandonAt l x k s) := by
  unfold Machine.abandonAt
  split
  · exact refl l s
  · exact raiseDown l k s

theorem idleAfter (l : Lane) (n : Nat) (s : State) : Within l s (idleAfter l n s) := by
  simp only [Machine.idleAfter]
  split
  · exact refl l s
  · have h := onLane s l fun r => { r with pins := { r.pins with ldiLow := false } }
    exact ite (fun _ => (h.trans (setStep l _ _ _)).trans (raiseRecovered l _ _)) fun _ =>
      ite (fun _ => h.trans (raiseDown l _ _)) fun _ => h

theorem failsAt (l : Lane) (x : XStep) (p : Pins) (s : State) : Within l s (failsAt l x p s) := by
  unfold Machine.failsAt
  split
  · exact refl l s
  · exact (setPins l p s).trans (failExchange l _ _)

theorem malformedEnds (l : Lane) (p : Pins) (s : State) : Within l s (malformedEnds l p s) := by
  unfold Machine.malformedEnds
  split
  · exact refl l s
  · exact (setPins l p s).trans (badForm l _ _)

end Within

/-- An event of a lane that no access error meets. -/
theorem withBus_quiet {l : Lane} {f : State → State} {s : State} (within : ∀ s, Within l s (f s)) (quiet : s.host.busIn = none) :
    withBus none f s = f s := by
  rw [withBus, setBus_quiet quiet, setBus_quiet ((within s).quiet quiet)]

end Sys2Proof.Machine
end

section
/-! The lines of a lane (R96, R103, R104), and the steps of an exchange with the ways it fails (R102 to R109). -/

namespace Sys2Proof.Machine

/-! ### The levels that an order brings -/

/-- An offered order under the levels that it brings is the order with none, once they are set. -/
theorem takeOrder_lines {r : OrderRule} {o : OrderHdr} {b : OrderBody} {owner : Source → Tag → Option (List Byte) → State → Verdict}
    {s : State} {src : Source} {tag : Tag} (offers : Offers s o.slot src tag) (bus : Option Nat) (cut : Option Cut) (ls : Lines) :
    takeOrder r o b ⟨bus, cut, ls⟩ owner s = takeOrder r o b ⟨bus, cut, []⟩ owner (setLines ls s) := by
  have same : offeredHeader (setLines ls s) o.slot r.code = offeredHeader s o.slot r.code := by rw [setLines_rest]; rfl
  unfold takeOrder
  rw [same, (offers.header r.code).1]
  rfl

/-- A LANE START's link start under the levels that the order brings. -/
theorem startedLane_off (st : Settings) {r : LaneRec} (free : r.link.exchange = none) :
    (startedLane st r).state = .starting ∧ (startedLane st r).pins = r.pins ∧
      (startedLane st r).link.exchange = some (startExchange r.pins st.stretch ⟨.greet, greetBytes⟩) := by
  have idle : r.link.exchange.isSome = false := by rw [free]; rfl
  rw [startedLane, if_neg (Bool.eq_false_iff.1 idle)]
  exact ⟨rfl, rfl, rfl⟩

theorem startExchange_eq (pins : Pins) (stretch : Nat) (c : Carried) : startExchange pins stretch c =
    ⟨c, if pins.lby then .busyWait else if pins.ldiLow then .clearing else .sending, if pins.lby then some stretch else none⟩ := by
  unfold startExchange
  split
  · rfl
  · split <;> rfl

/-! ### LCK and LDO (R96) -/

theorem byteBits_length (b : Byte) : (byteBits b).length = 8 := by rw [byteBits, List.length_map, List.length_range]

theorem lineBits_length (bs : List Byte) : (lineBits bs).length = 8 * bs.length := by
  induction bs with
  | nil => rfl
  | cons b bs ih =>
    show (byteBits b ++ lineBits bs).length = _
    rw [List.length_append, byteBits_length, ih, List.length_cons]
    omega

theorem lineBits_get : ∀ {bs : List Byte} {i k : Nat} {b : Byte}, bs[i]? = some b → k < 8 →
    (lineBits bs)[8 * i + k]? = some (b.getLsbD k)
  | a :: bs, 0, k, b, at', small => by
    obtain rfl : a = b := Option.some.inj at'
    show (byteBits a ++ lineBits bs)[8 * 0 + k]? = _
    rw [Nat.mul_zero, Nat.zero_add, List.getElem?_append_left (by rw [byteBits_length]; exact small), byteBits, List.getElem?_map,
      List.getElem?_range small]
    rfl
  | a :: bs, i + 1, k, b, at', small => by
    have shift : 8 * (i + 1) + k = (byteBits a).length + (8 * i + k) := by rw [byteBits_length]; omega
    show (byteBits a ++ lineBits bs)[8 * (i + 1) + k]? = _
    rw [shift, List.getElem?_append_right (Nat.le_add_right _ _), Nat.add_sub_cancel_left]
    exact lineBits_get (bs := bs) (by rw [← at']; rfl) small

theorem lckLow_iff (r : LinkEngine) : lckLow r = true ↔ ∀ x, r.exchange = some x → x.step = .busyWait := by
  unfold lckLow lckRuns
  rcases r.exchange with _ | ⟨c, step, timer⟩
  · exact iff_of_true rfl fun x is => (nomatch is)
  · have one : (∀ x, some (⟨c, step, timer⟩ : Exchange) = some x → x.step = .busyWait) ↔ step = .busyWait :=
      ⟨fun h => h _ rfl, fun h x is => by cases is; exact h⟩
    rw [one]
    cases step
    case busyWait => exact iff_of_true rfl rfl
    all_goals exact iff_of_false Bool.false_ne_true XStep.noConfusion

theorem ldoHigh_outside {r : LinkEngine} {period : Nat}
    (outside : ∀ x, r.exchange = some x → x.step ≠ .sending ∨ 8 * x.carried.bytes.length ≤ period) : ldoHigh r period = true := by
  unfold ldoHigh ldoBits ldoBytes
  rcases is : r.exchange with _ | x
  · rfl
  · dsimp only
    split
    next sending =>
      rcases outside x is with other | past
      · exact absurd sending other
      · rw [List.getD_eq_getElem?_getD, List.getElem?_eq_none (by rw [lineBits_length]; exact past)]
        rfl
    next => rfl

theorem ldoHigh_sending {r : LinkEngine} {x : Exchange} {i k : Nat} {b : Byte} (is : r.exchange = some x) (sending : x.step = .sending)
    (at' : x.carried.bytes[i]? = some b) (small : k < 8) : ldoHigh r (8 * i + k) = b.getLsbD k := by
  unfold ldoHigh ldoBits ldoBytes
  rw [is]
  dsimp only
  rw [sending]
  dsimp only
  rw [List.getD_eq_getElem?_getD, lineBits_get at' small, Option.getD_some]

/-- Settles O43: `takeOrder_lines`, the LANE START of `laneOrdersDone` under the levels it brings, and the bits of LDO. -/
theorem linesOfALane : Obligations.LinesOfALane := by
  refine ⟨fun c o code s src tag bus cut lines parts offers known => ?_, fun s l lines => rfl,
    fun s o l tag p takeable still free => ?_, fun r => ⟨lckLow_iff r, fun period => ldoHigh_outside,
      fun x i k b is sending at' small => ldoHigh_sending is sending at' small⟩⟩
  · rcases takenBy_of_parts parts with rfl | ⟨-, -, r, b, taken⟩
    · show Host.Outcome.next (takeUnknown o code ⟨bus, cut, lines⟩ s) = .next (takeUnknown o code ⟨bus, cut, []⟩ (setLines lines s))
      rw [takeUnknown_eq (known code rfl), takeUnknown_eq (known code rfl), takeOrder_lines offers]
    · rw [taken.runs, taken.runs, takeOrder_lines offers]
      rfl
  · have other : Takeable (setLines [(l, p)] s) o.slot 12 tag :=
      ⟨⟨takeable.running, takeable.quiet, takeable.offered⟩, takeable.gate, takeable.office⟩
    have lane : (setLines [(l, p)] s).lanes[l] = { s.lanes[l] with pins := p } := Table.upd_same _ _ _
    obtain ⟨t, taken, -, -, started, -⟩ := laneOrdersDone.1 (setLines [(l, p)] s) o l tag other (by rw [lane]; exact still)
    obtain ⟨starting, pins, greet⟩ := startedLane_off s.office.settings (r := (setLines [(l, p)] s).lanes[l]) (by rw [lane]; exact free)
    refine ⟨t, ?_, ?_⟩
    · rw [← taken]
      exact congrArg _ (takeOrder_lines takeable.toOffers none none [(l, p)])
    · rw [show t.lanes[l] = startedLane s.office.settings _ from started]
      refine ⟨starting, ?_, ?_⟩
      · rw [pins, lane]
      · rw [greet, lane]
        exact congrArg some (startExchange_eq _ _ _)

/-! ### The steps of an exchange (R102 to R106) -/

theorem setStep_eq {l : Lane} {s : State} {x : Exchange} (is : s.lanes[l].link.exchange = some x) (step : XStep) (timer : Option Nat) :
    setStep l step timer s = s.onLane l fun r => { r with link := { r.link with exchange := some ⟨x.carried, step, timer⟩ } } := by
  refine State.onLane_congr ?_
  simp only [is, Option.map_some]

theorem linkDown_eq (l : Lane) (s : State) : linkDown l s = s.onLane l downLane := by
  rw [linkDown, clearFlush, State.onLink, State.onLane_onLane]
  rfl

theorem begin_eq (j : Job) (b : Buffer) : (if j.buffer = b then j.begin else j) =
    if j.buffer = b ∧ j.delivery = .carrying false then { j with delivery := .carrying true } else j := by
  have begun : j.begin = if j.delivery = .carrying false then { j with delivery := .carrying true } else j := by
    rcases j with ⟨_, _, _, _, _, _, _, _, _, _, _, _, _, _, _, _, _, _, _, (_ | _) | _ | _⟩ <;> rfl
  rw [begun, ite_and]

/-- The lane whose poll timer has expired. -/
def LaneRec.polled (pins : Pins) (r : LaneRec) : LaneRec :=
  { r with pins := pins, link := { r.link with poll := none, repeatFrame := none } }

/-- The frame that the expiry of a poll timer carries, by the phase of the engine and its repeat frame (R102, R108). -/
def PollCarries (r : LaneRec) (a : Bool) (c : Carried) : Prop :=
  r.link.phase = .greeting ∧ c = ⟨.greet, greetBytes⟩ ∨
    r.link.phase = .running ∧ r.link.ack = some a ∧
      ((r.link.repeatFrame = none ∨ (∃ b bs, r.link.repeatFrame = some ⟨.poll b, bs⟩) ∨
          ∃ b n bs, r.link.repeatFrame = some ⟨.image b n, bs⟩ ∧ ∀ j ∈ r.out, j.buffer ≠ b) ∧ c = ⟨.poll a, pollBytes a⟩ ∨
        r.link.repeatFrame = some c ∧ (c.frame = .flush ∨ ∃ b n, c.frame = .image b n ∧ ∃ j ∈ r.out, j.buffer = b))

theorem pollTimer_carries {s : State} {l : Lane} {p : Nat} {a : Bool} {c : Carried} (pins : Pins)
    (timer : s.lanes[l].link.poll = some p) (carries : PollCarries s.lanes[l] a c) :
    pollTimer l pins s = beginCarried l c (s.onLane l (LaneRec.polled pins)) := by
  obtain ⟨u, polled⟩ : ∃ u, s.onLane l (LaneRec.polled pins) = u := ⟨_, rfl⟩
  have lane : u.lanes[l] = s.lanes[l].polled pins := by rw [← polled, State.onLane_same]
  have link : ((setPins l pins s).lane l).link = s.lanes[l].link := by rw [State.lane, setPins, State.onLane_same]
  have cleared : ((setPins l pins s).onLink l fun k => { k with poll := none, repeatFrame := none }) = u := by
    rw [← polled, setPins, State.onLink, State.onLane_onLane]
    rfl
  rw [polled, pollTimer, State.lane, timer, Option.isSome_some, if_pos rfl]
  unfold pollExpires
  dsimp only
  rw [link, cleared]
  have poll : s.lanes[l].link.ack = some a → beginPoll l u = beginCarried l ⟨.poll a, pollBytes a⟩ u := fun bit => by
    rw [beginPoll_eq (by rw [lane]; exact bit), beginCarried_eq]
  have gone : ∀ b, (findOut u l b).isSome = true ↔ ∃ j ∈ s.lanes[l].out, j.buffer = b := fun b => by
    rw [findOut_isSome, lane]
    rfl
  rcases carries with ⟨greeting, rfl⟩ | ⟨running, bit, ⟨nothing, rfl⟩ | ⟨again, kept⟩⟩
  · rw [greeting]
    rfl
  · rw [running]
    rcases nothing with fresh | ⟨b, bs, polls⟩ | ⟨b, n, bs, image, out⟩
    · rw [fresh]
      exact poll bit
    · rw [polls]
      exact poll bit
    · rw [image]
      refine (if_neg fun found => ?_).trans (poll bit)
      obtain ⟨j, mem, same⟩ := (gone b).1 found
      exact out j mem same
  · rw [running, again]
    obtain ⟨frame, bytes⟩ := c
    rcases kept with flush | ⟨b, n, image, out⟩
    · cases flush
      rfl
    · cases image
      exact if_pos ((gone b).2 out)

/-- An entry given beside a change of one lane's record. -/
theorem Gives.onLane {s : State} (quiet : s.host.busIn = none) (l : Lane) (f : LaneRec → LaneRec) (b : EntryBody) :
    Journalled (s.onLane l f) (give b (s.onLane l f)) ∧ Gives [b] s (give b (s.onLane l f)) :=
  ⟨give_journalled (s := s.onLane l f) quiet b,
    Gives.of_same (u := s.onLane l f) ⟨rfl, rfl, rfl, rfl, rfl, rfl, rfl, rfl⟩ quiet quiet rfl rfl rfl⟩

/-- A recovered fault whose entry need not wait (R138). -/
theorem raiseRecovered_eq {s : State} {l : Lane} (free : s.faults.recs[l].deferred = none) (line : s.journal.overflow = [])
    (few : s.journal.holding.length < 256) (k : FaultKind) :
    raiseRecovered l k s = give (.fault l k true 0) (countFault l s) := by
  have room : canQueue (countFault l s) = true := (canQueue_iff _).2 ⟨line, few⟩
  have notDeferred : ¬ (countFault l s).faults.recs[l].deferred.isSome = true := by
    rw [show (countFault l s).faults = s.faults from rfl, free]
    exact Bool.false_ne_true
  rw [raiseRecovered, giveFault, if_neg notDeferred, room, Bool.or_true, if_pos rfl]

theorem countFault_eq {l : Lane} {s : State} (unparked : ∀ p, s.lanes[l].state ≠ .parked p) : countFault l s =
    s.onLane l fun r => { r with act := { r.act with faults := min 4294967295 (r.act.faults + 1) } } := by
  refine State.onLane_congr ?_
  dsimp only
  split
  next p is => exact absurd is (unparked p)
  next => rfl

/-- A fault that abandons the exchange standing at a step (R103, R104). -/
theorem abandonAt_eq {s : State} {l : Lane} {x : Exchange} {step : XStep} (is : s.lanes[l].link.exchange = some x) (at' : x.step = step)
    (k : FaultKind) : abandonAt l step k s = raiseHolding l k { s with lanes := s.lanes.upd l downLane } := by
  rw [abandonAt, exchangeAt_some is at']
  exact congrArg (raiseHolding l k) (linkDown_eq l s)

theorem idleAfter_recovers {s : State} {l : Lane} {x : Exchange} {pulse : Nat} (is : s.lanes[l].link.exchange = some x)
    (clearing : x.step = .clearing) (first : 1 ≤ pulse) (ninth : pulse ≤ 9) :
    idleAfter l pulse s = raiseRecovered l .linkStuck (s.onLane l fun r => { r with
      pins := { r.pins with ldiLow := false }, link := { r.link with exchange := some ⟨x.carried, .sending, none⟩ } }) := by
  rw [idleAfter, exchangeAt_some is clearing]
  dsimp only
  rw [if_pos ⟨first, ninth⟩, setStep_eq (x := x) (by rw [State.onLane_same]; exact is), State.onLane_onLane]
  rfl

theorem idleAfter_tenth {s : State} {l : Lane} {x : Exchange} (is : s.lanes[l].link.exchange = some x)
    (clearing : x.step = .clearing) : idleAfter l 10 s = raiseHolding l .linkStuck { s with
      lanes := s.lanes.upd l fun r => downLane { r with pins := { r.pins with ldiLow := false } } } := by
  rw [idleAfter, exchangeAt_some is clearing]
  dsimp only
  rw [if_neg (by decide), if_pos rfl, raiseDown, linkDown_eq, State.onLane_onLane]
  rfl

/-- A command that changes one lane's record and nothing else. -/
theorem next_onLane {o : Host.Outcome State Fault Refusal} {s : State} {l : Lane} {f : LaneRec → LaneRec}
    (h : o = .next (s.onLane l f)) :
    ∃ t, o = .next t ∧ t = { s with lanes := t.lanes } ∧ OtherLanes l s t ∧ t.lanes[l] = f s.lanes[l] :=
  ⟨_, h, (LaneOnly.onLane l f s).rest, (LaneOnly.onLane l f s).others, State.onLane_same _ _ _⟩

theorem busyReleased_eq {s : State} {l : Lane} {x : Exchange} (is : s.lanes[l].link.exchange = some x) (busy : x.step = .busyWait)
    (low : Bool) : busyReleased l low s = s.onLane l fun r =>
      { r with
        pins := ⟨false, low⟩
        link := { r.link with exchange := some ⟨x.carried, if low then .clearing else .sending, none⟩ } } := by
  have is' : (setPins l ⟨false, low⟩ s).lanes[l].link.exchange = some x := by rw [setPins, State.onLane_same]; exact is
  unfold busyReleased
  dsimp only
  rw [exchangeAt_some is' busy]
  dsimp only
  rw [setStep_eq is', setPins, State.onLane_onLane]
  rfl

theorem frameEnds_eq {s : State} {l : Lane} {x : Exchange} (is : s.lanes[l].link.exchange = some x) (sending : x.step = .sending) :
    frameEnds l s = s.onLane l fun r =>
      { r with link := { r.link with exchange := some ⟨x.carried, .awaiting, some s.office.settings.response⟩ } } := by
  rw [frameEnds, exchangeAt_some is sending]
  exact setStep_eq is _ _

theorem reportBegins_eq {s : State} {l : Lane} {x : Exchange} (is : s.lanes[l].link.exchange = some x) (awaiting : x.step = .awaiting) :
    reportBegins l s = s.onLane l fun r => { r with link := { r.link with exchange := some ⟨x.carried, .reporting, none⟩ } } := by
  rw [reportBegins, exchangeAt_some is awaiting]
  exact setStep_eq is _ _

/-- The record of a lane on which a stuck LDI is idle again (R104). -/
def LaneRec.unstuck (c : Carried) (r : LaneRec) : LaneRec :=
  { r with
    pins := { r.pins with ldiLow := false }
    act := { r.act with faults := min 4294967295 (r.act.faults + 1) }
    link := { r.link with exchange := some ⟨c, .sending, none⟩ } }

/-- Settles O42: the poll timer is `pollTimer_carries`; every other event is a change of the exchange's step, a recovered
fault, or the link brought down. -/
theorem exchangeBeginsAndGoesOn : Obligations.ExchangeBeginsAndGoesOn := by
  refine ⟨fun s l pins p a c timer carries => ?_, fun s l x is => ⟨fun low busy => ?_, fun pulse clearing first ninth quiet free line
    few unparked => ?_, fun sending => ?_, fun awaiting => ?_, fun busy quiet => ?_, fun clearing quiet => ⟨?_, ?_⟩⟩⟩
  · obtain ⟨t, taken, rest, others, lane⟩ := next_onLane (congrArg Host.Outcome.next
      ((pollTimer_carries pins timer carries).trans (beginCarried_onLane l c _ s)))
    refine ⟨t, taken, rest, others, lane.trans ?_⟩
    unfold LaneRec.carrying
    rw [startExchange_eq]
    obtain ⟨frame, bytes⟩ := c
    cases frame
    case image =>
      simp only [LaneRec.polled, begin_eq]
      rfl
    all_goals rfl
  · exact next_onLane (congrArg Host.Outcome.next (busyReleased_eq is busy low))
  · have recovers : execLdiIdleAfterPulse l pulse none s = .next (give (.fault l .linkStuck true 0) (s.onLane l (LaneRec.unstuck x.carried))) := by
      refine congrArg Host.Outcome.next ?_
      rw [withBus_quiet (Within.idleAfter l pulse) quiet, idleAfter_recovers is clearing first ninth,
        raiseRecovered_eq (by exact free) (by exact line) (by exact few), countFault_eq, State.onLane_onLane]
      · rfl
      · rw [State.onLane_same]
        exact unparked
    obtain ⟨journalled, gives⟩ := Gives.onLane quiet l (LaneRec.unstuck x.carried) (.fault l .linkStuck true 0)
    obtain ⟨t, is'⟩ : ∃ t, give (.fault l .linkStuck true 0) (s.onLane l (LaneRec.unstuck x.carried)) = t := ⟨_, rfl⟩
    rw [is'] at recovers journalled gives
    refine ⟨t, recovers, journalled.rest.trans (by rw [journalled.rest]; rfl), fun m other => ?_, ?_, gives⟩
    · rw [journalled.rest]
      exact Table.upd_ne _ _ _ _ other
    · rw [journalled.rest]
      exact Table.upd_same _ _ _
  · exact next_onLane (congrArg Host.Outcome.next (frameEnds_eq is sending))
  · exact next_onLane (congrArg Host.Outcome.next (reportBegins_eq is awaiting))
  · exact congrArg Host.Outcome.next ((withBus_quiet (Within.abandonAt l .busyWait .stretchLimit) quiet).trans (abandonAt_eq is busy _))
  · exact congrArg Host.Outcome.next ((withBus_quiet (Within.abandonAt l .clearing .linkStuck) quiet).trans (abandonAt_eq is clearing _))
  · exact congrArg Host.Outcome.next ((withBus_quiet (Within.idleAfter l 10) quiet).trans (idleAfter_tenth is clearing))

/-! ### Exchanges that fail (R106, R108, R109) -/

theorem exec_report (l : Lane) (r : Report) (pins : Pins) (bus : Option Nat) (s : State) :
    exec (reportCommand l r pins bus) s = .next (reportEnds l r pins bus s) := by
  cases r <;> rfl

/-- A report whose last bit has been read is judged under the levels that it brings (R101, R105). -/
theorem exec_judged {s : State} {l : Lane} {x : Exchange} (quiet : s.host.busIn = none) (is : s.lanes[l].link.exchange = some x)
    (reporting : x.step = .reporting) (r : Report) (pins : Pins) : exec (reportCommand l r pins none) s =
      .next (if r.wellFormed then goodReport l x r (setPins l pins s) else badForm l x (setPins l pins s)) := by
  rw [exec_report, reportEnds, exchangeAt_some is reporting]
  exact congrArg Host.Outcome.next (withBus_quiet (f := fun s => if r.wellFormed then goodReport l x r (setPins l pins s) else
    badForm l x (setPins l pins s)) (fun s => (Within.setPins l pins s).trans (Within.judged l x r _)) quiet)

theorem exec_malformed {s : State} {l : Lane} {x : Exchange} (quiet : s.host.busIn = none) (is : s.lanes[l].link.exchange = some x)
    (reporting : x.step = .reporting) (pins : Pins) : exec (.malformedReport l pins none) s = .next (badForm l x (setPins l pins s)) := by
  show Host.Outcome.next (withBus none (malformedEnds l pins) s) = _
  rw [withBus_quiet (Within.malformedEnds l pins) quiet, malformedEnds, exchangeAt_some is reporting]

theorem failsAt_eq {s : State} {l : Lane} {x : Exchange} {step : XStep} (quiet : s.host.busIn = none)
    (is : s.lanes[l].link.exchange = some x) (at' : x.step = step) (pins : Pins) :
    withBus none (failsAt l step pins) s = failExchange l x (setPins l pins s) := by
  rw [withBus_quiet (Within.failsAt l step pins) quiet, failsAt, exchangeAt_some is at']

/-- A malformed report in the link start, or in an exchange that a FAULT CLEAR has overtaken, is a failure as any other. -/
theorem badForm_fails {s : State} {l : Lane} (x : Exchange)
    (early : s.lanes[l].link.restartDue = true ∨ s.lanes[l].link.phase = .greeting) : badForm l x s = failExchange l x s := by
  unfold badForm failExchange State.lane
  dsimp only
  split
  next => rfl
  next calm => rw [early.resolve_left calm]

theorem goodReport_fails {s : State} {l : Lane} (x : Exchange) {r : Report}
    (early : s.lanes[l].link.restartDue = true ∨ s.lanes[l].link.phase = .greeting)
    (narrow : s.lanes[l].link.restartDue = true ∨ ∀ q k w i, r = .capacity q k w i → w.toNat < 64) :
    goodReport l x r s = failExchange l x s := by
  unfold goodReport failExchange State.lane
  dsimp only
  split
  next => rfl
  next calm =>
    rw [early.resolve_left calm]
    show answerGreet l x r s = failGreeting l s
    unfold answerGreet
    split
    next q k w i => exact if_neg (Nat.not_le.2 (narrow.resolve_left calm q k w i rfl))
    next => rfl

/-- The commands that end an exchange without success: a timeout, a bad report, and, in the link start or in an exchange that a
FAULT CLEAR has overtaken, any other end but a CAPACITY that is accepted. -/
theorem fails_exec {s : State} {l : Lane} {x : Exchange} {pins : Pins} {c : Instr} (quiet : s.host.busIn = none)
    (is : s.lanes[l].link.exchange = some x)
    (ends : c = .responseTimeout l pins none ∧ x.step = .awaiting ∨ c = .reportBad l pins none ∧ x.step = .reporting ∨
      x.step = .reporting ∧ (s.lanes[l].link.restartDue = true ∨ s.lanes[l].link.phase = .greeting) ∧
        (c = .malformedReport l pins none ∨ ∃ r : Report, c = reportCommand l r pins none ∧
          (s.lanes[l].link.restartDue = true ∨
            ∀ q k w i, r = .capacity q k w i → r.wellFormed = true → w.toNat < 64))) :
    exec c s = .next (failExchange l x (setPins l pins s)) := by
  have link : (setPins l pins s).lanes[l].link = s.lanes[l].link := by rw [setPins, State.onLane_same]
  rcases ends with ⟨rfl, awaiting⟩ | ⟨rfl, reporting⟩ | ⟨reporting, early, rfl | ⟨r, rfl, narrow⟩⟩
  · exact congrArg Host.Outcome.next (failsAt_eq quiet is awaiting pins)
  · exact congrArg Host.Outcome.next (failsAt_eq quiet is reporting pins)
  · rw [exec_malformed quiet is reporting, badForm_fails x (by rw [link]; exact early)]
  · rw [exec_judged quiet is reporting]
    split
    next wellFormed =>
      rw [goodReport_fails x (by rw [link]; exact early)
        (by rw [link]; exact narrow.imp_right fun h q k w i same => h q k w i same wellFormed)]
    next => rw [badForm_fails x (by rw [link]; exact early)]

/-- The lane after a failed exchange below the third in a row (R106, R108). -/
def LaneRec.failed (pins : Pins) (poll : Nat) (x : Exchange) (r : LaneRec) : LaneRec :=
  { r with
    pins := pins
    link := { r.link with
      exchange := none, fails := r.link.fails + 1, poll := some poll
      repeatFrame := if r.link.phase = .running then some x.carried else r.link.repeatFrame } }

/-- The lane at the third failure in a row, its link lost (R106, R108). -/
def LaneRec.lost (pins : Pins) (r : LaneRec) : LaneRec :=
  downLane { r with pins := pins, link := { r.link with fails := r.link.fails + 1 } }

/-- A failed exchange that no FAULT CLEAR has overtaken: counted, and at the third in a row the link is lost (R106, R108). -/
theorem failExchange_counts {s : State} {l : Lane} {x : Exchange} (pins : Pins) (due : s.lanes[l].link.restartDue = false)
    (alive : s.lanes[l].link.phase = .running ∨ s.lanes[l].link.phase = .greeting) :
    failExchange l x (setPins l pins s) =
      if s.lanes[l].link.fails < 2 then s.onLane l (LaneRec.failed pins s.office.settings.poll x)
      else raiseHolding l .linkLost (s.onLane l (LaneRec.lost pins)) := by
  have link : ((setPins l pins s).lane l).link = s.lanes[l].link := by rw [State.lane, setPins, State.onLane_same]
  unfold failExchange
  dsimp only
  rw [link, if_neg (Bool.eq_false_iff.1 due)]
  have counted : ∀ k : LinkEngine → LinkEngine, (((setPins l pins s).onLink l k).lane l).link = k s.lanes[l].link := fun k => by
    rw [State.lane, State.onLink, State.onLane_same, setPins, State.onLane_same]
  rcases alive with running | greeting
  · rw [running]
    show failRunning l x (setPins l pins s) = _
    unfold failRunning
    dsimp only
    rw [counted, setPins, State.onLink, State.onLane_onLane, raiseDown, linkDown_eq, State.onLane_onLane]
    refine if_congr Nat.succ_lt_succ_iff (State.onLane_congr ?_) (congrArg _ (State.onLane_congr rfl))
    rw [LaneRec.failed, if_pos running]
    rfl
  · rw [greeting]
    show failGreeting l (setPins l pins s) = _
    unfold failGreeting
    dsimp only
    rw [counted, setPins, State.onLink, State.onLink, State.onLane_onLane, State.onLane_onLane, raiseDown, linkDown_eq,
      State.onLane_onLane]
    refine if_congr Nat.succ_lt_succ_iff (State.onLane_congr ?_) (congrArg _ ((State.onLane_onLane _ _ _ _).trans (State.onLane_congr rfl)))
    rw [LaneRec.failed, if_neg (by rw [greeting]; exact LinkPhase.noConfusion)]
    rfl

/-- Settles O44: each of the commands fails the exchange, which `failExchange_counts` counts, or begins the link start. -/
theorem failedExchanges : Obligations.FailedExchanges := by
  intro s l x pins c quiet is ends
  have failed := fails_exec quiet is ends
  refine ⟨_, failed, fun due alive few => ?_, fun due alive third => ?_, fun due => ?_⟩
  · rw [failExchange_counts pins due alive, if_pos few]
    exact ⟨(LaneOnly.onLane l _ s).rest, (LaneOnly.onLane l _ s).others, State.onLane_same _ _ _⟩
  · rw [failExchange_counts pins due alive, if_neg (Nat.not_lt.2 third)]
    rfl
  · have link : ((setPins l pins s).lane l).link = s.lanes[l].link := by rw [State.lane, setPins, State.onLane_same]
    have starts : failExchange l x (setPins l pins s) = linkStart l (setPins l pins s) := by
      unfold failExchange
      dsimp only
      rw [link, if_pos due]
    rw [starts, linkStart_eq, setPins, State.onLane_onLane]
    exact ⟨(LaneOnly.onLane l _ s).rest, (LaneOnly.onLane l _ s).others, State.onLane_same _ _ _⟩

end Sys2Proof.Machine
end

section
/-! STEP pulses and single marks (R118 to R122, R126). -/

namespace Sys2Proof.Machine

/-! ### The Feed Monitor (R81, R118) -/

/-- A lane whose Feed Monitor counts (R81, R118). -/
def LaneRec.counting (r : LaneRec) : Prop :=
  r.state = .starting ∨ r.state = .holding ∨ r.state = .ready ∨ r.state = .printing

theorem feedOn_iff (s : State) (l : Lane) : feedOn s l = true ↔ s.office.startUp = none ∧ s.lanes[l].counting := by
  rw [feedOn, Bool.and_eq_true, State.up, Option.isNone_iff_eq_none]
  refine and_congr_right fun _ => ?_
  unfold LaneRec.counting State.lane
  cases s.lanes[l].state
  case off => exact iff_of_false Bool.false_ne_true (by rintro (h | h | h | h) <;> cases h)
  case parked => exact iff_of_false Bool.false_ne_true (by rintro (h | h | h | h) <;> cases h)
  case starting => exact iff_of_true rfl (.inl rfl)
  case holding => exact iff_of_true rfl (.inr (.inl rfl))
  case ready => exact iff_of_true rfl (.inr (.inr (.inl rfl)))
  case printing => exact iff_of_true rfl (.inr (.inr (.inr rfl)))

theorem not_feedOn {s : State} {l : Lane} (idle : s.office.startUp ≠ none ∨ s.lanes[l].state = .off ∨ ∃ p, s.lanes[l].state = .parked p) :
    feedOn s l = false := by
  refine Bool.eq_false_iff.2 fun on => ?_
  obtain ⟨up, counting⟩ := (feedOn_iff s l).1 on
  rcases idle with down | off | ⟨p, parked⟩
  · exact down up
  · rcases counting with h | h | h | h <;> cases off.symm.trans h
  · rcases counting with h | h | h | h <;> cases parked.symm.trans h

/-- No other job awaits its mark than a SENT one. -/
theorem awaitingMark_isSome {s : State} {l : Lane} : (∃ j, awaitingMark s l = some j) ↔ ∃ j ∈ s.lanes[l].out, j.state = .sent := by
  rw [← Option.isSome_iff_exists, awaitingMark, List.find?_isSome]
  exact exists_congr fun j => and_congr_right fun _ => decide_eq_true_iff

theorem markKind_loaded {s : State} {l : Lane} {m : Loaded} (mag : s.stock.mags[l] = some m) (j : Job) :
    markKind s l j = s.stock.kinds[m.kind] := by
  simp only [markKind, State.mag, mag]

/-- The missed-mark comparison, under the pitch by which the lane's marks are judged (R126). -/
theorem markOverdue_iff {s : State} {l : Lane} {N : Nat} (on : feedOn s l = true)
    (pitch : (∃ m, s.stock.mags[l] = some m ∧ N = s.stock.kinds[m.kind].pitch) ∨
      s.stock.mags[l] = none ∧ ∀ j ∈ s.lanes[l].out, j.state ≠ .sent) :
    markOverdue s l = true ↔ Working s l ∧ (∃ j ∈ s.lanes[l].out, j.state = .sent) ∧ 5 * N / 2 < s.lanes[l].feed.since := by
  have late : ∀ j, awaitingMark s l = some j → (missedLimit (markKind s l j).pitch < (s.lane l).feed.since ↔
      5 * N / 2 < s.lanes[l].feed.since) := fun j awaits => by
    rcases pitch with ⟨m, mag, rfl⟩ | ⟨-, free⟩
    · rw [markKind_loaded mag]
      rfl
    · obtain ⟨i, mem, sent⟩ := awaitingMark_isSome.1 ⟨j, awaits⟩
      exact absurd sent (free i mem)
  rw [markOverdue, on, Bool.true_and, Bool.and_eq_true, decide_eq_true_eq, ← awaitingMark_isSome]
  refine and_congr_right fun _ => ?_
  rcases awaits : awaitingMark s l with _ | j
  · exact iff_of_false Bool.false_ne_true (by rintro ⟨⟨j, h⟩, -⟩; cases h)
  · simp only [decide_eq_true_eq, late j awaits, Option.some.injEq, exists_eq', true_and]

/-! ### STEP (R119, R126) -/

/-- The lane after a STEP pulse under the levels that it brings. -/
def LaneRec.pulsed (pins : Pins) (r : LaneRec) : LaneRec := { r with pins := pins, feed := r.feed.pulse }

theorem exec_step {s : State} {l : Lane} (quiet : s.host.busIn = none) (pins : Pins) :
    exec (.step l ⟨pins, none⟩) s = .next (stepPulse l (setPins l pins s)) :=
  congrArg Host.Outcome.next (withBus_quiet (f := fun s => stepPulse l (setPins l pins s))
    (fun s => (Within.setPins l pins s).trans (Within.stepPulse l _)) quiet)

theorem exec_missedMark {s : State} {l : Lane} (quiet : s.host.busIn = none) (pins : Pins) : exec (.missedMarkLimit l ⟨pins, none⟩) s =
    .next (if markOverdue (s.onFeed l FeedMonitor.pulse) l then stepPulse l (setPins l pins s) else s) := by
  refine congrArg Host.Outcome.next (if_congr Iff.rfl ?_ rfl)
  exact withBus_quiet (f := fun s => stepPulse l (setPins l pins s))
    (fun s => (Within.setPins l pins s).trans (Within.stepPulse l _)) quiet

theorem stepPulse_eq {s : State} {l : Lane} (on : feedOn s l = true) (pins : Pins) :
    stepPulse l (setPins l pins s) = missedMarkTest l (s.onLane l (LaneRec.pulsed pins)) := by
  have on' : feedOn (setPins l pins s) l = true := by
    rw [feedOn_iff, setPins, State.onLane_same]
    exact (feedOn_iff s l).1 on
  rw [stepPulse, if_pos on', setPins, State.onFeed, State.onLane_onLane]
  rfl

/-- A change of the lane that leaves its state and its jobs out leaves the missed-mark comparison to steps since mark. -/
theorem markOverdue_pulsed {s : State} {l : Lane} {N : Nat} {f : LaneRec → LaneRec} (on : feedOn s l = true)
    (pitch : (∃ m, s.stock.mags[l] = some m ∧ N = s.stock.kinds[m.kind].pitch) ∨
      s.stock.mags[l] = none ∧ ∀ j ∈ s.lanes[l].out, j.state ≠ .sent)
    (state : ∀ r, (f r).state = r.state) (out : ∀ r, (f r).out = r.out) :
    markOverdue (s.onLane l f) l = true ↔
      Working s l ∧ (∃ j ∈ s.lanes[l].out, j.state = .sent) ∧ 5 * N / 2 < (f s.lanes[l]).feed.since := by
  obtain ⟨up, counting⟩ := (feedOn_iff s l).1 on
  have lane : (s.onLane l f).lanes[l] = f s.lanes[l] := State.onLane_same _ _ _
  have on' : feedOn (s.onLane l f) l = true := by
    rw [feedOn_iff, lane]
    exact ⟨up, by unfold LaneRec.counting; rw [state]; exact counting⟩
  rw [markOverdue_iff on' (N := N) (by rw [lane, out]; exact pitch), lane, out, Working, lane, state]
  rfl

/-- Settles O56: the pulse is counted and compared, on a lane whose Feed Monitor counts. -/
theorem stepCountsAndWatches : Obligations.StepCountsAndWatches := by
  intro s l pins quiet
  rw [exec_step quiet, exec_missedMark quiet]
  refine ⟨fun u N up counting pitch is => ?_, fun idle => ⟨?_, ?_⟩⟩
  · have on : feedOn s l = true := (feedOn_iff s l).2 ⟨up, counting⟩
    have stepped : s.onLane l (LaneRec.pulsed pins) = u := by rw [is]; rfl
    have overdue := markOverdue_pulsed on pitch (f := LaneRec.pulsed pins) (fun _ => rfl) fun _ => rfl
    have overdue' : markOverdue (s.onFeed l FeedMonitor.pulse) l = true ↔ _ :=
      markOverdue_pulsed on pitch (f := fun r => { r with feed := r.feed.pulse }) (fun _ => rfl) fun _ => rfl
    have since : u.lanes[l].feed.since = (s.lanes[l].pulsed pins).feed.since := by rw [← stepped, State.onLane_same]
    rw [stepPulse_eq on, stepped, missedMarkTest, since]
    rw [stepped] at overdue
    refine ⟨fun late => ?_, fun early => ?_⟩
    · rw [if_pos (overdue.2 late), if_pos (overdue'.2 late)]
      exact ⟨rfl, rfl⟩
    · rw [if_neg fun h => early (overdue.1 h), if_neg fun h => early (overdue'.1 h)]
      exact ⟨rfl, rfl⟩
  · have off : feedOn (setPins l pins s) l = false := not_feedOn (by rw [setPins, State.onLane_same]; exact idle)
    rw [stepPulse, if_neg (Bool.eq_false_iff.1 off)]
    rfl
  · have off : feedOn (s.onFeed l FeedMonitor.pulse) l = false := not_feedOn (by rw [State.onFeed, State.onLane_same]; exact idle)
    rw [markOverdue, off]
    rfl

/-! ### The record of a holding fault (R136, R137) -/

/-- What giving an entry leaves: everything but the journal, the exchange and host memory. -/
theorem give_rest (b : EntryBody) (s : State) :
    give b s = { s with journal := (give b s).journal, exch := (give b s).exch, host := (give b s).host } := by
  have gate : ∀ s : State, closeGate s = { s with journal := (closeGate s).journal, exch := (closeGate s).exch } := fun s => by
    unfold closeGate
    split <;> rfl
  have written : ∀ e (s : State), (writeEntry e s).1 = { s with
      journal := (writeEntry e s).1.journal, exch := (writeEntry e s).1.exch, host := (writeEntry e s).1.host } := fun e s => by
    have accessed : s.access.1 = { s with host := s.access.1.host } := by rw [access_fst]; rfl
    simp only [writeEntry]
    split
    · rw [accessed]; rfl
    · rw [accessed]; rfl
  unfold give place
  split
  · dsimp only
    rw [gate]
    split
    · rw [written]
    · rw [written]; rfl
  · split
    · rw [gate]; rfl
    · rw [gate]; rfl

/-- What giving a FAULT entry leaves: its lane's record aside, everything but the journal, the exchange and host memory. -/
theorem giveFault_rest (l : Lane) (k : FaultKind) (r : Bool) (n : Nat) (s : State) : giveFault l k r n s = { s with
    faults := (giveFault l k r n s).faults, journal := (giveFault l k r n s).journal, exch := (giveFault l k r n s).exch
    host := (giveFault l k r n s).host } := by
  unfold giveFault
  split
  · rfl
  · split
    · rw [give_rest]
    · unfold closeGate
      split <;> rfl

/-- A holding fault recorded, before the lane is held (R136, R137). -/
def recorded (l : Lane) (k : FaultKind) (s : State) : State :=
  match s.faults.recs[l].active with
  | none => giveFault l k false 0
      ((onRecord l (fun r => { r with active := some ⟨k, s.office.clock, [], 0⟩ }) (countFault l s)).onAlerts
        fun a => { a with lane := true })
  | some a =>
    let t := onRecord l (fun r => { r with active := some (a.add k) }) (countFault l s)
    if a.has k then t else giveFault l k false (a.add k).repeats t

theorem raiseHolding_eq (l : Lane) (k : FaultKind) (s : State) : raiseHolding l k s = holdLane l k (recorded l k s) := by
  have same : (countFault l s).faults = s.faults := rfl
  unfold raiseHolding recorded
  dsimp only
  rw [same]
  cases s.faults.recs[l].active <;> rfl

/-- What the record of a holding fault leaves. -/
theorem recorded_rest (l : Lane) (k : FaultKind) (s : State) : recorded l k s = { countFault l s with
    faults := (recorded l k s).faults, journal := (recorded l k s).journal, exch := (recorded l k s).exch
    host := (recorded l k s).host } := by
  unfold recorded
  split
  · rw [giveFault_rest]; rfl
  · dsimp only
    split
    · rfl
    · rw [giveFault_rest]; rfl

theorem stalled_recorded (l : Lane) (k : FaultKind) (s : State) : stalled (recorded l k s) l = stalled s l := by
  have lane : (recorded l k s).lanes[l] = s.lanes[l].acted fun a => { a with faults := satAdd Config.max32 a.faults 1 } := by
    rw [recorded_rest]
    exact State.onLane_same _ _ _
  have stock : (recorded l k s).stock = s.stock := by rw [recorded_rest]; rfl
  rw [stalled_eq, lane, stock, acted_eq]
  rfl

/-- A holding fault makes the edge of the stall that it begins itself. -/
theorem raiseHolding_edged (l : Lane) (k : FaultKind) (s : State) :
    stallEdge (stalled s l) l (raiseHolding l k s) = raiseHolding l k s := by
  rw [raiseHolding_eq, ← stalled_recorded l k s]
  obtain ⟨t, is⟩ : ∃ t, recorded l k s = t := ⟨_, rfl⟩
  rw [is]
  unfold holdLane
  split
  · exact stallEdge_again _ _ _
  · exact stallEdge_again _ _ _
  · exact stallEdge_again _ _ _
  · exact stallEdge_same rfl

/-! ### Marks (R119 to R122) -/

theorem exec_mark {s : State} {l : Lane} (quiet : s.host.busIn = none) (pins : Pins) :
    exec (.mark l ⟨pins, none⟩) s = .next (markEdge l (setPins l pins s)) :=
  congrArg Host.Outcome.next (withBus_quiet (f := fun s => markEdge l (setPins l pins s))
    (fun s => (Within.setPins l pins s).trans (Within.markEdge l _)) quiet)

/-- The lane after a MARK edge under the levels that it brings. -/
def LaneRec.captured (pins : Pins) (r : LaneRec) : LaneRec := { r with pins := pins, feed := r.feed.capture }

/-- A mark on a READY or PRINTING lane: that of the job that awaits it, or an unexpected one (R118, R121). -/
def markWorking (l : Lane) (f : FeedMonitor) (s : State) : State :=
  match awaitingMark s l with
  | none => unexpectedFeed l s
  | some j => jobMark l j (markClass f (markKind s l j).pitch (markKind s l j).tol) s

theorem markEdge_working {s : State} {l : Lane} (up : s.office.startUp = none) (working : Working s l) (pins : Pins) :
    markEdge l (setPins l pins s) = withStall l (markWorking l s.lanes[l].feed) (s.onLane l (LaneRec.captured pins)) := by
  have lane : (setPins l pins s).lanes[l] = { s.lanes[l] with pins := pins } := State.onLane_same _ _ _
  have on : feedOn (setPins l pins s) l = true := by
    rw [feedOn_iff, lane]
    exact ⟨up, .inr (.inr working)⟩
  have captured : (setPins l pins s).onFeed l FeedMonitor.capture = s.onLane l (LaneRec.captured pins) := by
    rw [State.onFeed, setPins, State.onLane_onLane]
    rfl
  unfold markEdge
  dsimp only
  rw [if_pos on, State.lane, lane, captured]
  rcases working with ready | printing
  · rw [ready]
    rfl
  · rw [printing]
    rfl

/-- The mark of a job, once it is FED and counted. -/
def fedAndCounted (l : Lane) (j : Job) (s : State) : State := countFed l 1 (feedJob l j s)

theorem acted_unparked {r : LaneRec} (unparked : ∀ p, r.state ≠ .parked p) (f : Activity → Activity) :
    r.acted f = { r with act := f r.act } := by
  unfold LaneRec.acted
  split
  next p is => exact absurd is (unparked p)
  next => rfl

theorem working_unparked {s : State} {l : Lane} (working : Working s l) (p : ParkReason) : s.lanes[l].state ≠ .parked p := by
  rcases working with h | h <;> rw [h] <;> exact LaneState.noConfusion

theorem fedAndCounted_eq {s : State} {l : Lane} {pins : Pins} (working : Working s l) (j : Job) :
    fedAndCounted l j (s.onLane l (LaneRec.captured pins)) = { s with lanes := s.lanes.upd l fun r => { r with
        pins := pins
        feed := { r.feed with last := some r.feed.counter, since := 0 }
        out := r.out.map fun i => if i.buffer = j.buffer then { i with state := .fed } else i
        act := { r.act with blanksFed := min 4294967295 (r.act.blanksFed + 1) } } } := by
  rw [fedAndCounted, countFed, feedJob, onOut, onAct_eq, State.onLane_onLane, State.onLane_onLane]
  refine State.onLane_congr ?_
  rw [Function.comp_apply, Function.comp_apply, acted_unparked (by exact working_unparked working)]
  rfl

/-- A change of the lane that leaves its state and its queue begins and ends no stall. -/
theorem stalled_onLane (s : State) (l : Lane) {f : LaneRec → LaneRec} (state : (f s.lanes[l]).state = s.lanes[l].state)
    (queue : (f s.lanes[l]).queue = s.lanes[l].queue) : stalled (s.onLane l f) l = stalled s l := by
  rw [stalled_eq, State.onLane_same, stalled_eq, laneStalled, state, queue]
  rfl

/-- Settles O57: the class of the mark decides whether PITCH_WRONG follows the feed. -/
theorem markFeedsJob : Obligations.MarkFeedsJob := by
  intro s l pins m j k p quiet up working mag kind awaits
  obtain ⟨u, fed⟩ : ∃ u, fedAndCounted l j (s.onLane l (LaneRec.captured pins)) = u := ⟨_, rfl⟩
  have is := fed.symm.trans (fedAndCounted_eq working j)
  have lane : (s.onLane l (LaneRec.captured pins)).lanes[l] = s.lanes[l].captured pins := State.onLane_same _ _ _
  have awaits' : awaitingMark (s.onLane l (LaneRec.captured pins)) l = some j := by
    rw [awaitingMark, State.lane, lane]
    exact awaits
  have kind' : markKind (s.onLane l (LaneRec.captured pins)) l j = k := by
    rw [kind]
    exact markKind_loaded (s := s.onLane l (LaneRec.captured pins)) mag j
  have still : stalled u l = stalled (s.onLane l (LaneRec.captured pins)) l := by
    rw [is, stalled_onLane s l rfl rfl]
    exact stalled_onLane s l rfl rfl
  have marked : exec (.mark l ⟨pins, none⟩) s = .next (stallEdge (stalled u l) l
      (jobMark l j (markClass s.lanes[l].feed k.pitch k.tol) (s.onLane l (LaneRec.captured pins)))) := by
    rw [exec_mark quiet, markEdge_working up working, withStall, still, markWorking, awaits']
    dsimp only
    rw [kind']
  have calm : ∀ c, c = .unclassified ∨ c = .single → stallEdge (stalled u l) l (jobMark l j c (s.onLane l (LaneRec.captured pins))) = u := by
    rintro c (rfl | rfl)
    all_goals
      show stallEdge (stalled u l) l (fedAndCounted l j (s.onLane l (LaneRec.captured pins))) = u
      rw [fed]
      exact stallEdge_same rfl
  refine ⟨u, is, fun first => ?_, fun c last pitch => ⟨fun few near near' => ?_, fun wrong => ?_⟩⟩
  · rw [marked, markClass, first, calm _ (.inl rfl)]
  · have single : markClass s.lanes[l].feed k.pitch k.tol = .single := by
      simp only [markClass, last]
      rw [if_neg (Nat.ne_of_lt few), ← pitch, pitchClass, if_pos ⟨near, near'⟩]
    rw [marked, single, calm _ (.inr rfl)]
  · have class' : markClass s.lanes[l].feed k.pitch k.tol = .wrong := by
      simp only [markClass, last]
      rw [← pitch]
      rcases wrong with full | ⟨far, far'⟩
      · rw [if_pos full]
      · rw [pitchClass, if_neg far, if_neg far', ite_self]
    have held : jobMark l j .wrong (s.onLane l (LaneRec.captured pins)) = raiseHolding l .pitchWrong u :=
      congrArg (raiseHolding l .pitchWrong) fed
    rw [marked, class', held, raiseHolding_edged]

end Sys2Proof.Machine
end

section
/-! The reports that end an exchange (R99, R101, R105, R107, R111, R112, R115 to R117, R128). -/

namespace Sys2Proof.Machine

/-! ### The end of an exchange -/

/-- The lane whose frame has reached the printer (R105). -/
def LaneRec.reached (f : Frame) (r : LaneRec) : LaneRec :=
  { r with
    out := match f with
      | .image b p => r.out.map fun j => if j.buffer = b ∧ p ≠ 1 ∧ (j.delivery = .carrying false ∨ j.delivery = .carrying true)
          then { j with delivery := .delivered } else j
      | _ => r.out
    link := { r.link with flushCarried := if f = .flush then r.link.awaited.isSome else r.link.flushCarried } }

theorem delivered_job (j : Job) (b : Buffer) (p : Nat) (last : p ≠ 1) :
    (if j.buffer = b then { j with delivery := match j.delivery with
      | .carrying _ => .delivered
      | d => d } else j) =
    if j.buffer = b ∧ p ≠ 1 ∧ (j.delivery = .carrying false ∨ j.delivery = .carrying true) then { j with delivery := .delivered } else j := by
  have done : ({ j with delivery := match j.delivery with
      | .carrying _ => .delivered
      | d => d } : Job) = if j.delivery = .carrying false ∨ j.delivery = .carrying true then { j with delivery := .delivered } else j := by
    rcases j with ⟨_, _, _, _, _, _, _, _, _, _, _, _, _, _, _, _, _, _, _, (_ | _) | _ | _⟩ <;> rfl
  rw [done, ← ite_and]
  simp only [last, ne_eq, not_false_eq_true, true_and]

theorem delivered_eq (l : Lane) (f : Frame) (s : State) : delivered l f s = s.onLane l (LaneRec.reached f) := by
  cases f with
  | image b p =>
    by_cases first : p = 1
    · have same : ∀ js : List Job, (js.map fun j => if j.buffer = b ∧ p ≠ 1 ∧ (j.delivery = .carrying false ∨ j.delivery = .carrying true)
          then { j with delivery := .delivered } else j) = js := fun js =>
        (List.map_congr_left fun j _ => if_neg fun h => h.2.1 first).trans (List.map_id _)
      rw [delivered, if_pos first]
      refine (State.onLane_id ?_).symm
      simp only [LaneRec.reached, same]
      rfl
    · rw [delivered, if_neg first, onOut]
      exact State.onLane_congr (congrArg (fun js => { s.lanes[l] with out := js })
        (List.map_congr_left fun j _ => delivered_job j b p first))
  | flush => rfl
  | greet => exact (State.onLane_id rfl).symm
  | poll b => exact (State.onLane_id rfl).symm

/-- The lane at the good end of an exchange: the levels of the input lines, no failure in a row, the frame at the printer
(R105, R106). -/
def LaneRec.ended (f : Frame) (pins : Pins) (r : LaneRec) : LaneRec :=
  { r with pins := pins, link := { r.link with fails := 0 } }.reached f

/-- The engine of lane `l` runs and reads the report that ends an exchange with the frame `f`. -/
structure Reads (s : State) (l : Lane) (f : Frame) : Prop where
  quiet    : s.host.busIn = none
  phase    : s.lanes[l].link.phase = .running
  due      : s.lanes[l].link.restartDue = false
  exchange : ∃ bytes, s.lanes[l].link.exchange = some ⟨⟨f, bytes⟩, .reporting, none⟩

theorem Reporting.reads {s : State} {l : Lane} {ack b : Bool} (h : Reporting s l ack b) : Reads s l (.poll b) :=
  ⟨h.quiet, h.phase, h.due, h.exchange⟩

/-- A malformed report (R101). -/
theorem Reads.malformed {s : State} {l : Lane} {f : Frame} (h : Reads s l f) (pins : Pins) : exec (.malformedReport l pins none) s =
    .next (afterExchange l false f (raiseHolding l .protocol (s.onLane l (LaneRec.ended f pins)))) := by
  obtain ⟨bytes, is⟩ := h.exchange
  have link : ((setPins l pins s).lane l).link = s.lanes[l].link := by rw [State.lane, setPins, State.onLane_same]
  rw [exec_malformed h.quiet is rfl, badForm]
  dsimp only
  rw [link, if_neg (Bool.eq_false_iff.1 h.due), h.phase]
  dsimp only
  rw [delivered_eq, State.onLink, setPins, State.onLane_onLane, State.onLane_onLane]
  rfl

/-- A well-formed report is answered by the running engine. -/
theorem Reads.answers {s : State} {l : Lane} {f : Frame} (h : Reads s l f) {r : Report} (wellFormed : r.wellFormed = true) (pins : Pins) :
    exec (reportCommand l r pins none) s = .next
      (if actsOnNothing s.lanes[l].link.ack r then afterExchange l false f (s.onLane l (LaneRec.ended f pins))
      else match f with
        | .poll _ => afterExchange l true f (act l r ((s.onLane l (LaneRec.ended f pins)).onLink l fun k =>
            { k with ack := r.seq.map fun q => decide (q = 1) }))
        | _ => afterExchange l false f (raiseHolding l .protocol (s.onLane l (LaneRec.ended f pins)))) := by
  obtain ⟨bytes, is⟩ := h.exchange
  have link : ((setPins l pins s).lane l).link = s.lanes[l].link := by rw [State.lane, setPins, State.onLane_same]
  have ended : delivered l f ((setPins l pins s).onLink l fun k => { k with fails := 0 }) = s.onLane l (LaneRec.ended f pins) := by
    rw [delivered_eq, State.onLink, setPins, State.onLane_onLane, State.onLane_onLane]
    rfl
  have ack : ((s.onLane l (LaneRec.ended f pins)).lane l).link.ack = s.lanes[l].link.ack := by
    rw [State.lane, State.onLane_same]
    rfl
  rw [exec_judged h.quiet is rfl, if_pos wellFormed, goodReport]
  rw [link, if_neg (Bool.eq_false_iff.1 h.due), h.phase]
  show Host.Outcome.next (answerRunning l ⟨⟨f, bytes⟩, .reporting, none⟩ r (setPins l pins s)) = _
  unfold answerRunning
  dsimp only
  rw [ended, ack]
  cases f <;> rfl

/-- NOTHING, and a repeat of the report last accepted (R107; log entry 14). -/
theorem actsOnNothing_repeat {ack : Bool} {r : Report} (h : r = .nothing ∨ r.seq = some (if ack then 1 else 0)) :
    actsOnNothing (some ack) r = true := by
  unfold actsOnNothing
  rcases h with rfl | is
  · rfl
  · rw [is]
    cases ack <;> rfl

theorem actsOnNothing_new {ack : Bool} {r : Report} (h : r.seq = some (newBit ack)) : actsOnNothing (some ack) r = false := by
  unfold actsOnNothing
  rw [h]
  cases ack <;> rfl

theorem newBit_turned (ack : Bool) : decide (newBit ack = 1) = !ack := by cases ack <;> rfl

theorem newBit_le (ack : Bool) : (newBit ack).toNat ≤ 1 := by cases ack <;> decide

/-- A new report that answers a POLL is acted on, its bit acknowledged (R107). -/
theorem Reporting.acts {s : State} {l : Lane} {ack b : Bool} (h : Reporting s l ack b) {r : Report} (wellFormed : r.wellFormed = true)
    (new : r.seq = some (newBit ack)) (pins : Pins) :
    exec (reportCommand l r pins none) s = .next (afterExchange l true (.poll b) (act l r (heard s l ack pins))) := by
  rw [h.reads.answers wellFormed, h.bit, actsOnNothing_new new, if_neg Bool.false_ne_true]
  dsimp only
  rw [State.onLink, State.onLane_onLane, new, Option.map_some, newBit_turned]
  rfl

/-- A report that answers another frame than a POLL raises PROTOCOL (R105; log entry 43). -/
theorem Reads.outOfTurn {s : State} {l : Lane} {f : Frame} (h : Reads s l f) {ack : Bool} (bit : s.lanes[l].link.ack = some ack)
    (frame : f = .flush ∨ ∃ b p, f = .image b p) {r : Report} (wellFormed : r.wellFormed = true) (new : r.seq = some (newBit ack))
    (pins : Pins) : exec (reportCommand l r pins none) s =
      .next (afterExchange l false f (raiseHolding l .protocol (s.onLane l (LaneRec.ended f pins)))) := by
  rw [h.answers wellFormed, bit, actsOnNothing_new new, if_neg Bool.false_ne_true]
  rcases frame with rfl | ⟨b, p, rfl⟩ <;> rfl

/-! ### Reports acted on (R111, R117) -/

theorem Reporting.does {s u : State} {l : Lane} {ack b : Bool} (h : Reporting s l ack b) {r : Report} {pins : Pins}
    (wellFormed : r.wellFormed = true) (new : r.seq = some (newBit ack)) (acted : act l r (heard s l ack pins) = u) :
    exec (reportCommand l r pins none) s = .next (afterExchange l true (.poll b) u) :=
  acted ▸ h.acts wellFormed new pins

theorem heard_lane (s : State) (l : Lane) (ack : Bool) (pins : Pins) : (heard s l ack pins).lanes[l] =
    { s.lanes[l] with pins := pins, link := { s.lanes[l].link with fails := 0, ack := some !ack } } := State.onLane_same _ _ _

theorem act_working {s : State} {l : Lane} (working : Working s l) (ack : Bool) (pins : Pins) (r : Report) :
    act l r (heard s l ack pins) = stallEdge (stalled (heard s l ack pins) l) l (actWorking l r (heard s l ack pins)) := by
  unfold act
  rw [State.lane, heard_lane]
  rcases working with ready | printing
  · rw [ready]; rfl
  · rw [printing]; rfl

theorem act_holding {s : State} {l : Lane} (holding : s.lanes[l].state = .holding) (ack : Bool) (pins : Pins) (r : Report) :
    act l r (heard s l ack pins) = actHolding l r (heard s l ack pins) := by
  unfold act
  rw [State.lane, heard_lane, holding]

/-- A report that raises a holding fault on a READY or PRINTING lane. -/
theorem act_raises {s : State} {l : Lane} (working : Working s l) {ack : Bool} {pins : Pins} {r : Report} {k : FaultKind}
    (raises : actWorking l r (heard s l ack pins) = raiseHolding l k (heard s l ack pins)) :
    act l r (heard s l ack pins) = raiseHolding l k (heard s l ack pins) := by
  rw [act_working working, raises, raiseHolding_edged]

/-- A report that begins and ends no stall on a READY or PRINTING lane. -/
theorem act_calm {s u : State} {l : Lane} (working : Working s l) {ack : Bool} {pins : Pins} {r : Report}
    (does : actWorking l r (heard s l ack pins) = u) (still : stalled u l = stalled (heard s l ack pins) l) :
    act l r (heard s l ack pins) = u := by
  rw [act_working working, does]
  exact stallEdge_same still

/-- Settles O50: what does not act ends the exchange good, and what a HOLDING lane ignores. -/
theorem reportsWithoutEffect : Obligations.ReportsWithoutEffect := by
  refine ⟨fun s l ack f bytes r pins quiet running due bit is wellFormed nothing => ?_, fun s l ack b pins reporting holding =>
    ⟨fun r wellFormed names => ?_, fun c few => ?_⟩⟩
  · have reads : Reads s l f := ⟨quiet, running, due, bytes, is⟩
    rw [reads.answers wellFormed, bit, actsOnNothing_repeat nothing, if_pos rfl]
    rfl
  · obtain ⟨n, k, w, i, rfl | rfl | rfl | rfl | rfl⟩ := names
    all_goals rw [reporting.acts wellFormed rfl, act_holding holding]; rfl
  · have wellFormed : (Report.flushed (newBit ack) c).wellFormed = true := by
      simp only [Report.wellFormed, Report.inRange, Report.seq, Bool.and_eq_true, decide_eq_true_eq]
      exact ⟨few, newBit_le ack⟩
    refine (reporting.acts wellFormed rfl pins).trans ?_
    rw [act_holding holding]
    rfl

/-! ### The job that a report names (R111, R128) -/

theorem repairRef_iff {s : State} {l : Lane} {ref : Byte} :
    repairRef s l ref = true ↔ ∃ q ∈ s.lanes[l].repairRefs, q.val = ref.toNat := by
  rw [repairRef, List.any_eq_true]
  exact exists_congr fun q => and_congr_right fun _ => decide_eq_true_iff

theorem repairRef_none {s : State} {l : Lane} {ref : Byte} (apart : ∀ q ∈ s.lanes[l].repairRefs, q.val ≠ ref.toNat) :
    repairRef s l ref = false :=
  Bool.eq_false_iff.2 fun names => by
    obtain ⟨q, mem, same⟩ := repairRef_iff.1 names
    exact apart q mem same

/-- PRINTED, EJECTED and SPOILED name the oldest job out, its mark ACCEPTED. -/
theorem named_oldest {s : State} {l : Lane} {ref : Byte} {j : Job} : named (oldestAccepted s l) ref = some j ↔
    s.lanes[l].out.head? = some j ∧ j.delivery = .accepted ∧ j.buffer.val = ref.toNat := by
  rw [named, Option.filter_eq_some_iff, decide_eq_true_eq, ← and_assoc]
  refine and_congr_left fun _ => ?_
  unfold oldestAccepted State.lane
  rcases s.lanes[l].out with _ | ⟨i, is⟩
  · exact iff_of_false (fun h => nomatch h) fun h => nomatch h.1
  · dsimp only
    rw [List.head?_cons]
    split
    next accepted => exact ⟨fun h => ⟨h, by cases h; exact accepted⟩, fun h => h.1⟩
    next not => exact iff_of_false (fun h => nomatch h) fun h => not (by cases h.1; exact h.2)

theorem named_delivered {s : State} {l : Lane} {ref : Byte} {j : Job} : named (oldestDelivered s l) ref = some j ↔
    s.lanes[l].out.find? (fun j => decide (j.delivery = .delivered)) = some j ∧ j.buffer.val = ref.toNat := by
  rw [named, Option.filter_eq_some_iff, decide_eq_true_eq]
  rfl

theorem heard_repairRef (s : State) (l : Lane) (ack : Bool) (pins : Pins) (ref : Byte) :
    repairRef (heard s l ack pins) l ref = repairRef s l ref := by
  rw [repairRef, State.lane, heard_lane]
  rfl

theorem heard_oldestAccepted (s : State) (l : Lane) (ack : Bool) (pins : Pins) :
    oldestAccepted (heard s l ack pins) l = oldestAccepted s l := by
  rw [oldestAccepted, State.lane, heard_lane]
  rfl

theorem heard_oldestDelivered (s : State) (l : Lane) (ack : Bool) (pins : Pins) :
    oldestDelivered (heard s l ack pins) l = oldestDelivered s l := by
  rw [oldestDelivered, State.lane, heard_lane]
  rfl

/-- The reports that name a job, and what each does with it on a READY or PRINTING lane (R111 to R114). -/
theorem actWorking_apart {s : State} {l : Lane} {q ref : Byte} (apart : repairRef s l ref = false) :
    actWorking l (.accepted q ref) s = actAccepted l ref s ∧ actWorking l (.printed q ref) s = actPrinted l ref s ∧
      actWorking l (.ejected q ref) s = actEjected l ref s ∧ ∀ c, actWorking l (.spoiled q ref c) s = actSpoiled l ref s :=
  ⟨if_neg (Bool.eq_false_iff.1 apart), if_neg (Bool.eq_false_iff.1 apart), if_neg (Bool.eq_false_iff.1 apart),
    fun _ => if_neg (Bool.eq_false_iff.1 apart)⟩

theorem stockAgrees_iff {s : State} {l : Lane} : stockAgrees s l = true ↔
    magSpent s.stock.mags[l] = true ∧ (s.lanes[l].out.all fun j => decide (j.state ≠ .sent)) = true := by
  rw [stockAgrees, Bool.and_eq_true, List.isEmpty_iff, sentJobs, List.filter_eq_nil_iff, List.all_eq_true]
  simp only [decide_eq_true_eq]
  rfl

/-- Settles O47: PROTOCOL, JAM and STOCK_MISMATCH as holding faults of the lane that was heard. -/
theorem reportsThatHoldTheLane : Obligations.ReportsThatHoldTheLane := by
  intro s l ack b pins reporting active
  have heardAgrees : stockAgrees (heard s l ack pins) l = true ↔
      magSpent s.stock.mags[l] = true ∧ (s.lanes[l].out.all fun j => decide (j.state ≠ .sent)) = true := by
    rw [stockAgrees_iff, heard_lane]
    rfl
  have short : (Report.outOfStock (newBit ack)).wellFormed = true := decide_eq_true (newBit_le ack)
  have jam : (Report.jammed (newBit ack)).wellFormed = true := decide_eq_true (newBit_le ack)
  refine ⟨reporting.reads.malformed pins, fun k width i working some_credit few fits => ?_, ?_, ?_⟩
  · have wellFormed : (Report.capacity (newBit ack) k width i).wellFormed = true := by
      simp only [Report.wellFormed, Report.inRange, Report.seq, Bool.and_eq_true, decide_eq_true_eq]
      exact ⟨⟨some_credit, few, fits⟩, newBit_le ack⟩
    refine (reporting.acts wellFormed rfl pins).trans ?_
    rw [act_raises working rfl]
  · refine (reporting.acts jam rfl pins).trans ?_
    rcases active with working | holding
    · rw [act_raises working rfl]
    · rw [act_holding holding]
      rfl
  · refine (reporting.acts short rfl pins).trans (congrArg (fun t => Host.Outcome.next (afterExchange l true (.poll b) t)) ?_)
    rcases active with working | holding
    · split
      next agrees => exact act_calm working (if_pos (heardAgrees.2 agrees)) rfl
      next differs => exact act_raises working (if_neg fun h => differs (heardAgrees.1 h))
    · rw [act_holding holding]
      exact if_congr heardAgrees rfl rfl

/-- Settles O48: a report that answers another frame, and one that names no job it may name. -/
theorem reportsOutOfOrder : Obligations.ReportsOutOfOrder := by
  refine ⟨fun s l ack f bytes c pins quiet running due bit is frame report => ?_,
    fun s l ack b pins ref r reporting working small apart outOfOrder => ?_⟩
  · have reads : Reads s l f := ⟨quiet, running, due, bytes, is⟩
    rcases report with rfl | ⟨r, wellFormed, new, rfl⟩
    · exact reads.malformed pins
    · exact reads.outOfTurn bit frame wellFormed new pins
  · have wellFormed : r.wellFormed = true ∧ r.seq = some (newBit ack) := by
      rcases outOfOrder with ⟨rfl | rfl | rfl, -⟩ | ⟨rfl, -⟩
      all_goals
        simp only [Report.wellFormed, Report.inRange, Report.seq, Bool.and_eq_true, decide_eq_true_eq]
        simp only [small, newBit_le, and_self]
    obtain ⟨accepted, printed, ejected, spoiled⟩ := actWorking_apart (q := newBit ack)
      ((heard_repairRef s l ack pins ref).trans (repairRef_none apart))
    refine (reporting.acts wellFormed.1 wellFormed.2 pins).trans
      (congrArg (fun t => Host.Outcome.next (afterExchange l true (.poll b) t)) (act_raises working ?_))
    rcases outOfOrder with ⟨names, other⟩ | ⟨rfl, j, head, twice⟩
    · have none' : named (oldestAccepted (heard s l ack pins) l) ref = none := by
        rw [heard_oldestAccepted]
        refine Option.eq_none_iff_forall_ne_some.2 fun j is => ?_
        obtain ⟨head, accepted, same⟩ := named_oldest.1 is
        exact (other j head).elim (· accepted) (· same)
      rcases names with rfl | rfl | rfl
      · simp only [printed, actPrinted, none']
        rfl
      · simp only [ejected, actEjected, none']
        rfl
      · simp only [spoiled, actSpoiled, none']
        rfl
    · rw [printed, actPrinted, heard_oldestAccepted]
      split
      next => rfl
      next i is =>
        obtain ⟨head', -, -⟩ := named_oldest.1 is
        obtain rfl := Option.some.inj (head.symm.trans head')
        rw [twice]
        rfl

theorem stalled_heard (s : State) (l : Lane) (ack : Bool) (pins : Pins) : stalled (heard s l ack pins) l = stalled s l :=
  stalled_onLane s l rfl rfl

/-- A change of the jobs out of the lane that was heard begins and ends no stall. -/
theorem stalled_onOut (s : State) (l : Lane) (b : Buffer) (f : Job → Job) : stalled (onOut l b f s) l = stalled s l :=
  stalled_onLane s l rfl rfl

theorem stalled_clearFlush (s : State) (l : Lane) : stalled (clearFlush l s) l = stalled s l := stalled_onLane s l rfl rfl

/-- FLUSHED on a lane whose exchange has not yet ended sends nothing itself (R116). -/
theorem actFlushed_awaited {s : State} {l : Lane} {x : Exchange} (busy : s.lanes[l].link.exchange = some x) {limit : Nat}
    (awaits : s.lanes[l].link.awaited = some limit) (c : Byte) :
    actFlushed l c s = if c.toNat ≤ limit then clearFlush l s else raiseHolding l .protocol (clearFlush l s) := by
  have busy' : (clearFlush l s).lanes[l].link.exchange = some x := by
    rw [clearFlush, State.onLane_same]
    exact busy
  rw [actFlushed, State.lane, awaits]
  dsimp only
  rw [trySend_off (canSend_busy busy')]
  rfl

/-- Settles O51: each report by the job that it names, and FLUSHED by the flush that is awaited. -/
theorem reportsOfJobsAccepted : Obligations.ReportsOfJobsAccepted := by
  intro s l ack b pins ref count reporting working small few
  have accepted : (Report.accepted (newBit ack) ref).wellFormed = true := by
    simp only [Report.wellFormed, Report.inRange, Report.seq, Bool.and_eq_true, decide_eq_true_eq]
    exact ⟨small, newBit_le ack⟩
  have spoiled : (Report.spoiled (newBit ack) ref 1).wellFormed = true := by
    simp only [Report.wellFormed, Report.inRange, Report.seq, Bool.and_eq_true, decide_eq_true_eq]
    exact ⟨⟨small, trivial⟩, newBit_le ack⟩
  have flushed : (Report.flushed (newBit ack) count).wellFormed = true := by
    simp only [Report.wellFormed, Report.inRange, Report.seq, Bool.and_eq_true, decide_eq_true_eq]
    exact ⟨few, newBit_le ack⟩
  obtain ⟨bytes, exchange⟩ := reporting.exchange
  have busy : (heard s l ack pins).lanes[l].link.exchange = some ⟨⟨.poll b, bytes⟩, .reporting, none⟩ := by
    rw [heard_lane]
    exact exchange
  have awaited : (heard s l ack pins).lanes[l].link.awaited = s.lanes[l].link.awaited := by rw [heard_lane]
  refine ⟨fun repairs r names => ?_, fun apart => ?_, fun limit u awaits is => ?_, fun awaits => ?_⟩
  · have discards : repairRef (heard s l ack pins) l ref = true := (heard_repairRef s l ack pins ref).trans (repairRef_iff.2 repairs)
    rcases names with rfl | rfl | rfl | rfl
    · exact reporting.does accepted rfl (act_calm working (if_pos discards) rfl)
    · exact reporting.does accepted rfl (act_calm working (if_pos discards) rfl)
    · exact reporting.does accepted rfl (act_calm working (if_pos discards) rfl)
    · exact reporting.does spoiled rfl (act_calm working (if_pos discards) rfl)
  · obtain ⟨onAccepted, onPrinted, -⟩ := actWorking_apart (q := newBit ack)
      ((heard_repairRef s l ack pins ref).trans (repairRef_none apart))
    refine ⟨fun j oldest same => ?_, fun other => ?_, fun j head mark same => ⟨fun fed => ?_, fun sent => ?_⟩⟩
    · have names : named (oldestDelivered (heard s l ack pins) l) ref = some j :=
        (congrArg (named · ref) (heard_oldestDelivered s l ack pins)).trans (named_delivered.2 ⟨oldest, same⟩)
      refine reporting.does accepted rfl (act_calm working ?_ (stalled_onOut _ l j.buffer _))
      rw [onAccepted, actAccepted, names]
      rfl
    · have names : named (oldestDelivered (heard s l ack pins) l) ref = none := by
        rw [heard_oldestDelivered]
        refine Option.eq_none_iff_forall_ne_some.2 fun j is => ?_
        obtain ⟨oldest, same⟩ := named_delivered.1 is
        exact other j oldest same
      refine reporting.does accepted rfl (act_raises working ?_)
      rw [onAccepted, actAccepted, names]
      rfl
    all_goals
      have names : named (oldestAccepted (heard s l ack pins) l) ref = some j :=
        (congrArg (named · ref) (heard_oldestAccepted s l ack pins)).trans (named_oldest.2 ⟨head, mark, same⟩)
    · refine reporting.does (r := .printed (newBit ack) ref) accepted rfl (act_calm working ?_ (stalled_onOut _ l j.buffer _))
      rw [onPrinted, actPrinted, names]
      dsimp only
      rw [fed]
      rfl
    · refine reporting.does (r := .printed (newBit ack) ref) accepted rfl (act_raises working ?_)
      rw [onPrinted, actPrinted, names]
      dsimp only
      rw [sent]
  · refine reporting.does flushed rfl ?_
    rw [act_working working]
    show stallEdge _ l (actFlushed l count (heard s l ack pins)) = _
    rw [actFlushed_awaited busy (awaited.trans awaits), show clearFlush l (heard s l ack pins) = u from is.symm]
    have still : stalled (heard s l ack pins) l = stalled u l := by rw [is]; exact (stalled_clearFlush _ l).symm
    rw [still]
    split
    · exact stallEdge_same rfl
    · exact raiseHolding_edged l _ u
  · refine reporting.does flushed rfl (act_raises working ?_)
    show actFlushed l count (heard s l ack pins) = _
    rw [actFlushed, State.lane, awaited, awaits]
    rfl

/-! ### CAPACITY (R77, R108) -/

/-- The lane whose printer has been greeted, its state aside (R77, R108, R119). -/
def LaneRec.greeted (k : Nat) (bit : Bool) (pins : Pins) (r : LaneRec) : LaneRec :=
  { r with
    cap := some k, credits := k, pins := pins
    link := { r.link with phase := .running, ack := some bit, fails := 0 }
    feed := { r.feed with last := none, since := 0 } }

/-- The lane at the end of its link start (R77, R91, R119). -/
def LaneRec.linked (st : LaneState) (k : Nat) (bit : Bool) (pins : Pins) (spent : Bool) (timer : Option Nat) (r : LaneRec) : LaneRec :=
  { r.greeted k bit pins with
    state := st
    patience := if st = .holding ∧ ¬ (r.queue ≠ [] ∧ spent = true) then timer else r.patience }

theorem edged_linked {r : LaneRec} (starting : r.state = .starting) (k : Nat) (bit : Bool) (pins : Pins) (m : Option Loaded)
    (timer : Option Nat) {st : LaneState} (two : st = .ready ∨ st = .holding) :
    ({ r.greeted k bit pins with state := st } : LaneRec).edged (laneStalled (r.greeted k bit pins) m)
      (laneStalled { r.greeted k bit pins with state := st } m) timer = r.linked st k bit pins (magSpent m) timer := by
  have was : laneStalled (r.greeted k bit pins) m = (!r.queue.isEmpty && magSpent m) :=
    laneStalled_working (by rw [show (r.greeted k bit pins).state = r.state from rfl, starting]; exact LaneState.noConfusion) m
  rw [was]
  rcases two with rfl | rfl
  · rw [laneStalled_working (by exact LaneState.noConfusion), LaneRec.linked, if_neg fun h => nomatch h.1]
    exact LaneRec.edged_same _ _ _
  · rw [laneStalled_holding rfl, LaneRec.linked]
    rcases r.queue with _ | ⟨j, q⟩
    · rfl
    · cases magSpent m <;> rfl

theorem acceptCapacity_eq {s : State} {l : Lane} (x : Exchange) (bit : Bool) (k : Nat) (pins : Pins) {st : LaneState}
    (starting : s.lanes[l].state = .starting)
    (is : st = if s.faults.recs[l].active = none ∧ ∀ d ∈ s.stock.doubts, d.lane ≠ l then .ready else .holding) :
    acceptCapacity l x bit k (setPins l pins s) = afterExchange l true x.carried.frame (give (.lane l st .capacity)
      (s.onLane l (LaneRec.linked st k bit pins (magSpent s.stock.mags[l]) (patienceTimer s)))) := by
  have doubts : doubtful s l = false ↔ ∀ d ∈ s.stock.doubts, d.lane ≠ l := by
    rw [doubtful, List.any_eq_false]
    exact forall₂_congr fun d _ => not_congr decide_eq_true_iff
  have state : st = if s.faults.recs[l].active.isNone && !doubtful s l then LaneState.ready else .holding := by
    rw [is]
    refine if_congr ?_ rfl rfl
    rw [Bool.and_eq_true, Option.isNone_iff_eq_none, Bool.not_eq_true', doubts]
  have two : st = .ready ∨ st = .holding := by
    rw [is]
    split
    · exact .inl rfl
    · exact .inr rfl
  have accepted : acceptCapacity l x bit k (setPins l pins s) = afterExchange l true x.carried.frame (give (.lane l st .capacity)
      (withStall l (fun s => s.onLane l fun r => { r with state := st }) (s.onLane l (LaneRec.greeted k bit pins)))) := by
    have greeted : (setPins l pins s).onLane l (fun r => { r with
        cap := some k, credits := k
        link := { r.link with phase := .running, ack := some bit, fails := 0 }
        feed := { r.feed with last := none, since := 0 } }) = s.onLane l (LaneRec.greeted k bit pins) := by
      rw [setPins, State.onLane_onLane]
      rfl
    unfold acceptCapacity
    dsimp only
    rw [greeted]
    rw [state]
    rfl
  rw [accepted, withStall, stallEdge_eq, State.onLane_onLane, State.onLane_onLane, stalled_eq, stalled_eq, State.onLane_same,
    State.onLane_same, State.onLane_same]
  refine congrArg (fun t => afterExchange l true x.carried.frame (give (.lane l st .capacity) t)) (State.onLane_congr ?_)
  exact edged_linked starting k bit pins s.stock.mags[l] (patienceTimer s) two

/-- Settles O49: `acceptCapacity_eq`, or a greeting that fails. -/
theorem capacityEndsLinkStart : Obligations.CapacityEndsLinkStart := by
  intro s l seq k width i pins bytes st quiet greeting due is starting bit some_credit few fits state
  have link : ((setPins l pins s).lane l).link = s.lanes[l].link := by rw [State.lane, setPins, State.onLane_same]
  have wellFormed : (Report.capacity seq k width i).wellFormed = true := by
    simp only [Report.wellFormed, Report.inRange, Report.seq, Bool.and_eq_true, decide_eq_true_eq]
    exact ⟨⟨some_credit, few, fits⟩, bit⟩
  refine ⟨fun wide => ?_, fun narrow below => ?_⟩
  · obtain ⟨journalled, gives⟩ := Gives.onLane quiet l
      (LaneRec.linked st k.toNat (decide (seq = 1)) pins (magSpent s.stock.mags[l]) (patienceTimer s)) (.lane l st .capacity)
    have accepts := acceptCapacity_eq ⟨⟨.greet, bytes⟩, .reporting, none⟩ (decide (seq = 1)) k.toNat pins starting state
    obtain ⟨u, is'⟩ : ∃ u, give (.lane l st .capacity) (s.onLane l
      (LaneRec.linked st k.toNat (decide (seq = 1)) pins (magSpent s.stock.mags[l]) (patienceTimer s))) = u := ⟨_, rfl⟩
    rw [is'] at journalled gives accepts
    refine ⟨_, u, ?_, rfl, journalled.rest.trans (by rw [journalled.rest]; rfl), fun m other => ?_, ?_, gives⟩
    · rw [← accepts]
      refine (exec_judged quiet is rfl (.capacity seq k width i) pins).trans (congrArg Host.Outcome.next ?_)
      rw [if_pos wellFormed, goodReport, link, if_neg (Bool.eq_false_iff.1 due), greeting]
      exact if_pos wide
    · rw [journalled.rest]
      exact Table.upd_ne _ _ _ _ other
    · rw [journalled.rest]
      exact Table.upd_same _ _ _
  · have fails : exec (.capacity l seq k width i pins none) s = .next (failExchange l ⟨⟨.greet, bytes⟩, .reporting, none⟩ (setPins l pins s)) :=
      fails_exec quiet is (.inr (.inr ⟨rfl, .inr greeting, .inr ⟨.capacity seq k width i, rfl, .inr fun q c w t same _ => by
        cases same
        exact narrow⟩⟩))
    rw [failExchange_counts pins due (.inr greeting), if_pos below] at fails
    obtain ⟨t, taken, rest, others, lane⟩ := next_onLane fails
    refine ⟨t, taken, rest, others, lane.trans ?_⟩
    rw [LaneRec.failed, if_neg (by rw [greeting]; exact LinkPhase.noConfusion)]

end Sys2Proof.Machine
end

section
/-! The desk (the Till Unit, the Journal Writer, the exchange and host memory) and the bench (all else): operations that work on
one of the two neither see nor change the other, and so commute. -/

namespace Sys2Proof.Machine

/-- The state with the desk of another: its drawers, its journal, its exchange and its host memory. -/
def State.withDesk (s t : State) : State := { s with till := t.till, journal := t.journal, exch := t.exch, host := t.host }

/-- Two states of one time of one day under the same settings. -/
structure SameHour (s t : State) : Prop where
  day      : t.office.day = s.office.day
  clock    : t.office.clock = s.office.clock
  settings : t.office.settings = s.office.settings

theorem SameHour.refl (s : State) : SameHour s s := ⟨rfl, rfl, rfl⟩

theorem SameHour.of_office {s t : State} (h : t.office = s.office) : SameHour s t := by constructor <;> rw [h]

/-- The operation works on the desk, by the hour. -/
def Desk (f : State → State) : Prop := ∀ s t, SameHour s t → f (t.withDesk s) = t.withDesk (f s)

/-- The operation works on the bench: it neither sees nor changes the desk or the hour. -/
structure Bench (p : State → State) : Prop where
  desk : ∀ s t, p (s.withDesk t) = (p s).withDesk t
  hour : ∀ s, SameHour s (p s)

namespace Desk

variable {f g : State → State}

/-- What an operation on the desk leaves. -/
theorem rest (hf : Desk f) (s : State) : f s = s.withDesk (f s) := hf s s (SameHour.refl s)

theorem office (hf : Desk f) (s : State) : (f s).office = s.office := by rw [hf.rest s]; rfl

theorem comp (hg : Desk g) (hf : Desk f) : Desk fun s => g (f s) := fun s t hour => by
  have hour' : SameHour (f s) t := ⟨by rw [hf.office, hour.day], by rw [hf.office, hour.clock], by rw [hf.office, hour.settings]⟩
  simp only [hf s t hour, hg (f s) t hour']

theorem foldl {α : Type} {f : State → α → State} (h : ∀ a, Desk fun s => f s a) : ∀ as : List α, Desk fun s => as.foldl f s
  | [] => fun _ _ _ => rfl
  | a :: as => (foldl h as).comp (h a)

/-- Work at the desk and work at the bench may be done in either order. -/
theorem commutes (hf : Desk f) {p : State → State} (hp : Bench p) (s : State) : f (p s) = p (f s) := by
  have left : p s = (p s).withDesk s := hp.desk s s
  calc f (p s) = f ((p s).withDesk s) := by rw [← left]
    _ = (p s).withDesk (f s) := hf s (p s) (hp.hour s)
    _ = p (s.withDesk (f s)) := (hp.desk s (f s)).symm
    _ = p (f s) := by rw [← hf.rest s]

theorem id : Desk fun s => s := fun _ _ _ => rfl

theorem onDrawer (w : Window) (f : Drawer → Drawer) : Desk (State.onDrawer · w f) := fun _ _ _ => rfl

theorem closeGate (s t : State) : closeGate (t.withDesk s) = t.withDesk (Machine.closeGate s) := by
  unfold Machine.closeGate
  rw [show (t.withDesk s).journal = s.journal from rfl]
  split <;> rfl

theorem access (s t : State) : (t.withDesk s).access = (t.withDesk s.access.1, s.access.2) := by
  unfold State.access
  rw [show (t.withDesk s).host = s.host from rfl]
  split <;> rfl

theorem writeEntry (e : Entry) (s t : State) : Machine.writeEntry e (t.withDesk s) =
    (t.withDesk (Machine.writeEntry e s).1, (Machine.writeEntry e s).2) := by
  unfold Machine.writeEntry
  simp only [access]
  split
  · rfl
  · rfl

theorem place (e : Entry) : Desk (place e) := fun s t _ => by
  have journalled : ∀ (f : JournalWriter → JournalWriter) (s : State), (t.withDesk s).onJournal f = t.withDesk (s.onJournal f) :=
    fun _ _ => rfl
  have now : canWriteNow (t.withDesk s) = canWriteNow s := rfl
  have queue : canQueue (t.withDesk s) = canQueue s := rfl
  unfold Machine.place
  rw [now, queue]
  split
  · simp only [writeEntry]
    split
    · exact closeGate _ t
    · rw [journalled, closeGate]
  · split
    · rw [journalled, closeGate]
    · rw [journalled, closeGate]

theorem give (b : EntryBody) : Desk (give b) := fun s t hour => by
  have stamped : stamp (t.withDesk s) b = stamp s b := by
    unfold stamp
    rw [show (t.withDesk s).office = t.office from rfl, hour.day, hour.clock]
  unfold Machine.give
  rw [stamped]
  exact place _ s t hour

theorem giveAll (bs : List EntryBody) : Desk (giveAll bs) := foldl give bs

theorem tryAnswer (i : SlotNo) (a : Answer) (s t : State) : Machine.tryAnswer i a (t.withDesk s) =
    (t.withDesk (Machine.tryAnswer i a s).1, (Machine.tryAnswer i a s).2) := by
  unfold Machine.tryAnswer
  simp only [access]
  split <;> rfl

theorem answer (i : SlotNo) (k : Byte) (tag : Tag) (oc : OrderOutcome) (f : AnswerFields) : Desk (answer i k tag oc f) :=
  fun s t hour => by
    unfold Machine.answer
    rw [show (t.withDesk s).office.clock = s.office.clock from hour.clock, show (t.withDesk s).exch = s.exch from rfl]
    split
    · simp only [tryAnswer]
      split <;> rfl
    · rfl

theorem answerIssue (l : Lane) (j : Job) (oc : OrderOutcome) (n : Option Nat) (c : Option DoubtCause) : Desk (answerIssue l j oc n c) :=
  answer _ _ _ _ _

theorem testCashUp (w : Window) : Desk (testCashUp w) := fun s t hour => by
  have till : (t.withDesk s).till = s.till := rfl
  have tolerance : (t.withDesk s).office.settings.tolerance = s.office.settings.tolerance := congrArg Settings.tolerance hour.settings
  unfold Machine.testCashUp
  dsimp only
  rw [till, tolerance]
  split
  · rfl
  next p _ =>
    split
    · exact ((onDrawer w Drawer.close).comp ((answer _ _ _ _ _).comp (give _))) s t hour
    · rfl

end Desk

namespace Bench

variable {p q : State → State}

theorem comp (hq : Bench q) (hp : Bench p) : Bench fun s => q (p s) where
  desk := fun s t => by simp only [hp.desk s t, hq.desk (p s) t]
  hour := fun s =>
    have first := hp.hour s
    have second := hq.hour (p s)
    ⟨second.day.trans first.day, second.clock.trans first.clock, second.settings.trans first.settings⟩

theorem ite {c : State → Prop} [∀ s, Decidable (c s)] (hc : ∀ s t : State, c (s.withDesk t) = c s) (hp : Bench p) (hq : Bench q) :
    Bench fun s => if c s then p s else q s where
  desk := fun s t => by
    by_cases h : c s
    · simp only [hc s t, if_pos h, hp.desk s t]
    · simp only [hc s t, if_neg h, hq.desk s t]
  hour := fun s => by
    split
    · exact hp.hour s
    · exact hq.hour s

theorem foldl {α : Type} {f : State → α → State} (h : ∀ a, Bench fun s => f s a) : ∀ as : List α, Bench fun s => as.foldl f s
  | [] => ⟨fun _ _ => rfl, SameHour.refl⟩
  | a :: as => (foldl h as).comp (h a)

theorem id : Bench fun s => s := ⟨fun _ _ => rfl, SameHour.refl⟩

theorem of_lane {l : Lane} {f : State → State} (only : ∀ s, LaneOnly l s (f s)) (desk : ∀ s t : State, f (s.withDesk t) = (f s).withDesk t) :
    Bench f := ⟨desk, fun s => SameHour.of_office (only s).office⟩

theorem onStock (f : StockRegister → StockRegister) : Bench (State.onStock · f) := ⟨fun _ _ => rfl, fun _ => SameHour.of_office rfl⟩

theorem onIssue (f : IssueController → IssueController) : Bench (State.onIssue · f) := ⟨fun _ _ => rfl, fun _ => SameHour.of_office rfl⟩

theorem onCounters (k : StockKind) (f : Counters → Counters) : Bench (State.onCounters · k f) := onStock _

theorem setMag (l : Lane) (m : Option Loaded) : Bench (State.setMag · l m) := onStock _

theorem setImage (b : Buffer) (im : Option (List ImageField)) : Bench (State.setImage · b im) :=
  ⟨fun _ _ => rfl, fun _ => SameHour.of_office rfl⟩

theorem onLane (l : Lane) (f : LaneRec → LaneRec) : Bench (State.onLane · l f) := ⟨fun _ _ => rfl, fun _ => SameHour.of_office rfl⟩

theorem onLink (l : Lane) (f : LinkEngine → LinkEngine) : Bench (State.onLink · l f) := onLane l _

theorem onAct (l : Lane) (f : Activity → Activity) : Bench (State.onAct · l f) := onLane l _

theorem onFlight (f : List FlightEntry → List FlightEntry) : Bench (State.onOffice · fun o => { o with flight := f o.flight }) :=
  ⟨fun _ _ => rfl, fun _ => ⟨rfl, rfl, rfl⟩⟩

theorem dropFlight (k : StockKind) (n : Nat) : Bench (dropFlight k n) :=
  onFlight fun es => es.filter fun e => !(decide (e.kind = k) && decide (e.serial = n))

theorem leaveOut (l : Lane) (b : Buffer) : Bench (leaveOut l b) := onLane l _

theorem countSpoilt (l : Lane) (k : StockKind) : Bench (countSpoilt l k) := (onAct l _).comp (onCounters k _)

theorem spoilHeld (l : Lane) (k : StockKind) (n : Nat) : Bench (spoilHeld l k n) := (countSpoilt l k).comp (dropFlight k n)

theorem beginCarried (l : Lane) (c : Carried) : Bench (beginCarried l c) :=
  of_lane (LaneOnly.beginCarried l c) fun s t => by rcases c with ⟨_ | _ | _ | _, _⟩ <;> rfl

theorem beginExchange (l : Lane) (f : Frame) : Bench (beginExchange l f) :=
  of_lane (LaneOnly.beginExchange l f) fun s t => (beginCarried l (carry s l f)).desk s t

theorem pump (l : Lane) : Bench (pump l) := of_lane (LaneOnly.pump l) fun s t => by
  unfold Machine.pump
  rw [show (s.withDesk t).lane l = s.lane l from rfl]
  split
  · split
    · rfl
    next f _ => exact ((beginExchange l f).comp (onLink l fun k => { k with waiting := none })).desk s t
  · rfl

theorem requestFlush (l : Lane) (n : Nat) : Bench (requestFlush l n) := of_lane (LaneOnly.requestFlush l n) fun s t => by
  unfold Machine.requestFlush
  rw [show (s.withDesk t).lane l = s.lane l from rfl]
  dsimp only
  split
  · exact ((pump l).comp (onLink l fun k => { k with waiting := some .flush, awaited := some n, flushCarried := false })).desk s t
  · rfl

theorem stallEdge (was : Bool) (l : Lane) : Bench (stallEdge was l) := of_lane (LaneOnly.stallEdge was l) fun s t => by
  rw [stallEdge_eq, stallEdge_eq]
  rfl

theorem withdraw (l : Lane) (set : List (StockKind × Nat)) : Bench (withdraw l set) := by
  have dropped := foldl (f := fun s (p : StockKind × Nat) => Machine.dropFlight p.1 p.2 s) (fun p => dropFlight p.1 p.2) set
  have moved : ∀ m, Bench fun s => (set.foldl (fun s (p : StockKind × Nat) => Machine.dropFlight p.1 p.2 s) s).setMag l m :=
    fun m => (setMag l m).comp dropped
  refine ⟨fun s t => ?_, fun s => ?_⟩
  · simp only [Machine.withdraw, dropped.desk s t]
    rw [show ∀ u : State, (u.withDesk t).mag l = u.mag l from fun _ => rfl]
    split
    · rfl
    · rfl
    · rfl
  · simp only [Machine.withdraw]
    split
    · exact dropped.hour s
    · exact dropped.hour s
    · exact (moved _).hour s

theorem recallSent (l : Lane) : Bench (recallSent l) := by
  have recalled := fun s : State => withdraw l ((sentJobs s l).filterMap fun j => j.serial.map fun n => (j.kind, n))
  refine ⟨fun s t => ?_, fun s =>
    ⟨((recalled s).hour s).day, ((recalled s).hour s).clock, ((recalled s).hour s).settings⟩⟩
  simp only [Machine.recallSent]
  rw [show sentJobs (s.withDesk t) l = sentJobs s l from rfl, (recalled s).desk s t]
  rfl

theorem sequenceRepair (l : Lane) (also : List Buffer) : Bench (sequenceRepair l also) := by
  have repaired := fun s : State => (requestFlush l (flushLimit (sentJobs s l))).comp (recallSent l)
  refine ⟨fun s t => ?_, fun s =>
    ⟨((repaired s).hour s).day, ((repaired s).hour s).clock, ((repaired s).hour s).settings⟩⟩
  simp only [Machine.sequenceRepair]
  rw [show sentJobs (s.withDesk t) l = sentJobs s l from rfl, (repaired s).desk s t]
  rfl

end Bench

end Sys2Proof.Machine
end

section
/-! The ends of a job (R65, R66, R68, R113, R114, R129): what they do at the bench, and what they do at the desk. -/

namespace Sys2Proof.Machine

/-! ### Entries and an answer at the desk -/

/-- What the desk shows after the entries have been given and, where there is one, an answer has been produced (R46, R165). -/
structure Tolled (es : List EntryBody) (ans : Option (SlotNo × Answer)) (s t : State) : Prop where
  gives    : Gives es s t
  answered : ∀ i a, ans = some (i, a) → s.exch.state = .running → AnsweredSlot t i a
  kept     : ans = none ∨ s.exch.state = .running → ExchangeKept s.exch t.exch
  pending  : ∀ i a, ans = some (i, a) → s.exch.state ≠ .running →
    t.exch = { s.exch with pendingAns := s.exch.pendingAns ++ [(i, a)], alerts := t.exch.alerts }
  silent   : ans = none → t.exch = { s.exch with alerts := t.exch.alerts }
  slots    : ∀ k, (∀ i a, ans = some (i, a) → s.exch.state ≠ .running ∨ k ≠ i) → SlotKept s t k
  tags     : t.exch.tags = s.exch.tags
  snapshot : t.host.snapshot = s.host.snapshot
  quiet    : t.host.busIn = none

/-- The entries given. -/
theorem tolled_giveAll {s : State} (quiet : s.host.busIn = none) (es : List EntryBody) : Tolled es none s (giveAll es s) := by
  have journalled := giveAll_journalled quiet es
  refine ⟨⟨rfl, rfl, rfl⟩, fun _ _ h => (nomatch h), fun _ => ?_, fun _ _ h => (nomatch h), fun _ => journalled.exch, fun k _ => ?_, ?_, ?_,
    journalled.quiet quiet⟩
  · rw [journalled.exch]
    exact ⟨by constructor <;> rfl, rfl, rfl, rfl⟩
  · exact ⟨by rw [journalled.host], by rw [journalled.exch], by rw [journalled.exch]⟩
  · rw [journalled.exch]
  · rw [journalled.host]

/-- The entries given, then an answer. -/
theorem tolled_answered {s : State} (quiet : s.host.busIn = none) (es : List EntryBody) (i : SlotNo) (a : Answer) :
    Tolled es (some (i, a)) s (answered i a (giveAll es s)) := by
  have given := tolled_giveAll quiet es
  have journalled := giveAll_journalled quiet es
  obtain ⟨u, is⟩ : ∃ u, giveAll es s = u := ⟨_, rfl⟩
  rw [is] at given journalled ⊢
  have state : u.exch.state = s.exch.state := by rw [journalled.exch]
  have produced := answered_produced i a u
  have exch := given.silent rfl
  refine ⟨⟨?_, ?_, ?_⟩, fun k b same running => ?_, fun running => ?_, fun k b same held => ?_, fun h => (nomatch h), fun k free => ?_, ?_, ?_, ?_⟩
  · rw [produced.rest]
    exact given.gives.journal
  · rw [produced.ring]
    exact given.gives.ring
  · rw [produced.alerts]
    exact given.gives.alerts
  · cases same
    exact (answered_slot (state.trans running) i a).1
  · obtain ⟨-, -, kept⟩ := answered_slot (state.trans (running.resolve_left fun h => nomatch h)) i a
    exact ExchangeKept.trans (given.kept (.inl rfl)) kept
  · cases same
    rw [answered_held (by rw [state]; exact held)]
    show { u.exch with pendingAns := u.exch.pendingAns ++ [(i, a)] } = _
    rw [exch]
    rfl
  · by_cases running : s.exch.state = .running
    · have other : k ≠ i := (free i a rfl).resolve_left fun h => h running
      exact SlotKept.trans (given.slots k fun _ _ h => nomatch h) ((answered_slot (state.trans running) i a).2.1 k other)
    · exact SlotKept.trans (given.slots k fun _ _ h => nomatch h) ((answered_pending (by rw [state]; exact running) i a).2 k)
  · exact produced.tags.trans given.tags
  · exact produced.snapshot.trans given.snapshot
  · exact produced.quiet.trans given.quiet

/-- What the desk shows depends on the desk alone. -/
theorem Tolled.of_desk {es : List EntryBody} {ans : Option (SlotNo × Answer)} {s t s' t' : State} (h : Tolled es ans s t)
    (start : SameJournal s' s) (quiet : s.host.busIn = none) (exch : s.exch = s'.exch) (host : s.host = s'.host)
    (journal : t'.journal = t.journal) (exch' : t'.exch = t.exch) (host' : t'.host = t.host) : Tolled es ans s' t' where
  gives := Gives.of_same start (by rw [← host]; exact quiet) quiet (journal.trans h.gives.journal) (by rw [host']; exact h.gives.ring)
    (by rw [exch']; exact h.gives.alerts)
  answered := fun i a is running => by
    obtain ⟨slot, mark, context⟩ := h.answered i a is (by rw [exch]; exact running)
    exact ⟨by rw [host']; exact slot, by rw [exch']; exact mark, by rw [exch']; exact context⟩
  kept := fun c => by rw [← exch, exch']; exact h.kept (by rw [exch]; exact c)
  pending := fun i a is held => by rw [exch', ← exch]; exact h.pending i a is (by rw [exch]; exact held)
  silent := fun none => by rw [exch', ← exch]; exact h.silent none
  slots := fun k free => by
    obtain ⟨slot, mark, context⟩ := h.slots k (by rw [exch]; exact free)
    exact ⟨by rw [host', slot, host], by rw [exch', mark, exch], by rw [exch', context, exch]⟩
  tags := by rw [exch', h.tags, exch]
  snapshot := by rw [host', h.snapshot, host]
  quiet := by rw [host']; exact h.quiet

/-- A drawer changed, entries given and an answer produced, shown at the desk of the state before. -/
theorem tolled_onDrawer {s : State} (quiet : s.host.busIn = none) (w : Window) (f : Drawer → Drawer) (es : List EntryBody) (i : SlotNo)
    (a : Answer) : Tolled es (some (i, a)) s (answered i a (giveAll es (s.onDrawer w f))) :=
  (tolled_answered (s := s.onDrawer w f) quiet es i a).of_desk ⟨rfl, rfl, rfl, rfl, rfl, rfl, rfl, rfl⟩ quiet rfl rfl rfl rfl rfl

theorem tolled_onDrawer_giveAll {s : State} (quiet : s.host.busIn = none) (w : Window) (f : Drawer → Drawer) (es : List EntryBody) :
    Tolled es none s (giveAll es (s.onDrawer w f)) :=
  (tolled_giveAll (s := s.onDrawer w f) quiet es).of_desk ⟨rfl, rfl, rfl, rfl, rfl, rfl, rfl, rfl⟩ quiet rfl rfl rfl rfl rfl

/-- The drawers after a drawer has been changed, entries given and an answer produced. -/
theorem till_answered (i : SlotNo) (a : Answer) (es : List EntryBody) (s : State) : (answered i a (giveAll es s)).till = s.till := by
  have given : (giveAll es s).till = s.till := by
    unfold giveAll
    induction es generalizing s with
    | nil => rfl
    | cons b bs ih =>
      refine (ih (give b s)).trans ?_
      rw [give_rest]
  rw [(answered_produced i a _).rest]
  exact given

theorem till_giveAll (es : List EntryBody) (s : State) : (giveAll es s).till = s.till := by
  unfold giveAll
  induction es generalizing s with
  | nil => rfl
  | cons b bs ih =>
    refine (ih (give b s)).trans ?_
    rw [give_rest]

/-! ### The end ISSUED (R65, R113) -/

/-- The answer to an ISSUE at its job's end (R68). -/
def issueAnswer (s : State) (l : Lane) (j : Job) (oc : OrderOutcome) (n : Option Nat) (c : Option DoubtCause) : Answer :=
  ⟨oc, kindIssue, j.tag, s.office.clock, .issue n j.kind l j.pAdult j.pChild j.total j.attempt j.spoilt c⟩

theorem answerIssue_eq {s : State} (quiet : s.host.busIn = none) (l : Lane) (j : Job) (oc : OrderOutcome) (n : Option Nat)
    (c : Option DoubtCause) : answerIssue l j oc n c s = answered j.slot (issueAnswer s l j oc n c) s :=
  answer_eq quiet _ _ _ _ _

/-- The posting of a sale in its drawer (R65, R151). -/
def Drawer.sold (j : Job) (d : Drawer) : Drawer := ((d.sale j.tender j.total).countIssued).liveDown

/-- The ISSUED entry of a job (R65). -/
def issuedEntry (l : Lane) (j : Job) (n : Nat) : EntryBody := .issued j.kind n l j.window j.shift j.tender j.total j.attempt

/-- The end ISSUED at the desk. -/
def issuedDesk (l : Lane) (j : Job) (n : Nat) (s : State) : State :=
  answerIssue l j .issued (some n) none (give (issuedEntry l j n) (s.onDrawer j.window (Drawer.sold j)))

/-- The end ISSUED in the records of tickets, stock and flight. -/
def issuedRecords (j : Job) (n : Nat) (s : State) : State :=
  dropFlight j.kind n ((s.onIssue fun i => i.insert ⟨j.kind, n, j.window, j.shift, j.tender, j.total, .issued⟩).onCounters j.kind
    fun c => c.addIssued 1)

/-- The end ISSUED at the bench. -/
def issuedBench (l : Lane) (j : Job) (n : Nat) (s : State) : State :=
  leaveOut l j.buffer ((issuedRecords j n s).setImage j.buffer none)

theorem issuedDesk_desk (l : Lane) (j : Job) (n : Nat) : Desk (issuedDesk l j n) :=
  (Desk.answerIssue l j _ _ _).comp ((Desk.give _).comp (Desk.onDrawer _ _))

theorem issuedRecords_bench (j : Job) (n : Nat) : Bench (issuedRecords j n) :=
  (Bench.dropFlight _ _).comp ((Bench.onCounters _ _).comp (Bench.onIssue _))

/-- The desk's part of an end ISSUED may come first, but for the test of the cash-up condition. -/
theorem endIssued_eq (l : Lane) (j : Job) (n : Nat) (s : State) :
    endIssued l j n s = testCashUp j.window (issuedBench l j n (issuedDesk l j n s)) := by
  have unfolded : endIssued l j n s = testCashUp j.window (leaveOut l j.buffer (answerIssue l j .issued (some n) none
      ((give (issuedEntry l j n) ((issuedRecords j n s).onDrawer j.window (Drawer.sold j))).setImage j.buffer none))) := rfl
  rw [unfolded, (Desk.answerIssue l j .issued (some n) none).commutes (Bench.setImage j.buffer none)]
  exact congrArg (fun t => testCashUp j.window (leaveOut l j.buffer (State.setImage t j.buffer none)))
    ((issuedDesk_desk l j n).commutes (issuedRecords_bench j n) s)

theorem issuedDesk_tolled {s : State} (quiet : s.host.busIn = none) (l : Lane) (j : Job) (n : Nat) :
    Tolled [issuedEntry l j n] (some (j.slot, issueAnswer s l j .issued (some n) none)) s (issuedDesk l j n s) ∧
      (issuedDesk l j n s).till = s.till.upd j.window (Drawer.sold j) := by
  have given : (give (issuedEntry l j n) (s.onDrawer j.window (Drawer.sold j))).host.busIn = none :=
    (give_journalled (s := s.onDrawer j.window (Drawer.sold j)) quiet _).quiet quiet
  have clock : (give (issuedEntry l j n) (s.onDrawer j.window (Drawer.sold j))).office = s.office := by rw [give_rest]; rfl
  have is : issuedDesk l j n s = answered j.slot (issueAnswer s l j .issued (some n) none)
      (giveAll [issuedEntry l j n] (s.onDrawer j.window (Drawer.sold j))) := by
    rw [issuedDesk, answerIssue_eq given, issueAnswer, clock]
    rfl
  rw [is]
  exact ⟨tolled_onDrawer quiet j.window (Drawer.sold j) _ _ _, till_answered _ _ _ _⟩

/-- The record of a lane when a job has left its jobs out (R79, R88). -/
def LaneRec.left (b : Buffer) (r : LaneRec) : LaneRec :=
  { r with
    out := r.out.filter fun j => decide (j.buffer ≠ b), credits := r.credits + 1
    state := if r.state = .printing ∧ (r.out.filter fun j => decide (j.buffer ≠ b)) = [] then .ready else r.state }

theorem leaveOut_eq (l : Lane) (b : Buffer) (s : State) : leaveOut l b s = s.onLane l (LaneRec.left b) := by
  refine State.onLane_congr ?_
  unfold LaneRec.rest LaneRec.left
  split <;> rfl

theorem left_working {r : LaneRec} (working : r.state = .ready ∨ r.state = .printing) (b : Buffer) :
    (r.left b).state = if (r.out.filter fun j => decide (j.buffer ≠ b)) = [] then .ready else r.state := by
  unfold LaneRec.left
  dsimp only
  rcases working with ready | printing
  · rw [ready, if_neg fun h => (nomatch h.1), ite_self]
  · rw [printing]
    simp only [true_and]

theorem testCashUp_lanes (w : Window) (s : State) : (testCashUp w s).lanes = s.lanes := by rw [(Desk.testCashUp w).rest]; rfl

theorem testCashUp_stock (w : Window) (s : State) : (testCashUp w s).stock = s.stock := by rw [(Desk.testCashUp w).rest]; rfl

/-- The start of a report that ends a job: the job it names, on a lane that was heard. -/
theorem heard_names {s : State} {l : Lane} {ref : Byte} {j : Job} (ack : Bool) (pins : Pins) (head : s.lanes[l].out.head? = some j)
    (mark : j.delivery = .accepted) (same : j.buffer.val = ref.toNat) :
    named (oldestAccepted (heard s l ack pins) l) ref = some j :=
  (congrArg (named · ref) (heard_oldestAccepted s l ack pins)).trans (named_oldest.2 ⟨head, mark, same⟩)

theorem upd_twice {n : Nat} {α : Type} (t : Table n α) (i : Fin n) (f g : α → α) : (t.upd i f).upd i g = t.upd i fun a => g (f a) := by
  simp [Table.upd]

theorem upd_agree {n : Nat} {α : Type} {t : Table n α} {i : Fin n} {f g : α → α} (h : f t[i] = g t[i]) : t.upd i f = t.upd i g := by
  simp only [Table.upd, h]

theorem issuedBench_lanes (l : Lane) (j : Job) (n : Nat) (s : State) :
    (issuedBench l j n s).lanes = s.lanes.upd l (LaneRec.left j.buffer) := by
  rw [issuedBench, leaveOut_eq]
  rfl

/-- The end ISSUED at the bench, the lane's head-fault mark cleared. -/
def ejectedBench (l : Lane) (j : Job) (n : Nat) (s : State) : State :=
  (issuedBench l j n s).onLink l fun k => { k with headFault := false }

theorem actEjected_eq {s : State} {l : Lane} {ref : Byte} {j : Job} {n : Nat} (names : named (oldestAccepted s l) ref = some j)
    (serial : j.serial = some n) : actEjected l ref s =
      if j.state = .sent then raiseHolding l .markMissed (testCashUp j.window (ejectedBench l j n (issuedDesk l j n s)))
      else testCashUp j.window (ejectedBench l j n (issuedDesk l j n s)) := by
  have ended : ((endIssued l j n s).onLink l fun k => { k with headFault := false }) =
      testCashUp j.window (ejectedBench l j n (issuedDesk l j n s)) := by
    rw [endIssued_eq]
    exact ((Desk.testCashUp j.window).commutes (Bench.onLink l _) _).symm
  unfold actEjected
  rw [names]
  dsimp only
  rw [serial]
  dsimp only
  rw [ended]

/-- The record of the lane on which a job was ejected. -/
def LaneRec.ejected (b : Buffer) (r : LaneRec) : LaneRec :=
  { r.left b with link := { r.link with headFault := false } }

theorem ejectedBench_lanes (l : Lane) (j : Job) (n : Nat) (s : State) :
    (ejectedBench l j n s).lanes = s.lanes.upd l (LaneRec.ejected j.buffer) := by
  rw [ejectedBench, State.onLink_lanes, issuedBench_lanes, upd_twice]
  rfl

/-- A job that leaves a working lane begins and ends no stall. -/
theorem stalled_left {r r' : LaneRec} (working : r.state = .ready ∨ r.state = .printing) (b : Buffer)
    (state : r'.state = (r.left b).state) (queue : r'.queue = r.queue) (m : Option Loaded) : laneStalled r' m = laneStalled r m := by
  have was : r.state ≠ .holding := by rcases working with h | h <;> rw [h] <;> exact LaneState.noConfusion
  have now : r'.state ≠ .holding := by
    rw [state, left_working working]
    split
    · exact LaneState.noConfusion
    · exact was
  rw [laneStalled_working was, laneStalled_working now, queue]

/-- The Flight List without the entry of one serial. -/
def withoutSerial (k : StockKind) (n : Nat) (es : List FlightEntry) : List FlightEntry :=
  es.filter fun e => !decide (e.kind = k ∧ e.serial = n)

theorem dropFlight_eq (k : StockKind) (n : Nat) (s : State) :
    dropFlight k n s = s.onOffice fun o => { o with flight := withoutSerial k n o.flight } := by
  unfold dropFlight withoutSerial
  simp only [Bool.decide_and]

/-- The end ISSUED at the bench, field by field. -/
theorem ejectedBench_eq (l : Lane) (j : Job) (n : Nat) (s : State) : ejectedBench l j n s = { s with
    stock := { s.stock with counters := s.stock.counters.upd j.kind fun c => { c with issued := c.issued + 1 } }
    issue := { s.issue with
      table := s.issue.table ++ [⟨j.kind, n, j.window, j.shift, j.tender, j.total, .issued⟩]
      reserved := s.issue.reserved - 1 }
    images := s.images.upd j.buffer (fun _ => none)
    office := { s.office with flight := withoutSerial j.kind n s.office.flight }
    lanes := s.lanes.upd l (LaneRec.ejected j.buffer) } := by
  have bench : ejectedBench l j n s = { ejectedBench l j n s with lanes := s.lanes.upd l (LaneRec.ejected j.buffer) } := by
    rw [← ejectedBench_lanes]
  rw [bench, ejectedBench, issuedBench, issuedRecords, dropFlight_eq]
  rfl

/-- What follows an end that neither begins nor ends a stall: MARK_MISSED where the job was SENT, which makes its own edge. -/
theorem markMissed_edged {l : Lane} {v t : State} (still : stalled v l = stalled t l) (sent : Prop) [Decidable sent] :
    stallEdge (stalled t l) l (if sent then raiseHolding l .markMissed v else v) =
      if sent then raiseHolding l .markMissed v else v := by
  rw [← still]
  split
  · exact raiseHolding_edged _ _ _
  · exact stallEdge_same rfl

/-- Settles O52: the end ISSUED at the bench and at the desk. -/
theorem ejectedEndsJobIssued : Obligations.EjectedEndsJobIssued := by
  intro s l ack b pins ref j n reporting working apart head mark same serial
  have wellFormed : (Report.ejected (newBit ack) ref).wellFormed = true := by
    have small : ref.toNat < 48 := same ▸ j.buffer.isLt
    simp only [Report.wellFormed, Report.inRange, Report.seq, Bool.and_eq_true, decide_eq_true_eq]
    exact ⟨small, newBit_le ack⟩
  obtain ⟨-, -, ejects, -⟩ := actWorking_apart (q := newBit ack) ((heard_repairRef s l ack pins ref).trans (repairRef_none apart))
  have does := ejects.trans (actEjected_eq (heard_names ack pins head mark same) serial)
  obtain ⟨tolled, till⟩ := issuedDesk_tolled (s := heard s l ack pins) reporting.quiet l j n
  have desk := (issuedDesk_desk l j n).rest (heard s l ack pins)
  obtain ⟨d, is⟩ : ∃ d, issuedDesk l j n (heard s l ack pins) = d := ⟨_, rfl⟩
  rw [is] at does tolled till desk
  have bench := ejectedBench_eq l j n d
  obtain ⟨u, isU⟩ : ∃ u, ejectedBench l j n d = u := ⟨_, rfl⟩
  rw [isU] at does bench
  have lanes : u.lanes = (heard s l ack pins).lanes.upd l (LaneRec.ejected j.buffer) := by rw [bench, desk]; rfl
  have lane : u.lanes[l] = (heard s l ack pins).lanes[l].ejected j.buffer := by rw [lanes, Table.upd_same]
  have heardWorking : (heard s l ack pins).lanes[l].state = .ready ∨ (heard s l ack pins).lanes[l].state = .printing := by
    rw [heard_lane]
    exact working
  have still : stalled (testCashUp j.window u) l = stalled (heard s l ack pins) l := by
    rw [stalled_eq, testCashUp_lanes, testCashUp_stock, lane]
    have mags : u.stock.mags = (heard s l ack pins).stock.mags := by rw [bench, desk]; rfl
    rw [mags]
    exact stalled_left heardWorking j.buffer rfl rfl _
  have acts := (act_working working ack pins _).trans
    ((congrArg (stallEdge (stalled (heard s l ack pins) l) l) does).trans (markMissed_edged still _))
  have shows : Tolled [issuedEntry l j n] (some (j.slot, issueAnswer s l j .issued (some n) none)) s u :=
    tolled.of_desk ⟨rfl, rfl, rfl, rfl, rfl, rfl, rfl, rfl⟩ reporting.quiet rfl rfl (by rw [bench]) (by rw [bench]) (by rw [bench])
  have drawers : u.till = s.till.upd j.window (Drawer.sold j) := by rw [bench]; exact till
  refine ⟨_, u, testCashUp j.window u, issueAnswer s l j .issued (some n) none, reporting.does wellFormed rfl acts, rfl, rfl, ?_,
    by rw [bench, desk]; rfl, by rw [bench, desk]; rfl, by rw [bench, desk]; rfl, by rw [bench, desk]; rfl, fun w other => ?_, ?_,
    fun m other => ?_, ⟨_, rfl, ?_⟩, shows.gives, rfl, fun running => ⟨shows.answered _ _ rfl running, shows.kept (.inr running)⟩,
    shows.pending _ _ rfl, fun i free => shows.slots i fun k b eq => by cases eq; exact free, shows.tags, shows.snapshot⟩
  · rw [bench, desk]
    rfl
  · rw [drawers, Table.upd_ne _ _ _ _ other]
  · rw [drawers, Table.upd_same]
    rfl
  · rw [lanes, Table.upd_ne _ _ _ _ other]
    exact State.onLane_ne _ _ other
  · rw [lane, heard_lane]
    have state := left_working (r := s.lanes[l]) working j.buffer
    rw [← state]
    rfl

end Sys2Proof.Machine
end

section
/-! A blank spoilt against its job, and the job's retry or its end SPOILT (R66, R114, R129). -/

namespace Sys2Proof.Machine

/-! ### Room for entries -/

/-- No entry waits in the overflow line, and fewer than `n` in the holding queue. -/
structure Roomy (n : Nat) (s : State) : Prop where
  line : s.journal.overflow = []
  few  : s.journal.holding.length < n

theorem Roomy.give {n : Nat} {s : State} (h : Roomy n s) (fits : n ≤ 256) (quiet : s.host.busIn = none) (b : EntryBody) :
    Roomy (n + 1) (give b s) := by
  obtain ⟨line, few⟩ := h
  by_cases now : canWriteNow s = true
  · rw [give_written quiet now]
    exact ⟨line, Nat.lt_succ_of_lt few⟩
  · rw [give_queued (Bool.eq_false_iff.2 now) ((canQueue_iff s).2 ⟨line, by omega⟩)]
    refine ⟨line, ?_⟩
    show (s.journal.holding ++ [stamp s b]).length < n + 1
    rw [List.length_append, List.length_singleton]
    omega

theorem Roomy.of_journal {n : Nat} {s t : State} (h : Roomy n s) (same : t.journal = s.journal) : Roomy n t :=
  ⟨same ▸ h.line, same ▸ h.few⟩

theorem Roomy.giveAll {n : Nat} {s : State} (h : Roomy n s) (quiet : s.host.busIn = none) :
    ∀ (bs : List EntryBody), n + bs.length ≤ 257 → Roomy (n + bs.length) (giveAll bs s) := by
  intro bs
  induction bs generalizing n s with
  | nil => exact fun _ => h
  | cons b bs ih =>
    intro fits
    rw [List.length_cons] at fits ⊢
    have next := ih (h.give (by omega) quiet b) ((give_journalled quiet b).quiet quiet) (by omega)
    rw [show n + (bs.length + 1) = n + 1 + bs.length by omega]
    exact next

/-- A test of the cash-up condition gives at most one entry. -/
theorem Roomy.testCashUp {n : Nat} {s : State} (h : Roomy n s) (fits : n ≤ 256) (quiet : s.host.busIn = none) (w : Window) :
    Roomy (n + 1) (testCashUp w s) ∧ (Machine.testCashUp w s).host.busIn = none := by
  have more : Roomy (n + 1) s := ⟨h.line, Nat.lt_succ_of_lt h.few⟩
  cases waits : s.till[w].cashUp with
  | none => rw [Machine.testCashUp]; simp only [waits]; exact ⟨more, quiet⟩
  | some p =>
    by_cases settled : s.till[w].settled = true
    · rw [testCashUp_settled quiet waits settled]
      refine ⟨Roomy.of_journal (h.give fits quiet (cashUpEntry w s.till[w] s.office.settings.tolerance p.declared)) ?_, (answered_produced _ _ _).quiet.trans ((give_journalled quiet _).quiet quiet)⟩
      have rest := (answered_produced p.slot (cashedUp s w p)
        (Machine.give (cashUpEntry w s.till[w] s.office.settings.tolerance p.declared) s)).rest
      exact (congrArg State.journal rest :)
    · rw [Machine.testCashUp]
      simp only [waits, if_neg settled]
      exact ⟨more, quiet⟩

/-! ### Spoilt serials at the desk -/

/-- The job is retried when its attempt is spoilt (R129). -/
def Job.again (j : Job) : Bool := j.retry && decide (j.attempt = 1)

/-- The job without its serial, the serials lost entered in its list (R114, R124). -/
def Job.spoiltBy (j : Job) (lost : List Nat) : Job := { j with spoilt := j.spoilt ++ lost, serial := none }

/-- The entries of serials spoilt against a job (R163). -/
def spoiltEntries (l : Lane) (j : Job) (c : SpoilCause) (lost : List Nat) : List EntryBody :=
  lost.map fun m => spoiltEntry j.kind m l (some j.window) c

/-- The drawer in which the spoilt blanks are counted (R151). -/
def Drawer.spoiltCount (lost : List Nat) (d : Drawer) : Drawer := lost.foldl (fun d _ => d.countSpoilt) d

/-- The drawer of a spoilt job, retried or ended. -/
def Drawer.spoiltBy (j : Job) (lost : List Nat) (d : Drawer) : Drawer :=
  if j.again then d.spoiltCount lost else (d.spoiltCount lost).liveDown

theorem foldl_countSpoilt (w : Window) (lost : List Nat) (s : State) :
    lost.foldl (fun s _ => s.onDrawer w Drawer.countSpoilt) s = s.onDrawer w (Drawer.spoiltCount lost) := by
  induction lost generalizing s with
  | nil =>
    have same : s.till.upd w (Drawer.spoiltCount []) = s.till := Vector.set_getElem_self _
    rw [State.onDrawer, same]
    rfl
  | cons n ns ih =>
    rw [List.foldl_cons, ih]
    exact congrArg (fun till => { s with till := till }) (upd_twice s.till w _ _)

/-- Spoilt serials counted and entered. -/
def lostDesk (l : Lane) (j : Job) (c : SpoilCause) (lost : List Nat) (s : State) : State :=
  giveAll (spoiltEntries l j c lost) (lost.foldl (fun s _ => s.onDrawer j.window Drawer.countSpoilt) s)

/-- A spoilt job at the desk: its serials counted and entered, and where it ends its live count and its answer. -/
def spoiltDesk (l : Lane) (j : Job) (c : SpoilCause) (lost : List Nat) (s : State) : State :=
  if j.again then lostDesk l j c lost s
  else answerIssue l (j.spoiltBy lost) .spoilt none none ((lostDesk l j c lost s).onDrawer j.window Drawer.liveDown)

/-- A spoilt job at the bench: out of the jobs out, and back in the queue or its reservation and buffer given back. -/
def spoiltBench (l : Lane) (j : Job) (lost : List Nat) (s : State) : State :=
  if j.again then (leaveOut l j.buffer s).onLane l fun r =>
    { r with queue := insertJob { (j.spoiltBy lost).requeue with attempt := 2 } r.queue }
  else ((leaveOut l j.buffer s).onIssue IssueController.unreserve).setImage j.buffer none

/-- The test of the cash-up condition, where the job ends. -/
def spoiltTest (j : Job) (s : State) : State := if j.again then s else testCashUp j.window s

theorem lostDesk_desk (l : Lane) (j : Job) (c : SpoilCause) (lost : List Nat) : Desk (lostDesk l j c lost) :=
  (Desk.giveAll _).comp (Desk.foldl (f := fun s (_ : Nat) => s.onDrawer j.window Drawer.countSpoilt)
    (fun _ => Desk.onDrawer j.window _) lost)

theorem spoiltDesk_desk (l : Lane) (j : Job) (c : SpoilCause) (lost : List Nat) : Desk (spoiltDesk l j c lost) := by
  cases h : j.again
  · have is : spoiltDesk l j c lost = fun s =>
        answerIssue l (j.spoiltBy lost) .spoilt none none ((lostDesk l j c lost s).onDrawer j.window Drawer.liveDown) :=
      funext fun s => by rw [spoiltDesk, h]; rfl
    rw [is]
    exact (Desk.answerIssue l _ _ _ _).comp ((Desk.onDrawer _ _).comp (lostDesk_desk l j c lost))
  · have is : spoiltDesk l j c lost = lostDesk l j c lost := funext fun s => by rw [spoiltDesk, h]; rfl
    rw [is]
    exact lostDesk_desk l j c lost

theorem spoiltBench_bench (l : Lane) (j : Job) (lost : List Nat) : Bench (spoiltBench l j lost) :=
  Bench.ite (c := fun _ => j.again = true) (fun _ _ => rfl) ((Bench.onLane l _).comp (Bench.leaveOut l _))
    ((Bench.setImage _ _).comp ((Bench.onIssue _).comp (Bench.leaveOut l _)))

theorem spoiltTest_desk (j : Job) : Desk (spoiltTest j) := by
  cases h : j.again
  · have is : spoiltTest j = testCashUp j.window := funext fun s => by rw [spoiltTest, h]; rfl
    rw [is]
    exact Desk.testCashUp _
  · have is : spoiltTest j = fun s => s := funext fun s => by rw [spoiltTest, h]; rfl
    rw [is]
    exact Desk.id

/-- The desk's part of a spoilt job may come first, but for the test of the cash-up condition. -/
theorem spoilt_eq {p : State → State} (hp : Bench p) (l : Lane) (j : Job) (c : SpoilCause) (lost : List Nat) (s : State) :
    retryOrEnd l (j.spoiltBy lost) (leaveOut l j.buffer (lostDesk l j c lost (p s))) =
      spoiltTest j (spoiltBench l j lost (p (spoiltDesk l j c lost s))) := by
  have again : (j.retry = true ∧ j.attempt = 1) ↔ j.again = true := by
    rw [Job.again, Bool.and_eq_true, decide_eq_true_eq]
  rw [(lostDesk_desk l j c lost).commutes hp]
  unfold retryOrEnd
  rw [if_congr (show (j.spoiltBy lost).retry = true ∧ (j.spoiltBy lost).attempt = 1 ↔ j.again = true from again) rfl rfl]
  cases h : j.again
  · rw [if_neg Bool.false_ne_true, spoiltTest, h, if_neg Bool.false_ne_true, spoiltBench, h, if_neg Bool.false_ne_true, spoiltDesk, h,
      if_neg Bool.false_ne_true]
    obtain ⟨d, is⟩ : ∃ d, lostDesk l j c lost s = d := ⟨_, rfl⟩
    rw [is]
    have bench : Bench fun s => (leaveOut l j.buffer (p s)).onIssue IssueController.unreserve :=
      (Bench.onIssue _).comp ((Bench.leaveOut l _).comp hp)
    have ends := ((Bench.setImage j.buffer none).comp bench)
    have down := (Desk.onDrawer j.window Drawer.liveDown).commutes bench d
    have answers := (Desk.answerIssue l (j.spoiltBy lost) .spoilt none none).commutes ends (d.onDrawer j.window Drawer.liveDown)
    unfold endSpoilt
    exact congrArg (testCashUp j.window) ((congrArg (fun t => answerIssue l (j.spoiltBy lost) .spoilt none none
      (State.setImage t j.buffer none)) down).trans answers)
  · rw [if_pos rfl, spoiltTest, h, if_pos rfl, spoiltBench, h, if_pos rfl, spoiltDesk, h, if_pos rfl]

/-- The answer of a job that ends SPOILT. -/
def spoiltAnswer (s : State) (l : Lane) (j : Job) (lost : List Nat) : Answer := issueAnswer s l (j.spoiltBy lost) .spoilt none none

theorem spoiltDesk_tolled {s : State} (quiet : s.host.busIn = none) (l : Lane) (j : Job) (c : SpoilCause) (lost : List Nat) :
    Tolled (spoiltEntries l j c lost) (if j.again then none else some (j.slot, spoiltAnswer s l j lost)) s (spoiltDesk l j c lost s) ∧
      (spoiltDesk l j c lost s).till = s.till.upd j.window (Drawer.spoiltBy j lost) := by
  have counted : lostDesk l j c lost s = giveAll (spoiltEntries l j c lost) (s.onDrawer j.window (Drawer.spoiltCount lost)) := by
    rw [lostDesk, foldl_countSpoilt]
  rw [spoiltDesk]
  cases h : j.again
  · rw [if_neg Bool.false_ne_true, if_neg Bool.false_ne_true, counted]
    have drawer : (giveAll (spoiltEntries l j c lost) (s.onDrawer j.window (Drawer.spoiltCount lost))).onDrawer j.window Drawer.liveDown =
        giveAll (spoiltEntries l j c lost) (s.onDrawer j.window (Drawer.spoiltBy j lost)) := by
      have inward : Inward fun s => s.onDrawer j.window Drawer.liveDown := fun _ _ _ _ => rfl
      have moved := giveAll_inward inward (s := s.onDrawer j.window (Drawer.spoiltCount lost)) quiet rfl rfl (spoiltEntries l j c lost)
      rw [← moved]
      refine congrArg (giveAll _) (congrArg (fun till => { s with till := till }) ((upd_twice s.till j.window _ _).trans (upd_agree ?_)))
      rw [Drawer.spoiltBy, h]
      rfl
    have journalled := giveAll_journalled (s := s.onDrawer j.window (Drawer.spoiltBy j lost)) quiet (spoiltEntries l j c lost)
    have same : spoiltAnswer s l j lost = issueAnswer (giveAll (spoiltEntries l j c lost) (s.onDrawer j.window (Drawer.spoiltBy j lost)))
        l (j.spoiltBy lost) .spoilt none none := by
      rw [spoiltAnswer, issueAnswer, issueAnswer, journalled.rest]
      rfl
    rw [drawer, answerIssue_eq (journalled.quiet quiet), ← same]
    exact ⟨tolled_onDrawer quiet _ _ _ _ _, till_answered _ _ _ _⟩
  · rw [if_pos rfl, if_pos rfl, counted]
    refine ⟨tolled_onDrawer_giveAll quiet _ _ _, (till_giveAll _ _).trans (upd_agree ?_)⟩
    rw [Drawer.spoiltBy, h]
    rfl

theorem spoiltDesk_room {s : State} {n : Nat} (h : Roomy n s) (quiet : s.host.busIn = none) (l : Lane) (j : Job) (c : SpoilCause)
    {lost : List Nat} (fits : n + lost.length ≤ 257) : Roomy (n + lost.length) (spoiltDesk l j c lost s) := by
  have counted : lostDesk l j c lost s = giveAll (spoiltEntries l j c lost) (s.onDrawer j.window (Drawer.spoiltCount lost)) := by
    rw [lostDesk, foldl_countSpoilt]
  have length : (spoiltEntries l j c lost).length = lost.length := List.length_map _
  have given := Roomy.giveAll (s := s.onDrawer j.window (Drawer.spoiltCount lost)) (h.of_journal rfl) quiet (spoiltEntries l j c lost)
    (by rw [length]; exact fits)
  rw [length] at given
  have quiet' := (giveAll_journalled (s := s.onDrawer j.window (Drawer.spoiltCount lost)) quiet (spoiltEntries l j c lost)).quiet quiet
  rw [← counted] at given quiet'
  rw [spoiltDesk]
  split
  · exact given
  · rw [answerIssue_eq (s := (lostDesk l j c lost s).onDrawer j.window Drawer.liveDown) quiet']
    refine given.of_journal ?_
    have rest := (answered_produced j.slot (issueAnswer (State.onDrawer (lostDesk l j c lost s) j.window Drawer.liveDown) l (j.spoiltBy lost)
      .spoilt none none) ((lostDesk l j c lost s).onDrawer j.window Drawer.liveDown)).rest
    exact (congrArg State.journal rest :)

/-! ### Spoilt serials at the bench -/

/-- The lane to whose queue a spoilt job returns, where it is retried (R129). -/
def LaneRec.retried (j : Job) (lost : List Nat) (r : LaneRec) : LaneRec :=
  { r with queue := if j.again then insertJob { (j.spoiltBy lost).requeue with attempt := 2 } r.queue else r.queue }

theorem spoiltBench_eq (l : Lane) (j : Job) (lost : List Nat) (s : State) : spoiltBench l j lost s = { s with
    issue := if j.again then s.issue else { s.issue with reserved := s.issue.reserved - 1 }
    images := if j.again then s.images else s.images.upd j.buffer fun _ => none
    lanes := s.lanes.upd l fun r => (r.left j.buffer).retried j lost } := by
  unfold spoiltBench LaneRec.retried
  rw [leaveOut_eq]
  cases j.again
  · rfl
  · rw [if_pos rfl, State.onLane_onLane]
    rfl

/-- The lane with one more blank spoilt (R94). -/
def LaneRec.spoiltOne (r : LaneRec) : LaneRec := r.acted fun a => { a with blanksSpoilt := min 4294967295 (a.blanksSpoilt + 1) }

theorem spoilHeld_eq (l : Lane) (k : StockKind) (n : Nat) (s : State) : spoilHeld l k n s = { s with
    stock := { s.stock with counters := s.stock.counters.upd k fun c => { c with spoilt := c.spoilt + 1 } }
    office := { s.office with flight := withoutSerial k n s.office.flight }
    lanes := s.lanes.upd l LaneRec.spoiltOne } := by
  rw [spoilHeld, dropFlight_eq]
  rfl

end Sys2Proof.Machine
end

section
/-! SPOILED (R114). -/

namespace Sys2Proof.Machine

/-- The state after a SPOILED report, before HEAD_FAULT: the desk's part first. -/
def spoiledState (l : Lane) (j : Job) (n : Nat) (s : State) : State :=
  spoiltBench l j [n] (spoilHeld l j.kind n (spoiltDesk l j .headFault [n] s))

theorem actSpoiled_eq {s : State} {l : Lane} {ref : Byte} {j : Job} {n : Nat} (names : named (oldestAccepted s l) ref = some j)
    (serial : j.serial = some n) : actSpoiled l ref s =
      if j.state = .sent then raiseHolding l .markMissed (headFault l (spoiltTest j (spoiledState l j n s)))
      else headFault l (spoiltTest j (spoiledState l j n s)) := by
  have spoilt := spoilt_eq (Bench.spoilHeld l j.kind n) l j .headFault [n] s
  unfold actSpoiled
  rw [names]
  dsimp only
  rw [serial]
  dsimp only
  rw [spoiledState, ← spoilt]
  rfl

/-- The record of the lane on which a job's blank was spoiled. -/
def LaneRec.spoiled (j : Job) (n : Nat) (r : LaneRec) : LaneRec := (r.spoiltOne.left j.buffer).retried j [n]

theorem spoiledState_eq (l : Lane) (j : Job) (n : Nat) (s d : State) (is : spoiltDesk l j .headFault [n] s = d) :
    spoiledState l j n s = { d with
      stock := { d.stock with counters := d.stock.counters.upd j.kind fun c => { c with spoilt := c.spoilt + 1 } }
      issue := if j.again then d.issue else { d.issue with reserved := d.issue.reserved - 1 }
      images := if j.again then d.images else d.images.upd j.buffer fun _ => none
      office := { d.office with flight := withoutSerial j.kind n d.office.flight }
      lanes := d.lanes.upd l (LaneRec.spoiled j n) } := by
  rw [spoiledState, is, spoiltBench_eq, spoilHeld_eq]
  dsimp only
  rw [upd_twice]
  rfl

theorem spoiled_eq {r : LaneRec} (working : r.state = .ready ∨ r.state = .printing) (j : Job) (n : Nat) : r.spoiled j n =
    { r with
      out := r.out.filter fun i => decide (i.buffer ≠ j.buffer)
      queue := if j.again then insertJob { (j.spoiltBy [n]).requeue with attempt := 2 } r.queue else r.queue
      credits := r.credits + 1
      state := if (r.out.filter fun i => decide (i.buffer ≠ j.buffer)) = [] then .ready else r.state
      act := { r.act with blanksSpoilt := min 4294967295 (r.act.blanksSpoilt + 1) } } := by
  have unparked : ∀ p, r.state ≠ .parked p := fun p => by rcases working with h | h <;> rw [h] <;> exact LaneState.noConfusion
  have acted : r.spoiltOne = { r with act := { r.act with blanksSpoilt := min 4294967295 (r.act.blanksSpoilt + 1) } } :=
    acted_unparked unparked _
  have state := left_working (r := { r with act := { r.act with blanksSpoilt := min 4294967295 (r.act.blanksSpoilt + 1) } })
    working j.buffer
  rw [LaneRec.spoiled, acted]
  dsimp only at state
  rw [← state]
  rfl

/-- HEAD_FAULT as a recovered fault sets the head-fault mark (R114). -/
theorem headFault_recovers {v : State} {l : Lane} (quiet : v.host.busIn = none) (clear : v.lanes[l].link.headFault = false)
    (free : v.faults.recs[l].deferred = none) (room : Roomy 256 v) (unparked : ∀ p, v.lanes[l].state ≠ .parked p) :
    headFault l v = { v with
        journal := (headFault l v).journal, exch := { v.exch with alerts := (headFault l v).exch.alerts }
        host := { v.host with journal := (headFault l v).host.journal }
        lanes := v.lanes.upd l fun r => { r with
          act := { r.act with faults := min 4294967295 (r.act.faults + 1) }
          link := { r.link with headFault := true } } } ∧
      Gives [.fault l .headFault true 0] v (headFault l v) := by
  have is : headFault l v = give (.fault l .headFault true 0) (v.onLane l fun r => { r with
      act := { r.act with faults := min 4294967295 (r.act.faults + 1) }, link := { r.link with headFault := true } }) := by
    have row : (v.onLink l fun k => { k with headFault := true }).lanes[l].state = v.lanes[l].state := by
      rw [State.onLink, State.onLane_same]
    rw [headFault, State.lane, clear, if_neg Bool.false_ne_true,
      raiseRecovered_eq (s := v.onLink l fun k => { k with headFault := true }) free room.line room.few,
      countFault_eq (by rw [row]; exact unparked), State.onLink, State.onLane_onLane]
    rfl
  rw [is]
  obtain ⟨journalled, gives⟩ := Gives.onLane quiet l (fun r => { r with
    act := { r.act with faults := min 4294967295 (r.act.faults + 1) }, link := { r.link with headFault := true } })
    (.fault l .headFault true 0)
  refine ⟨?_, gives⟩
  conv_lhs => rw [journalled.rest, journalled.exch, journalled.host]
  rfl

theorem headFault_holds {v : State} {l : Lane} (set : v.lanes[l].link.headFault = true) :
    headFault l v = raiseHolding l .headFault v := if_pos set

theorem spoiltTest_lanes (j : Job) (s : State) : (spoiltTest j s).lanes = s.lanes := by rw [(spoiltTest_desk j).rest]; rfl

theorem spoiltTest_faults (j : Job) (s : State) : (spoiltTest j s).faults = s.faults := by rw [(spoiltTest_desk j).rest]; rfl

theorem spoiltTest_room {s : State} {n : Nat} (h : Roomy n s) (fits : n ≤ 256) (quiet : s.host.busIn = none) (j : Job) :
    Roomy (n + 1) (spoiltTest j s) ∧ (spoiltTest j s).host.busIn = none := by
  unfold spoiltTest
  split
  · exact ⟨⟨h.line, Nat.lt_succ_of_lt h.few⟩, quiet⟩
  · exact h.testCashUp fits quiet j.window

/-- Settles O53: the spoilt job at the bench and at the desk, and the HEAD_FAULT that follows. -/
theorem spoiledRetriesOrEndsJob : Obligations.SpoiledRetriesOrEndsJob := by
  intro s l ack b pins ref j n reporting working apart head mark same serial free line few
  have wellFormed : (Report.spoiled (newBit ack) ref 1).wellFormed = true := by
    have small : ref.toNat < 48 := same ▸ j.buffer.isLt
    simp only [Report.wellFormed, Report.inRange, Report.seq, Bool.and_eq_true, decide_eq_true_eq]
    exact ⟨⟨small, by decide⟩, newBit_le ack⟩
  obtain ⟨-, -, -, spoils⟩ := actWorking_apart (q := newBit ack) ((heard_repairRef s l ack pins ref).trans (repairRef_none apart))
  have does := (spoils 1).trans (actSpoiled_eq (heard_names ack pins head mark same) serial)
  obtain ⟨tolled, till⟩ := spoiltDesk_tolled (s := heard s l ack pins) reporting.quiet l j .headFault [n]
  have desk := (spoiltDesk_desk l j .headFault [n]).rest (heard s l ack pins)
  have room := spoiltDesk_room (s := heard s l ack pins) (n := 254) ⟨line, few⟩ reporting.quiet l j .headFault (lost := [n])
    (by show 254 + 1 ≤ 257; omega)
  obtain ⟨d, is⟩ : ∃ d, spoiltDesk l j .headFault [n] (heard s l ack pins) = d := ⟨_, rfl⟩
  have bench := spoiledState_eq l j n _ d is
  rw [is] at tolled till desk room
  obtain ⟨u, isU⟩ : ∃ u, spoiledState l j n (heard s l ack pins) = u := ⟨_, rfl⟩
  rw [isU] at does bench
  have lanes : u.lanes = (heard s l ack pins).lanes.upd l (LaneRec.spoiled j n) := by rw [bench, desk]; rfl
  have lane : u.lanes[l] = (heard s l ack pins).lanes[l].spoiled j n := by rw [lanes, Table.upd_same]
  have heardWorking : (heard s l ack pins).lanes[l].state = .ready ∨ (heard s l ack pins).lanes[l].state = .printing := by
    rw [heard_lane]
    exact working
  rw [spoiled_eq heardWorking, heard_lane] at lane
  have shows : Tolled [spoiltEntry j.kind n l (some j.window) .headFault]
      (if j.again then none else some (j.slot, spoiltAnswer s l j [n])) s u :=
    tolled.of_desk ⟨rfl, rfl, rfl, rfl, rfl, rfl, rfl, rfl⟩ reporting.quiet rfl rfl (by rw [bench]) (by rw [bench]) (by rw [bench])
  have drawers : u.till = s.till.upd j.window (Drawer.spoiltBy j [n]) := by rw [bench]; exact till
  have faults : u.faults = s.faults := by rw [bench, desk]; rfl
  have roomU : Roomy 255 u := room.of_journal (by rw [bench])
  obtain ⟨roomV, quietV⟩ := spoiltTest_room roomU (by decide) shows.quiet j
  have lanesV := spoiltTest_lanes j u
  have faultsV := (spoiltTest_faults j u).trans faults
  obtain ⟨v, isV⟩ : ∃ v, spoiltTest j u = v := ⟨_, rfl⟩
  rw [isV] at does roomV quietV lanesV faultsV
  have laneV : v.lanes[l] = u.lanes[l] := by rw [lanesV]
  have markV : v.lanes[l].link.headFault = s.lanes[l].link.headFault := by rw [laneV, lane]
  have unparked : ∀ p, v.lanes[l].state ≠ .parked p := fun p => by
    rw [laneV, lane]
    dsimp only
    split
    · exact LaneState.noConfusion
    · exact working_unparked working p
  have edged := (act_working working ack pins _).trans ((congrArg (stallEdge (stalled (heard s l ack pins) l) l) does).trans
    ((congrArg (fun was => stallEdge was l _) (stalled_heard s l ack pins)).trans (stallEdged_eq l s _).symm))
  refine ⟨_, u, v, headFault l v, j.again, spoiltAnswer s l j [n], reporting.does wellFormed rfl edged, rfl, ?_,
    by rw [bench, desk]; rfl, by rw [bench, desk]; rfl, by rw [bench, desk]; rfl, by rw [bench, desk]; rfl, fun w other => ?_, ?_,
    fun m other => ?_, ⟨_, _, rfl, rfl, lane.trans ?_⟩, shows.gives, rfl, fun again => ?_, fun ends running => ?_, fun ends held => ?_,
    fun i keeps => ?_, shows.tags, shows.snapshot, isV.symm, fun clear => ?_, fun set => ?_, rfl⟩
  · rw [bench, desk]
    rfl
  · rw [drawers, Table.upd_ne _ _ _ _ other]
  · rw [drawers, Table.upd_same]
    unfold Drawer.spoiltBy
    cases j.again <;> rfl
  · rw [lanes, Table.upd_ne _ _ _ _ other]
    exact State.onLane_ne _ _ other
  · rfl
  · rw [again] at shows
    exact shows.silent rfl
  · rw [ends] at shows
    exact ⟨shows.answered _ _ rfl running, shows.kept (.inr running)⟩
  · rw [ends] at shows
    exact shows.pending _ _ rfl held
  · refine shows.slots i fun k a eq => ?_
    rcases keeps with again | held | other
    · rw [again] at eq
      exact (nomatch eq)
    · exact .inl held
    · cases h : j.again <;> rw [h] at eq
      · cases eq
        exact .inr other
      · exact (nomatch eq)
  · exact headFault_recovers quietV (markV.trans clear) (by rw [faultsV]; exact free) roomV unparked
  · exact headFault_holds (markV.trans set)

end Sys2Proof.Machine
end

section
/-! The FLUSH request, the recall of SENT jobs and the sequence repair (R17, R110, R127), each as one change of the part's
records. -/

namespace Sys2Proof.Machine

theorem Bench.rest {p : State → State} (hp : Bench p) (s : State) : p s = (p s).withDesk s := hp.desk s s

/-! ### The FLUSH request (R102, R110) -/

theorem requestFlush_eq (l : Lane) (n : Nat) (s : State) : requestFlush l n s = s.onLane l (flushLane s.office.settings n) := by
  by_cases asks : s.lanes[l].link.phase = .running ∧ s.lanes[l].link.awaited = none
  · rw [requestFlush, State.lane, if_pos asks]
    obtain ⟨u, is⟩ : ∃ u, (s.onLink l fun k => { k with waiting := some .flush, awaited := some n, flushCarried := false }) = u := ⟨_, rfl⟩
    have lane : u.lanes[l] = { s.lanes[l] with
        link := { s.lanes[l].link with waiting := some .flush, awaited := some n, flushCarried := false } } := by
      rw [← is]
      exact State.onLane_same _ _ _
    rw [is]
    by_cases idle : s.lanes[l].link.exchange = none ∧ s.lanes[l].link.repeatFrame = none
    · have between : u.lanes[l].link.between = true := (between_iff _).2 (by rw [lane]; exact ⟨asks.1, idle⟩)
      rw [pump_begins between (by rw [lane]), beginExchange, State.onLink, beginCarried_onLane, ← is, State.onLink, State.onLane_onLane]
      refine State.onLane_congr ?_
      rw [flushLane, if_pos asks, if_pos idle]
      rfl
    · have apart : ¬ (u.lane l).link.between = true := fun h => by
        obtain ⟨-, exchange, frame⟩ := (between_iff _).1 h
        rw [State.lane, lane] at exchange frame
        exact idle ⟨exchange, frame⟩
      rw [pump, if_neg apart, ← is]
      refine State.onLane_congr ?_
      rw [flushLane, if_pos asks, if_neg idle]
  · rw [requestFlush, State.lane, if_neg asks]
    refine (State.onLane_id ?_).symm
    rw [flushLane, if_neg asks]

/-! ### The withdrawal of serials (R17) -/

/-- The Flight List without the entries of several serials. -/
def withoutSerials (set : List (StockKind × Nat)) (es : List FlightEntry) : List FlightEntry :=
  es.filter fun e => !decide ((e.kind, e.serial) ∈ set)

theorem foldl_dropFlight (set : List (StockKind × Nat)) (s : State) : set.foldl (fun s p => dropFlight p.1 p.2 s) s =
    s.onOffice fun o => { o with flight := withoutSerials set o.flight } := by
  induction set generalizing s with
  | nil =>
    have all : withoutSerials [] s.office.flight = s.office.flight := List.filter_eq_self.2 fun e _ => by simp
    rw [List.foldl_nil, State.onOffice, all]
  | cons p set ih =>
    rw [List.foldl_cons, ih, dropFlight_eq]
    have step : withoutSerials set (withoutSerial p.1 p.2 s.office.flight) = withoutSerials (p :: set) s.office.flight := by
      rw [withoutSerials, withoutSerial, withoutSerials, List.filter_filter]
      refine List.filter_congr fun e _ => ?_
      rw [Bool.eq_iff_iff]
      simp only [Bool.and_eq_true, Bool.not_eq_true', decide_eq_false_iff_not, List.mem_cons, Prod.ext_iff]
      exact ⟨fun h c => c.elim h.2 h.1, fun h => ⟨fun c => h (.inr c), fun c => h (.inl c)⟩⟩
    exact congrArg (fun f => { s with office := { s.office with flight := f } }) step

/-- The magazine with its next serial lowered to the lowest of the serials withdrawn. -/
def Loaded.lowered (ns : List Nat) (m : Loaded) : Loaded := { m with next := ns.min?.getD m.next }

theorem withdraw_eq (l : Lane) (set : List (StockKind × Nat)) (s : State) : withdraw l set s = { s with
    stock := { s.stock with mags := s.stock.mags.upd l (Option.map (Loaded.lowered (set.map Prod.snd))) }
    office := { s.office with flight := withoutSerials set s.office.flight } } := by
  have unmoved : ∀ f : Option Loaded → Option Loaded, f s.stock.mags[l] = s.stock.mags[l] → s.stock.mags.upd l f = s.stock.mags :=
    fun f h => by rw [Table.upd, h]; exact Vector.set_getElem_self _
  unfold withdraw
  dsimp only
  rw [foldl_dropFlight]
  rw [show (s.onOffice fun o => { o with flight := withoutSerials set o.flight }).mag l = s.stock.mags[l] from rfl]
  rcases set with _ | ⟨p, ps⟩
  · dsimp only
    rw [unmoved _ (by cases s.stock.mags[l] <;> rfl)]
    rfl
  · cases mag : s.stock.mags[l] with
    | none =>
      dsimp only
      rw [unmoved _ (by rw [mag]; rfl)]
      rfl
    | some m =>
      have low : ps.foldl (fun a q => min a q.2) p.2 = ((p :: ps).map Prod.snd).min?.getD m.next := by
        rw [List.map_cons, List.min?_cons', Option.getD_some, List.foldl_map]
      dsimp only
      rw [low]
      refine congrArg (fun mags => { s with
        stock := { s.stock with mags := mags }
        office := { s.office with flight := withoutSerials (p :: ps) s.office.flight } }) (upd_agree ?_)
      show _ = Option.map _ s.stock.mags[l]
      rw [mag]
      rfl

/-! ### The recall of SENT jobs (R127) -/

/-- The serials that jobs hold. -/
def serialsOf (js : List Job) : List (StockKind × Nat) := js.filterMap fun j => j.serial.map fun n => (j.kind, n)

/-- The SENT jobs of a lane's record, oldest first. -/
def LaneRec.sentJobs (r : LaneRec) : List Job := r.out.filter fun j => decide (j.state = .sent)

/-- The lane whose SENT jobs have returned to the queue (R127). -/
def LaneRec.recalled (r : LaneRec) : LaneRec :=
  { r with
    out := r.out.filter fun j => decide (j.state ≠ .sent), credits := r.credits + r.sentJobs.length
    queue := r.sentJobs.foldl (fun q j => insertJob j.requeue q) r.queue }

theorem recallSent_eq (l : Lane) (s : State) : recallSent l s = { s with
    stock := { s.stock with
      mags := s.stock.mags.upd l (Option.map (Loaded.lowered ((serialsOf s.lanes[l].sentJobs).map Prod.snd))) }
    office := { s.office with flight := withoutSerials (serialsOf s.lanes[l].sentJobs) s.office.flight }
    lanes := s.lanes.upd l LaneRec.recalled } := by
  have recalled := withdraw_eq l (serialsOf s.lanes[l].sentJobs) s
  unfold recallSent
  dsimp only
  rw [show withdraw l ((Machine.sentJobs s l).filterMap fun j => j.serial.map fun n => (j.kind, n)) s = _ from recalled]
  exact State.onLane_congr (s := { s with
    stock := { s.stock with
      mags := s.stock.mags.upd l (Option.map (Loaded.lowered ((serialsOf s.lanes[l].sentJobs).map Prod.snd))) }
    office := { s.office with flight := withoutSerials (serialsOf s.lanes[l].sentJobs) s.office.flight } }) rfl

/-! ### The sequence repair (R127) -/

/-- The lane after a sequence repair, its jobs recalled and a FLUSH awaited. -/
def LaneRec.repaired (st : Settings) (also : List Buffer) (r : LaneRec) : LaneRec :=
  ({ flushLane st (flushLimit r.sentJobs) r.recalled with
    repairRefs := r.repairRefs ++ also ++ r.sentJobs.map Job.buffer } : LaneRec).rest

theorem flushLane_link (st : Settings) (n : Nat) (r : LaneRec) : flushLane st n r = { r with link := (flushLane st n r).link } := by
  unfold flushLane
  split <;> rfl

theorem sequenceRepair_eq (l : Lane) (also : List Buffer) (s : State) : sequenceRepair l also s = { s with
    stock := { s.stock with
      mags := s.stock.mags.upd l (Option.map (Loaded.lowered ((serialsOf s.lanes[l].sentJobs).map Prod.snd))) }
    office := { s.office with flight := withoutSerials (serialsOf s.lanes[l].sentJobs) s.office.flight }
    lanes := s.lanes.upd l (LaneRec.repaired s.office.settings also) } := by
  unfold sequenceRepair
  dsimp only
  rw [recallSent_eq, requestFlush_eq, State.onLane_onLane]
  dsimp only [State.onLane]
  rw [upd_twice]
  refine congrArg (fun lanes => { s with
    stock := { s.stock with
      mags := s.stock.mags.upd l (Option.map (Loaded.lowered ((serialsOf s.lanes[l].sentJobs).map Prod.snd))) }
    office := { s.office with flight := withoutSerials (serialsOf s.lanes[l].sentJobs) s.office.flight }
    lanes := lanes }) (upd_agree ?_)
  have refs : (flushLane s.office.settings (flushLimit s.lanes[l].sentJobs) s.lanes[l].recalled).repairRefs = s.lanes[l].repairRefs := by
    rw [flushLane_link]
    rfl
  rw [LaneRec.repaired, ← refs]
  rfl

end Sys2Proof.Machine
end

section
/-! A mark that no job awaits (R125). -/

namespace Sys2Proof.Machine

/-- The blank that an unexpected feed takes, if any (R125). -/
def lostNext (m : Option Loaded) : List Loaded :=
  match m with
  | none => []
  | some m => if m.next ≤ m.last then [m] else []

/-- The entries of an unexpected feed on a READY or PRINTING lane (R125). -/
def unexpectedEntries (l : Lane) (lost : List Loaded) : List EntryBody :=
  lost.map (fun m => .spoilt m.kind m.next m.next 1 l none .unexpectedFeed) ++ [.fault l .unexpectedFeed true 0]

/-- An unexpected feed at the bench. -/
def unexpectedBench (l : Lane) (s : State) : State := countFault l (sequenceRepair l [] (spoilNext l (countFed l 1 s)))

theorem Bench.spoilNext (l : Lane) : Bench (spoilNext l) := by
  refine ⟨fun s t => ?_, fun s => ?_⟩
  · unfold Machine.spoilNext
    rw [show (s.withDesk t).mag l = s.mag l from rfl]
    split
    · rfl
    next m _ =>
      split
      · exact ((Bench.countSpoilt l m.kind).comp (Bench.setMag l (some m.consume))).desk s t
      · rfl
  · unfold Machine.spoilNext
    split
    · exact SameHour.refl s
    next m _ =>
      split
      · exact ((Bench.countSpoilt l m.kind).comp (Bench.setMag l (some m.consume))).hour s
      · exact SameHour.refl s

theorem Bench.repairs (l : Lane) : Bench fun s => Machine.countFault l (Machine.sequenceRepair l [] s) :=
  (Bench.onAct l _).comp (Bench.sequenceRepair l [])

theorem spoilNext_spent {s : State} {l : Lane} (spent : lostNext s.stock.mags[l] = []) : spoilNext l s = s := by
  unfold spoilNext
  rw [State.mag]
  cases mag : s.stock.mags[l] with
  | none => rfl
  | some m =>
    rw [mag, lostNext] at spent
    dsimp only at spent ⊢
    split at spent
    · cases spent
    next none => exact if_neg none

theorem sequenceRepair_faults (l : Lane) (also : List Buffer) (s : State) : (sequenceRepair l also s).faults = s.faults := by
  rw [sequenceRepair_eq]

/-- The entries of an unexpected feed may be given before its effects at the bench. -/
theorem unexpectedFeed_eq {s : State} {l : Lane} (quiet : s.host.busIn = none) (free : s.faults.recs[l].deferred = none)
    (room : Roomy 255 s) : unexpectedFeed l s = unexpectedBench l (giveAll (unexpectedEntries l (lostNext s.stock.mags[l])) s) := by
  have recovers : ∀ u : State, u.faults = s.faults → Roomy 256 u →
      raiseRecovered l .unexpectedFeed (sequenceRepair l [] u) =
        countFault l (sequenceRepair l [] (give (.fault l .unexpectedFeed true 0) u)) := fun u faults room => by
    have free' : (sequenceRepair l [] u).faults.recs[l].deferred = none := by rw [sequenceRepair_faults, faults]; exact free
    have same : (sequenceRepair l [] u).journal = u.journal := by rw [(Bench.sequenceRepair l []).rest]; rfl
    have room' := room.of_journal same
    rw [raiseRecovered_eq free' room'.line room'.few]
    exact (Desk.give _).commutes (Bench.repairs l) u
  have fed : (countFed l 1 s).faults = s.faults := rfl
  have mags : (countFed l 1 s).mag l = s.stock.mags[l] := rfl
  unfold unexpectedFeed
  dsimp only
  rw [mags]
  cases lost : lostNext s.stock.mags[l] with
  | nil =>
    have spent : nextSerial s.stock.mags[l] = none := by
      unfold lostNext at lost
      unfold nextSerial
      cases mag : s.stock.mags[l] with
      | none => rfl
      | some m =>
        rw [mag] at lost
        dsimp only at lost ⊢
        split at lost
        · cases lost
        next none => exact if_neg none
    have unspoilt : spoilNext l (countFed l 1 (give (.fault l .unexpectedFeed true 0) s)) =
        countFed l 1 (give (.fault l .unexpectedFeed true 0) s) := by
      refine spoilNext_spent ?_
      have same : (countFed l 1 (give (.fault l .unexpectedFeed true 0) s)).stock = s.stock := by
        rw [countFed, onAct_eq, give_rest]
        rfl
      rw [same]
      exact lost
    rw [spent]
    dsimp only
    rw [recovers _ fed ⟨room.line, Nat.lt_succ_of_lt room.few⟩]
    show _ = unexpectedBench l (give (.fault l .unexpectedFeed true 0) s)
    rw [unexpectedBench, unspoilt]
    exact congrArg (fun u => countFault l (sequenceRepair l [] u)) ((Desk.give _).commutes (Bench.onAct l _) s)
  | cons m ms =>
    have next : nextSerial s.stock.mags[l] = some (m.kind, m.next) ∧ ms = [] := by
      unfold lostNext at lost
      unfold nextSerial
      cases mag : s.stock.mags[l] with
      | none =>
        rw [mag] at lost
        cases lost
      | some g =>
        rw [mag] at lost
        dsimp only at lost ⊢
        split at lost
        next stocked =>
          cases lost
          exact ⟨if_pos stocked, rfl⟩
        · cases lost
    have bench : Bench fun s => spoilNext l (countFed l 1 s) := (Bench.spoilNext l).comp (Bench.onAct l _)
    have desk : Desk fun s => give (.fault l .unexpectedFeed true 0) (give (spoiltEntry m.kind m.next l none .unexpectedFeed) s) :=
      (Desk.give _).comp (Desk.give _)
    have spoiltFaults : (give (spoiltEntry m.kind m.next l none .unexpectedFeed) (spoilNext l (countFed l 1 s))).faults = s.faults := by
      rw [give_rest]
      show (spoilNext l (countFed l 1 s)).faults = s.faults
      unfold spoilNext
      split
      · rfl
      · split <;> rfl
    have journal : (spoilNext l (countFed l 1 s)).journal = s.journal := by rw [bench.rest]; rfl
    have host : (spoilNext l (countFed l 1 s)).host = s.host := by rw [bench.rest]; rfl
    have roomAfter := (room.of_journal journal).give (by decide) (by rw [host]; exact quiet)
      (spoiltEntry m.kind m.next l none .unexpectedFeed)
    rw [next.1, next.2]
    dsimp only
    rw [recovers _ spoiltFaults roomAfter]
    exact congrArg (fun u => countFault l (sequenceRepair l [] u)) (desk.commutes bench s)

/-- The lane after an unexpected feed with no job SENT. -/
def LaneRec.unexpected (st : Settings) (lost : List Loaded) (r : LaneRec) : LaneRec :=
  flushLane st 0 { r with
    act := { r.act with
      blanksFed := min 4294967295 (r.act.blanksFed + 1)
      blanksSpoilt := if lost = [] then r.act.blanksSpoilt else min 4294967295 (r.act.blanksSpoilt + 1)
      faults := min 4294967295 (r.act.faults + 1) }
    state := if r.out = [] then .ready else r.state }

/-- The stock after an unexpected feed. -/
def StockRegister.unexpected (r : StockRegister) (l : Lane) (lost : List Loaded) : StockRegister :=
  match lost with
  | [] => r
  | m :: _ => { r with
      mags := r.mags.upd l fun _ => some { m with next := m.next + 1 }
      counters := r.counters.upd m.kind fun c => { c with spoilt := c.spoilt + 1 } }

/-- The FLUSH of a lane depends on its engine and on the levels of its input lines alone. -/
theorem flushLane_of {r r' : LaneRec} (link : r'.link = r.link) (pins : r'.pins = r.pins) (st : Settings) (n : Nat) :
    flushLane st n r' = { r' with link := (flushLane st n r).link } := by
  have same : (flushLane st n r').link = (flushLane st n r).link := by
    unfold flushLane
    rw [link, pins]
    split
    · rfl
    · exact link
  rw [← same]
  exact flushLane_link st n r'

/-- A READY or PRINTING lane after a sequence repair. -/
theorem repaired_working {r : LaneRec} (working : r.state = .ready ∨ r.state = .printing) (st : Settings) (also : List Buffer) :
    r.repaired st also = flushLane st (flushLimit r.sentJobs) { r.recalled with
      repairRefs := r.repairRefs ++ also ++ r.sentJobs.map Job.buffer
      state := if r.recalled.out = [] then .ready else r.state } := by
  have state : r.recalled.state = r.state := rfl
  rw [LaneRec.repaired, flushLane_of (r := r) (r' := r.recalled) rfl rfl, flushLane_of (r := r)
    (r' := { r.recalled with
      repairRefs := r.repairRefs ++ also ++ r.sentJobs.map Job.buffer
      state := if r.recalled.out = [] then .ready else r.state }) rfl rfl, LaneRec.rest]
  dsimp only
  rw [state]
  rcases working with ready | printing
  · rw [if_neg fun h => by rw [ready] at h; exact (nomatch h.1), ready, ite_self]
  · by_cases none : r.recalled.out = []
    · rw [if_pos ⟨printing, none⟩, if_pos none]
    · rw [if_neg fun h => none h.2, if_neg none]

theorem flushLane_acted {r : LaneRec} (unparked : ∀ p, r.state ≠ .parked p) (st : Settings) (n : Nat) (f : Activity → Activity) :
    (flushLane st n r).acted f = flushLane st n { r with act := f r.act } := by
  rw [flushLane_of (r := r) (r' := { r with act := f r.act }) rfl rfl, flushLane_link]
  exact acted_unparked (r := { r with link := (flushLane st n r).link }) unparked f

theorem rested_unparked {r : LaneRec} (working : r.state = .ready ∨ r.state = .printing) {c : Prop} [Decidable c] (p : ParkReason) :
    (if c then LaneState.ready else r.state) ≠ .parked p := by
  split
  · exact LaneState.noConfusion
  · rcases working with h | h <;> rw [h] <;> exact LaneState.noConfusion

/-- A READY or PRINTING lane with no job SENT, after a sequence repair and one more fault. -/
theorem repaired_unsent {r : LaneRec} (working : r.state = .ready ∨ r.state = .printing) (unsent : r.sentJobs = []) (st : Settings) :
    (r.repaired st []).acted (fun a => { a with faults := min 4294967295 (a.faults + 1) }) = flushLane st 0 { r with
      act := { r.act with faults := min 4294967295 (r.act.faults + 1) }
      state := if r.out = [] then .ready else r.state } := by
  have out : (r.out.filter fun j => decide (j.state ≠ .sent)) = r.out := List.filter_eq_self.2 fun j mem => by
    have := List.filter_eq_nil_iff.1 unsent j mem
    simpa using this
  have recalled : r.recalled = r := by
    rw [LaneRec.recalled, out, unsent]
    rfl
  rw [repaired_working working, recalled, unsent, flushLane_acted (fun p => rested_unparked working p)]
  simp only [List.map_nil, List.append_nil]
  rfl

theorem onAct_unparked {l : Lane} {s : State} (unparked : ∀ p, s.lanes[l].state ≠ .parked p) (f : Activity → Activity) :
    s.onAct l f = s.onLane l fun r => { r with act := f r.act } :=
  (onAct_eq s l f).trans (State.onLane_congr (acted_unparked unparked f))

theorem countFed_eq {l : Lane} {s : State} (unparked : ∀ p, s.lanes[l].state ≠ .parked p) (n : Nat) : countFed l n s =
    s.onLane l fun r => { r with act := { r.act with blanksFed := min 4294967295 (r.act.blanksFed + n) } } :=
  onAct_unparked unparked fun a => { a with blanksFed := satAdd Config.max32 a.blanksFed n }

/-- The lane with its blanks counted. -/
def LaneRec.fedOne (lost : List Loaded) (r : LaneRec) : LaneRec :=
  { r with act := { r.act with
    blanksFed := min 4294967295 (r.act.blanksFed + 1)
    blanksSpoilt := if lost = [] then r.act.blanksSpoilt else min 4294967295 (r.act.blanksSpoilt + 1) } }

theorem fedOne_eq {s : State} {l : Lane} (working : Working s l) {lost : List Loaded} (is : lostNext s.stock.mags[l] = lost) :
    spoilNext l (countFed l 1 s) =
      { s with stock := s.stock.unexpected l lost, lanes := s.lanes.upd l (LaneRec.fedOne lost) } := by
  have unparked : ∀ p, s.lanes[l].state ≠ .parked p := working_unparked working
  rw [countFed_eq unparked]
  unfold spoilNext
  rw [State.mag, State.onLane_stock]
  subst is
  cases mag : s.stock.mags[l] with
  | none => rfl
  | some m =>
    dsimp only [lostNext]
    by_cases stocked : m.next ≤ m.last
    · rw [if_pos stocked, if_pos stocked, countSpoilt, onAct_eq]
      have acted : LaneRec.acted (fun a => { a with blanksSpoilt := satAdd Config.max32 a.blanksSpoilt 1 }) ({ s.lanes[l] with
          act := { s.lanes[l].act with blanksFed := min 4294967295 (s.lanes[l].act.blanksFed + 1) } }) = LaneRec.fedOne [m] s.lanes[l] :=
        acted_unparked (r := { s.lanes[l] with
          act := { s.lanes[l].act with blanksFed := min 4294967295 (s.lanes[l].act.blanksFed + 1) } }) unparked _
      refine congrArg (fun lanes => { s with stock := s.stock.unexpected l [m], lanes := lanes })
        (Eq.trans (upd_twice s.lanes l _ _) (?_ : _ = s.lanes.upd l (LaneRec.fedOne [m])))
      exact upd_agree acted
    · rw [if_neg stocked, if_neg stocked]
      rfl

theorem unexpectedBench_eq {s : State} {l : Lane} (working : Working s l) (unsent : s.lanes[l].sentJobs = []) {lost : List Loaded}
    (is : lostNext s.stock.mags[l] = lost) : unexpectedBench l s = { s with
      stock := s.stock.unexpected l lost, lanes := s.lanes.upd l (LaneRec.unexpected s.office.settings lost) } := by
  have unmoved : ∀ f : Option Loaded → Option Loaded, (∀ m, f m = m) → ∀ t : Table 8 (Option Loaded), t.upd l f = t := fun f h t => by
    rw [Table.upd, h]; exact Vector.set_getElem_self _
  have kept : ∀ es : List FlightEntry, withoutSerials [] es = es := fun es => List.filter_eq_self.2 fun e _ => by simp
  rw [unexpectedBench, fedOne_eq working is, sequenceRepair_eq]
  obtain ⟨stock, isStock⟩ : ∃ r, s.stock.unexpected l lost = r := ⟨_, rfl⟩
  rw [isStock]
  dsimp only
  rw [Table.upd_same, show (LaneRec.fedOne lost s.lanes[l]).sentJobs = [] from unsent, show serialsOf [] = [] from rfl, kept, List.map_nil,
    unmoved (Option.map (Loaded.lowered [])) (fun m => by cases m <;> rfl), upd_twice, countFault, onAct_eq]
  refine (congrArg (fun lanes => { s with stock := stock, lanes := lanes }) ((upd_twice s.lanes l _ _).trans (upd_agree ?_)) :)
  exact repaired_unsent (r := LaneRec.fedOne lost s.lanes[l]) working unsent s.office.settings

end Sys2Proof.Machine
end

section
/-! Settling UnexpectedMark (R125). -/

namespace Sys2Proof.Machine

/-- A mark on a STARTING or HOLDING lane is an unexpected feed that takes no serial (R125). -/
theorem markEdge_between {s : State} {l : Lane} (up : s.office.startUp = none)
    (between : s.lanes[l].state = .starting ∨ s.lanes[l].state = .holding) (pins : Pins) :
    markEdge l (setPins l pins s) = raiseRecovered l .unexpectedFeed (countFed l 1 (s.onLane l (LaneRec.captured pins))) := by
  have lane : (setPins l pins s).lanes[l] = { s.lanes[l] with pins := pins } := State.onLane_same _ _ _
  have on : feedOn (setPins l pins s) l = true := by
    rw [feedOn_iff, lane]
    exact ⟨up, between.elim .inl fun h => .inr (.inl h)⟩
  have captured : (setPins l pins s).onFeed l FeedMonitor.capture = s.onLane l (LaneRec.captured pins) := by
    rw [State.onFeed, setPins, State.onLane_onLane]
    rfl
  unfold markEdge
  dsimp only
  rw [if_pos on, State.lane, lane, captured]
  rcases between with h | h <;> rw [h]

/-- A mark on a READY or PRINTING lane with no job SENT. -/
theorem exec_unexpected {s : State} {l : Lane} (pins : Pins) (quiet : s.host.busIn = none) (up : s.office.startUp = none)
    (free : s.faults.recs[l].deferred = none) (room : Roomy 255 s) (working : Working s l) (unsent : ∀ j ∈ s.lanes[l].out, j.state ≠ .sent)
    {d : State} (is : giveAll (unexpectedEntries l (lostNext s.stock.mags[l])) (s.onLane l (LaneRec.captured pins)) = d) :
    exec (.mark l ⟨pins, none⟩) s = .next (stallEdged l s { d with
      stock := d.stock.unexpected l (lostNext s.stock.mags[l])
      lanes := d.lanes.upd l (LaneRec.unexpected d.office.settings (lostNext s.stock.mags[l])) }) := by
  have journalled := giveAll_journalled (s := s.onLane l (LaneRec.captured pins)) quiet
    (unexpectedEntries l (lostNext s.stock.mags[l]))
  have lane : (s.onLane l (LaneRec.captured pins)).lanes[l] = s.lanes[l].captured pins := State.onLane_same _ _ _
  have awaits : awaitingMark (s.onLane l (LaneRec.captured pins)) l = none := by
    rw [awaitingMark, State.lane, lane]
    exact List.find?_eq_none.2 fun j mem => by rw [decide_eq_true_eq]; exact unsent j mem
  have feeds := unexpectedFeed_eq (s := s.onLane l (LaneRec.captured pins)) (l := l) quiet free (room.of_journal rfl)
  rw [show (s.onLane l (LaneRec.captured pins)).stock.mags[l] = s.stock.mags[l] from rfl, is] at feeds
  rw [is] at journalled
  have row : d.lanes[l] = s.lanes[l].captured pins := by rw [journalled.rest]; exact lane
  have bench := unexpectedBench_eq (s := d) (l := l) (by rw [Working, row]; exact working)
    (by rw [row]; exact List.filter_eq_nil_iff.2 fun j mem => by rw [decide_eq_true_eq]; exact unsent j mem)
    (show lostNext d.stock.mags[l] = lostNext s.stock.mags[l] by rw [journalled.rest]; rfl)
  rw [exec_mark quiet, markEdge_working up working, withStall, markWorking, awaits, stalled_onLane s l rfl rfl, stallEdged_eq]
  exact congrArg (fun t => Host.Outcome.next (stallEdge (stalled s l) l t)) (feeds.trans bench)

/-- What giving entries leaves, after a change of one lane's record. -/
theorem Journalled.onLane {s t : State} {l : Lane} {f : LaneRec → LaneRec} (h : Journalled (s.onLane l f) t) :
    t = { s with
      lanes := t.lanes, journal := t.journal, exch := { s.exch with alerts := t.exch.alerts }
      host := { s.host with journal := t.host.journal } } ∧ t.lanes = s.lanes.upd l f := by
  have lanes : t.lanes = s.lanes.upd l f := by rw [h.rest]; rfl
  refine ⟨?_, lanes⟩
  rw [lanes]
  conv_lhs => rw [h.rest, h.exch, h.host]
  rfl

/-- Settles O59: the recovered fault alone, or with the sequence repair that takes the next serial. -/
theorem unexpectedMark : Obligations.UnexpectedMark := by
  refine ⟨fun s l pins quiet idle => ?_, fun s l pins quiet up free line few => ⟨fun between => ?_, fun working unsent => ?_⟩⟩
  · have lane : (setPins l pins s).lanes[l].state = s.lanes[l].state := by rw [setPins, State.onLane_same]
    have off : feedOn (setPins l pins s) l = false := not_feedOn (by rw [lane]; exact idle)
    rw [exec_mark quiet, markEdge, off]
    rfl
  · have unparked : ∀ p, (s.onLane l (LaneRec.captured pins)).lanes[l].state ≠ .parked p := fun p => by
      rw [State.onLane_same]
      show s.lanes[l].state ≠ _
      rcases between with h | h <;> rw [h] <;> exact LaneState.noConfusion
    have counted : countFault l (countFed l 1 (s.onLane l (LaneRec.captured pins))) = s.onLane l fun r => { r with
        pins := pins
        feed := { r.feed with last := some r.feed.counter, since := 0 }
        act := { r.act with
          blanksFed := min 4294967295 (r.act.blanksFed + 1), faults := min 4294967295 (r.act.faults + 1) } } := by
      rw [countFed_eq unparked, countFault_eq (by rw [State.onLane_same]; exact unparked), State.onLane_onLane, State.onLane_onLane]
      rfl
    have is : markEdge l (setPins l pins s) = give (.fault l .unexpectedFeed true 0) (s.onLane l fun r => { r with
        pins := pins
        feed := { r.feed with last := some r.feed.counter, since := 0 }
        act := { r.act with
          blanksFed := min 4294967295 (r.act.blanksFed + 1), faults := min 4294967295 (r.act.faults + 1) } }) := by
      rw [markEdge_between up between, raiseRecovered_eq (s := countFed l 1 (s.onLane l (LaneRec.captured pins))) free line
        (Nat.lt_succ_of_lt few), counted]
    obtain ⟨journalled, gives⟩ := Gives.onLane quiet l (fun r => { r with
        pins := pins
        feed := { r.feed with last := some r.feed.counter, since := 0 }
        act := { r.act with
          blanksFed := min 4294967295 (r.act.blanksFed + 1), faults := min 4294967295 (r.act.faults + 1) } })
      (.fault l .unexpectedFeed true 0)
    refine ⟨_, (exec_mark quiet pins).trans (congrArg Host.Outcome.next is), journalled.onLane.1, journalled.onLane.2, gives⟩
  · have tolled := (tolled_giveAll (s := s.onLane l (LaneRec.captured pins)) quiet (unexpectedEntries l (lostNext s.stock.mags[l]))).gives
    have journalled := giveAll_journalled (s := s.onLane l (LaneRec.captured pins)) quiet
      (unexpectedEntries l (lostNext s.stock.mags[l]))
    obtain ⟨d, is⟩ : ∃ d, giveAll (unexpectedEntries l (lostNext s.stock.mags[l])) (s.onLane l (LaneRec.captured pins)) = d := ⟨_, rfl⟩
    have does := exec_unexpected pins quiet up free ⟨line, few⟩ working unsent is
    rw [is] at tolled journalled
    have stock : d.stock = s.stock := by rw [journalled.rest]; rfl
    have office : d.office = s.office := by rw [journalled.rest]; rfl
    rw [stock, office] at does
    refine ⟨_, lostNext s.stock.mags[l], does, ?_, ?_, ?_, ?_, ?_⟩
    · unfold lostNext
      cases s.stock.mags[l] <;> rfl
    · conv_lhs => rw [journalled.onLane.1]
      rfl
    · show s.stock.unexpected l (lostNext s.stock.mags[l]) = _
      unfold StockRegister.unexpected
      cases lostNext s.stock.mags[l] <;> rfl
    · rw [journalled.onLane.2, upd_twice]
      rfl
    · exact Gives.of_same (u := s.onLane l (LaneRec.captured pins)) ⟨rfl, rfl, rfl, rfl, rfl, rfl, rfl, rfl⟩ quiet quiet tolled.journal
        tolled.ring tolled.alerts

end Sys2Proof.Machine
end

section
/-! Jobs that return to the queue (R85), and a double feed at the bench (R124). -/

namespace Sys2Proof.Machine

/-! ### The order of the queue (R85) -/

/-- The two jobs have different join numbers, and the first joined first (R85). -/
def JoinedBefore (x y : Job) : Prop := x.joinNo ≠ y.joinNo ∧ x.joined y = true

theorem JoinedBefore.not_joined {x y : Job} (h : JoinedBefore x y) : y.joined x = false := by
  obtain ⟨apart, before⟩ := h
  rw [Job.joined, decide_eq_true_eq] at before
  rw [Job.joined, decide_eq_false_iff_not]
  have ne : x.joinNo.toNat ≠ y.joinNo.toNat := fun e => apart (BitVec.eq_of_toNat_eq e)
  have hx := x.joinNo.isLt
  have hy := y.joinNo.isLt
  rw [BitVec.toNat_sub] at before ⊢
  omega

/-- A job joins behind those that joined before it and before those that joined after it. -/
theorem insertJob_between {j : Job} {before after : List Job} (behind : ∀ x ∈ before, j.joined x = false)
    (ahead : ∀ x ∈ after, j.joined x = true) : insertJob j (before ++ after) = before ++ j :: after := by
  induction before with
  | nil =>
    cases after with
    | nil => rfl
    | cons x xs => exact if_pos (ahead x List.mem_cons_self)
  | cons x xs ih =>
    have later := ih fun y mem => behind y (List.mem_cons_of_mem _ mem)
    show (if j.joined x then _ else x :: insertJob j (xs ++ after)) = _
    rw [behind x List.mem_cons_self, if_neg Bool.false_ne_true, later]
    rfl

/-- Jobs that return to the queue stand at its front in the order in which they joined (R85, R127). -/
theorem foldl_insertJob {js before after : List Job} {f : Job → Job} (same : ∀ j, (f j).joinNo = j.joinNo)
    (ordered : (before ++ js ++ after).Pairwise JoinedBefore) :
    js.foldl (fun q j => insertJob (f j) q) (before.map f ++ after) = (before ++ js).map f ++ after := by
  have joined : ∀ x y, (f x).joined y = x.joined y ∧ y.joined (f x) = y.joined x := fun x y => by
    simp only [Job.joined, same, and_self]
  induction js generalizing before with
  | nil => rw [List.foldl_nil, List.append_nil]
  | cons j js ih =>
    have apart : (before ++ [j] ++ (js ++ after)).Pairwise JoinedBefore := by simpa using ordered
    obtain ⟨first, -, -⟩ := List.pairwise_append.1 apart
    obtain ⟨-, -, behind⟩ := List.pairwise_append.1 first
    have ahead : ∀ x ∈ after, JoinedBefore j x := fun x mem =>
      (List.pairwise_append.1 apart).2.2 j (List.mem_append_right _ List.mem_cons_self) x (List.mem_append_right _ mem)
    have placed : insertJob (f j) (before.map f ++ after) = (before ++ [j]).map f ++ after := by
      rw [insertJob_between]
      · simp
      · intro x mem
        obtain ⟨y, inBefore, rfl⟩ := List.mem_map.1 mem
        rw [(joined j _).1, (joined y j).2]
        exact (behind y inBefore j List.mem_cons_self).not_joined
      · intro x mem
        rw [(joined j x).1]
        exact (ahead x mem).2
    rw [List.foldl_cons, placed, ih (by simpa using ordered)]
    simp

theorem requeue_joinNo (j : Job) : j.requeue.joinNo = j.joinNo := rfl

/-- The recalled jobs of a lane in the order in which they joined. -/
theorem foldl_requeue {js queue : List Job} (ordered : (js ++ queue).Pairwise fun x y => x.joinNo ≠ y.joinNo ∧ x.joined y = true) :
    js.foldl (fun q j => insertJob j.requeue q) queue = js.map Job.requeue ++ queue :=
  foldl_insertJob (before := []) requeue_joinNo ordered

end Sys2Proof.Machine
end

section
/-! A double feed (R124): the serials it spoils. -/

namespace Sys2Proof.Machine

/-- A list of serials that begins with `n` and goes on without a gap: the lowest, if any, is `n`. -/
theorem min_range' (n k : Nat) : (List.range' n k).min? = if k = 0 then none else some n := by
  cases k with
  | zero => rfl
  | succ k =>
    rw [if_neg (Nat.succ_ne_zero k), List.min?_eq_some_iff]
    exact ⟨List.mem_range'_1.2 ⟨le_rfl, by omega⟩, fun b mem => (List.mem_range'_1.1 mem).1⟩

/-- Jobs of one kind that hold the serials from `n` on. -/
theorem serialsOf_range {js : List Job} {k : StockKind} {n : Nat} (kinds : ∀ i ∈ js, i.kind = k)
    (serials : js.map Job.serial = (List.range' n js.length).map some) :
    serialsOf js = (List.range' n js.length).map fun m => (k, m) := by
  induction js generalizing n with
  | nil => rfl
  | cons j js ih =>
    rw [List.length_cons, List.range'_succ, List.map_cons, List.map_cons, List.cons.injEq] at serials
    have rest := ih (fun i mem => kinds i (List.mem_cons_of_mem _ mem)) serials.2
    rw [List.length_cons, List.range'_succ, List.map_cons, ← rest, serialsOf, serialsOf, List.filterMap_cons, serials.1, Option.map_some,
      kinds j List.mem_cons_self]

/-- A job of the list holds the serial: the mapping drops it (R124). -/
def Job.unserialed (b : Buffer) (j : Job) : Job := if j.buffer = b then { j with serial := none } else j

theorem onOut_unserialed (l : Lane) (b : Buffer) (s : State) : onOut l b (fun q => { q with serial := none }) s =
    s.onLane l fun r => { r with out := r.out.map (Job.unserialed b) } := rfl

/-- The stock, the Flight List and the lane after a double feed: `lost` blanks spoilt, next at `after`, the serials `held` gone
from the Flight List, `out` the jobs out. -/
def doubleFed (l : Lane) (m : Loaded) (lost after : Nat) (held : List (StockKind × Nat)) (out : List Job) (s : State) : State :=
  { s with
    stock := { s.stock with
      mags := s.stock.mags.upd l fun _ => some { m with next := after }
      counters := s.stock.counters.upd m.kind fun c => { c with spoilt := c.spoilt + lost } }
    office := { s.office with flight := withoutSerials held s.office.flight }
    lanes := s.lanes.upd l fun r => { r with
      out := out
      act := { r.act with
        blanksFed := min 4294967295 (r.act.blanksFed + 2)
        blanksSpoilt := min 4294967295 (r.act.blanksSpoilt + lost) } } }

/-- The first blank of a double feed. -/
def firstBlank (l : Lane) (j : Job) (n : Nat) (s : State) : State := spoilHeld l j.kind n (countFed l 2 s)

theorem firstBlank_eq {s : State} {l : Lane} {j : Job} {n : Nat} (unparked : ∀ p, s.lanes[l].state ≠ .parked p) :
    firstBlank l j n s = { s with
      stock := { s.stock with counters := s.stock.counters.upd j.kind fun c => { c with spoilt := c.spoilt + 1 } }
      office := { s.office with flight := withoutSerial j.kind n s.office.flight }
      lanes := s.lanes.upd l fun r => { r with act := { r.act with
        blanksFed := min 4294967295 (r.act.blanksFed + 2), blanksSpoilt := min 4294967295 (r.act.blanksSpoilt + 1) } } } := by
  rw [firstBlank, spoilHeld_eq, countFed_eq unparked]
  refine congrArg (fun lanes => { s with
    stock := { s.stock with counters := s.stock.counters.upd j.kind fun c => { c with spoilt := c.spoilt + 1 } }
    office := { s.office with flight := withoutSerial j.kind n s.office.flight }
    lanes := lanes }) (Eq.trans (upd_twice s.lanes l _ _) (upd_agree ?_))
  exact acted_unparked (r := { s.lanes[l] with act := { s.lanes[l].act with blanksFed := min 4294967295 (s.lanes[l].act.blanksFed + 2) } })
    unparked _

theorem Bench.secondBlank (l : Lane) (j : Job) (n : Nat) : Bench fun s => (secondBlank l j n s).1 := by
  have held : ∀ q : Job, Bench fun s => Machine.spoilHeld l j.kind (n + 1) (onOut l q.buffer (fun q => { q with serial := none }) s) :=
    fun q => (Bench.spoilHeld l j.kind (n + 1)).comp (Bench.onLane l _)
  refine ⟨fun s t => ?_, fun s => ?_⟩
  · unfold Machine.secondBlank
    rw [show (s.withDesk t).lane l = s.lane l from rfl, show (s.withDesk t).mag l = s.mag l from rfl]
    split
    next q _ => exact (held q).desk s t
    · split
      · exact (Bench.spoilNext l).desk s t
      · rfl
  · unfold Machine.secondBlank
    split
    next q _ => exact (held q).hour s
    · split
      · exact (Bench.spoilNext l).hour s
      · exact SameHour.refl s

theorem Bench.firstBlank (l : Lane) (j : Job) (n : Nat) : Bench (firstBlank l j n) :=
  (Bench.spoilHeld l j.kind n).comp (Bench.onAct l _)

/-- Both blanks of a double feed. -/
def bothBlanks (l : Lane) (j : Job) (n : Nat) (s : State) : State := (secondBlank l j n (firstBlank l j n s)).1

theorem bothBlanks_bench (l : Lane) (j : Job) (n : Nat) : Bench (bothBlanks l j n) :=
  (Bench.secondBlank l j n).comp (Bench.firstBlank l j n)

/-- The situation at a double feed: the jobs out, the marked one and the later ones, which hold the serials up to next. -/
structure Doubling (s : State) (l : Lane) (m : Loaded) (fed rest : List Job) (j : Job) (n : Nat) : Prop where
  working : Working s l
  mag     : s.stock.mags[l] = some m
  out     : s.lanes[l].out = fed ++ j :: rest
  fed     : ∀ i ∈ fed, i.state ≠ .sent
  sent    : ∀ i ∈ j :: rest, i.state = .sent ∧ i.kind = m.kind
  serials : (j :: rest).map Job.serial = (List.range' n (rest.length + 1)).map some
  next    : m.next = n + rest.length + 1
  apart   : (s.lanes[l].out.map Job.buffer).Nodup

theorem withoutSerial_twice (k : StockKind) (a b : Nat) (es : List FlightEntry) :
    withoutSerial k b (withoutSerial k a es) = withoutSerials [(k, a), (k, b)] es := by
  rw [withoutSerial, withoutSerial, withoutSerials, List.filter_filter]
  refine List.filter_congr fun e _ => ?_
  rw [Bool.eq_iff_iff]
  simp only [Bool.and_eq_true, Bool.not_eq_true', decide_eq_false_iff_not, List.mem_cons, Prod.ext_iff, List.not_mem_nil, or_false]
  exact ⟨fun h c => c.elim h.2 h.1, fun h => ⟨fun c => h (.inr c), fun c => h (.inl c)⟩⟩

theorem withoutSerial_one (k : StockKind) (a : Nat) (es : List FlightEntry) : withoutSerial k a es = withoutSerials [(k, a)] es := by
  rw [withoutSerial, withoutSerials]
  refine List.filter_congr fun e _ => ?_
  simp only [List.mem_cons, Prod.ext_iff, List.not_mem_nil, or_false]

/-- The job that holds the serial after the marked one's. -/
theorem Doubling.find {s : State} {l : Lane} {m : Loaded} {fed rest : List Job} {j : Job} {n : Nat} (h : Doubling s l m fed rest j n) :
    (s.lanes[l].out.find? fun q => decide (q.state = .sent ∧ q.buffer ≠ j.buffer ∧ q.serial = some (n + 1))) = rest.head? := by
  obtain ⟨-, -, out, fed', sent, serials, -, apart⟩ := h
  have none' : ∀ i ∈ fed, ¬ (i.state = .sent ∧ i.buffer ≠ j.buffer ∧ i.serial = some (n + 1)) := fun i mem c => fed' i mem c.1
  rw [out, List.find?_append, List.find?_eq_none.2 fun i mem => by rw [decide_eq_true_eq]; exact none' i mem, Option.none_or,
    List.find?_cons_of_neg (by simp)]
  cases rest with
  | nil => rfl
  | cons q rest =>
    rw [List.length_cons, List.range'_succ, List.range'_succ] at serials
    simp only [List.map_cons, List.cons.injEq] at serials
    have other : q.buffer ≠ j.buffer := fun same => by
      rw [out, List.map_append, List.map_cons, List.map_cons, List.nodup_append] at apart
      have := (List.nodup_cons.1 apart.2.1).1
      rw [same] at this
      exact this List.mem_cons_self
    rw [List.find?_cons_of_pos (by
      rw [decide_eq_true_eq]
      exact ⟨(sent q (List.mem_cons_of_mem _ List.mem_cons_self)).1, other, serials.2.1⟩)]
    rfl

theorem upd_self {n : Nat} {α : Type} {t : Table n α} {i : Fin n} {f : α → α} (h : f t[i] = t[i]) : t.upd i f = t := by
  rw [Table.upd, h]
  exact Vector.set_getElem_self _

/-- The later jobs of a double feed as they stand when both blanks are spoilt. -/
structure Later (rest later : List Job) (k : StockKind) (n lost after : Nat) (held : List (StockKind × Nat)) : Prop where
  requeue : later.map Job.requeue = rest.map Job.requeue
  refs    : later.map Job.buffer = rest.map Job.buffer
  begun   : later.countP Job.begun = rest.countP Job.begun
  sent    : ∀ i ∈ later, i.state = .sent
  next    : ((serialsOf later).map Prod.snd).min?.getD after = n + lost
  flight  : ∀ (c : StockKind) (x : Nat), ((c, x) ∈ held ∨ (c, x) ∈ serialsOf later) ↔ c = k ∧ n ≤ x ∧ x ≤ n + rest.length

/-- The serials lost at a double feed (R124). -/
def lostAt (rest : List Job) (m : Loaded) (n : Nat) : List Nat := if rest = [] ∧ m.last < m.next then [n] else [n, n + 1]

theorem firstBlank_find {s : State} {l : Lane} {m : Loaded} {fed rest : List Job} {j : Job} {n : Nat} (h : Doubling s l m fed rest j n) :
    ((firstBlank l j n s).lane l).out.find? (fun q => decide (q.state = .sent ∧ q.buffer ≠ j.buffer ∧ q.serial = some (n + 1))) =
      rest.head? := by
  rw [State.lane, firstBlank_eq (working_unparked h.working), Table.upd_same]
  exact h.find

/-- The counters of a lane after a first blank. -/
def LaneRec.firstFed (r : LaneRec) : LaneRec :=
  { r with act := { r.act with
    blanksFed := min 4294967295 (r.act.blanksFed + 2), blanksSpoilt := min 4294967295 (r.act.blanksSpoilt + 1) } }

/-- The counters of a lane after both blanks. -/
theorem firstFed_spoiltOne {r : LaneRec} (unparked : ∀ p, r.state ≠ .parked p) (out : List Job) :
    ({ r.firstFed with out := out } : LaneRec).spoiltOne = { r with
      out := out
      act := { r.act with
        blanksFed := min 4294967295 (r.act.blanksFed + 2), blanksSpoilt := min 4294967295 (r.act.blanksSpoilt + 2) } } := by
  have twice : min 4294967295 (min 4294967295 (r.act.blanksSpoilt + 1) + 1) = min 4294967295 (r.act.blanksSpoilt + 2) := by omega
  rw [← twice]
  exact acted_unparked (r := { r.firstFed with out := out }) unparked _

/-- No later job is SENT: the second blank is the next one, if there is one. -/
theorem Doubling.lastOne {s : State} {l : Lane} {m : Loaded} {fed : List Job} {j : Job} {n : Nat} (h : Doubling s l m fed [] j n) :
    (secondBlank l j n (firstBlank l j n s)).2 = (lostAt [] m n).tail ∧
      bothBlanks l j n s = doubleFed l m (lostAt [] m n).length (n + (lostAt [] m n).length) [(m.kind, n)] (fed ++ [j]) s := by
  have kind := (h.sent j List.mem_cons_self).2
  have next : m.next = n + 1 := h.next
  have find := firstBlank_find h
  have mag : (firstBlank l j n s).stock.mags[l] = some m := by
    rw [firstBlank_eq (working_unparked h.working)]
    exact h.mag
  have first := firstBlank_eq (j := j) (n := n) (working_unparked h.working)
  rw [kind] at first
  by_cases spent : m.last < m.next
  · have none' : nextSerial ((firstBlank l j n s).mag l) = none := by
      rw [State.mag, mag]
      exact if_neg (Nat.not_le.2 spent)
    have second : secondBlank l j n (firstBlank l j n s) = (firstBlank l j n s, []) := by
      unfold secondBlank
      rw [find]
      simp only [List.head?_nil, none']
    rw [lostAt, if_pos ⟨rfl, spent⟩, bothBlanks, second]
    refine ⟨rfl, first.trans ?_⟩
    rw [doubleFed, upd_self (t := s.stock.mags) (by rw [h.mag, List.length_singleton, ← next]), withoutSerial_one]
    refine congrArg (fun lanes => { s with
      stock := { s.stock with counters := s.stock.counters.upd m.kind fun c => { c with spoilt := c.spoilt + 1 } }
      office := { s.office with flight := withoutSerials [(m.kind, n)] s.office.flight }, lanes := lanes }) (upd_agree ?_)
    dsimp only
    rw [← h.out]
    rfl
  · have some' : nextSerial ((firstBlank l j n s).mag l) = some (m.kind, m.next) := by
      rw [State.mag, mag]
      exact if_pos (Nat.not_lt.1 spent)
    have second : secondBlank l j n (firstBlank l j n s) = (spoilNext l (firstBlank l j n s), [m.next]) := by
      unfold secondBlank
      rw [find]
      simp only [List.head?_nil, some']
    have taken : spoilNext l (firstBlank l j n s) = countSpoilt l m.kind ((firstBlank l j n s).setMag l (some m.consume)) := by
      unfold spoilNext
      rw [State.mag, mag]
      exact if_pos (Nat.not_lt.1 spent)
    rw [lostAt, if_neg fun c => spent c.2, bothBlanks, second]
    refine ⟨by rw [next]; rfl, ?_⟩
    dsimp only
    rw [taken, first, withoutSerial_one]
    refine Eq.trans (b := { s with
      stock := { s.stock with
        mags := s.stock.mags.upd l fun _ => some m.consume
        counters := (s.stock.counters.upd m.kind fun c => { c with spoilt := c.spoilt + 1 }).upd m.kind fun c =>
          { c with spoilt := c.spoilt + 1 } }
      office := { s.office with flight := withoutSerials [(m.kind, n)] s.office.flight }
      lanes := (s.lanes.upd l LaneRec.firstFed).upd l LaneRec.spoiltOne }) rfl ?_
    have lanes : (s.lanes.upd l LaneRec.firstFed).upd l LaneRec.spoiltOne = s.lanes.upd l fun r => { r with
        out := fed ++ [j]
        act := { r.act with
          blanksFed := min 4294967295 (r.act.blanksFed + 2), blanksSpoilt := min 4294967295 (r.act.blanksSpoilt + 2) } } := by
      rw [upd_twice]
      refine upd_agree (Eq.trans ?_ (firstFed_spoiltOne (working_unparked h.working) (fed ++ [j])))
      rw [← h.out]
      rfl
    rw [lanes, upd_twice, Loaded.consume, next]
    rfl

/-- The next later job holds the second blank. -/
theorem Doubling.nextOne {s : State} {l : Lane} {m : Loaded} {fed rest : List Job} {j q : Job} {n : Nat}
    (h : Doubling s l m fed (q :: rest) j n) :
    (secondBlank l j n (firstBlank l j n s)).2 = [n + 1] ∧
      bothBlanks l j n s = doubleFed l m 2 (n + rest.length + 2) [(m.kind, n), (m.kind, n + 1)]
        (fed ++ j :: { q with serial := none } :: rest) s := by
  have kind := (h.sent j List.mem_cons_self).2
  have next : m.next = n + rest.length + 2 := h.next
  have first := firstBlank_eq (j := j) (n := n) (working_unparked h.working)
  have second : secondBlank l j n (firstBlank l j n s) =
      (spoilHeld l j.kind (n + 1) (onOut l q.buffer (fun q => { q with serial := none }) (firstBlank l j n s)), [n + 1]) := by
    unfold secondBlank
    rw [firstBlank_find h]
    rfl
  have out : s.lanes[l].out.map (Job.unserialed q.buffer) = fed ++ j :: { q with serial := none } :: rest := by
    have apart := h.apart
    rw [h.out] at apart ⊢
    rw [show fed ++ j :: q :: rest = (fed ++ [j]) ++ q :: rest by simp, List.map_append, List.nodup_append] at apart
    obtain ⟨-, later, before⟩ := apart
    rw [List.map_cons, List.nodup_cons] at later
    have same : ∀ js : List Job, (∀ i ∈ js, i.buffer ≠ q.buffer) → js.map (Job.unserialed q.buffer) = js := fun js other =>
      (List.map_congr_left fun i mem => if_neg (other i mem)).trans (List.map_id _)
    rw [show fed ++ j :: q :: rest = (fed ++ [j]) ++ q :: rest by simp, List.map_append, List.map_cons,
      same (fed ++ [j]) (fun i mem eq => before _ (List.mem_map_of_mem mem) q.buffer List.mem_cons_self eq),
      same rest (fun i mem eq => later.1 (eq ▸ List.mem_map_of_mem mem)), Job.unserialed, if_pos rfl]
    simp
  rw [kind] at first second
  rw [bothBlanks, second]
  refine ⟨rfl, ?_⟩
  dsimp only
  rw [onOut_unserialed, first, spoilHeld_eq]
  refine Eq.trans (b := { s with
    stock := { s.stock with
      counters := (s.stock.counters.upd m.kind fun c => { c with spoilt := c.spoilt + 1 }).upd m.kind fun c =>
        { c with spoilt := c.spoilt + 1 } }
    office := { s.office with flight := withoutSerial m.kind (n + 1) (withoutSerial m.kind n s.office.flight) }
    lanes := ((s.lanes.upd l LaneRec.firstFed).upd l fun r => { r with out := r.out.map (Job.unserialed q.buffer) }).upd l
      LaneRec.spoiltOne }) rfl ?_
  have lanes : ((s.lanes.upd l LaneRec.firstFed).upd l fun r => { r with out := r.out.map (Job.unserialed q.buffer) }).upd l
      LaneRec.spoiltOne = s.lanes.upd l fun r => { r with
        out := fed ++ j :: { q with serial := none } :: rest
        act := { r.act with
          blanksFed := min 4294967295 (r.act.blanksFed + 2), blanksSpoilt := min 4294967295 (r.act.blanksSpoilt + 2) } } := by
    rw [upd_twice, upd_twice]
    refine upd_agree (Eq.trans ?_ (firstFed_spoiltOne (working_unparked h.working) _))
    rw [← out]
    rfl
  have mags : (s.stock.mags.upd l fun _ => some { m with next := n + rest.length + 2 }) = s.stock.mags :=
    upd_self (by rw [h.mag, ← next])
  rw [lanes, upd_twice, withoutSerial_twice, doubleFed, mags]

/-- A double feed at the bench, in each case of its second blank. -/
theorem Doubling.blanks {s : State} {l : Lane} {m : Loaded} {fed rest : List Job} {j : Job} {n : Nat} (h : Doubling s l m fed rest j n) :
    ∃ after held later, Later rest later m.kind n (lostAt rest m n).length after held ∧
      n :: (secondBlank l j n (firstBlank l j n s)).2 = lostAt rest m n ∧
      bothBlanks l j n s = doubleFed l m (lostAt rest m n).length after held (fed ++ j :: later) s := by
  cases rest with
  | nil =>
    obtain ⟨lost, is⟩ := h.lastOne
    refine ⟨n + (lostAt [] m n).length, [(m.kind, n)], [], ⟨rfl, rfl, rfl, fun _ mem => (nomatch mem), rfl, fun c x => ?_⟩, ?_, is⟩
    · simp only [serialsOf, List.filterMap_nil, List.mem_cons, List.not_mem_nil, or_false, Prod.mk.injEq, List.length_nil]
      exact and_congr_right fun _ => by omega
    · rw [lost]
      unfold lostAt
      split <;> rfl
  | cons q rest =>
    obtain ⟨lost, is⟩ := h.nextOne
    have two : lostAt (q :: rest) m n = [n, n + 1] := if_neg fun c => (nomatch c.1)
    have serials := h.serials
    rw [List.length_cons, List.range'_succ, List.range'_succ] at serials
    simp only [List.map_cons, List.cons.injEq] at serials
    have range := serialsOf_range (k := m.kind) (n := n + 2)
      (fun i mem => (h.sent i (List.mem_cons_of_mem _ (List.mem_cons_of_mem _ mem))).2) serials.2.2
    have set : serialsOf ({ q with serial := none } :: rest) = (List.range' (n + 2) rest.length).map fun x => (m.kind, x) := by
      rw [← range]
      rfl
    refine ⟨n + rest.length + 2, [(m.kind, n), (m.kind, n + 1)], { q with serial := none } :: rest,
      ⟨rfl, rfl, rfl, fun i mem => ?_, ?_, fun c x => ?_⟩, by rw [lost, two], by rw [two]; exact is⟩
    · rcases List.mem_cons.1 mem with rfl | later
      · exact (h.sent q (List.mem_cons_of_mem _ List.mem_cons_self)).1
      · exact (h.sent i (List.mem_cons_of_mem _ (List.mem_cons_of_mem _ later))).1
    · rw [set, List.map_map, two]
      have snd : (Prod.snd ∘ fun x => (m.kind, x)) = (id : Nat → Nat) := rfl
      rw [snd, List.map_id, min_range']
      split
      next none' => rw [none']; rfl
      next => rfl
    · rw [set]
      simp only [List.mem_cons, Prod.mk.injEq, List.not_mem_nil, or_false, List.mem_map, List.mem_range'_1, List.length_cons]
      constructor
      · rintro ((⟨rfl, rfl⟩ | ⟨rfl, rfl⟩) | ⟨y, ⟨low, high⟩, rfl, rfl⟩)
        · exact ⟨rfl, by omega, by omega⟩
        · exact ⟨rfl, by omega, by omega⟩
        · exact ⟨rfl, by omega, by omega⟩
      · rintro ⟨rfl, low, high⟩
        by_cases one : x = n
        · exact .inl (.inl ⟨rfl, one⟩)
        · by_cases two' : x = n + 1
          · exact .inl (.inr ⟨rfl, two'⟩)
          · exact .inr ⟨x, ⟨by omega, by omega⟩, rfl, rfl⟩

end Sys2Proof.Machine
end

section
/-! Settling DoubleFeedRepairs (R124, R127 to R129). -/

namespace Sys2Proof.Machine

/-- The queue of the lane after a double feed: the job, where it is retried, and the recalled ones. -/
def queueAfter (j : Job) (lost : List Nat) (rest queue : List Job) : List Job :=
  rest.foldl (fun q i => insertJob i.requeue q)
    (if j.again then insertJob { (j.spoiltBy lost).requeue with attempt := 2 } queue else queue)

/-- The lane after a double feed, before its capture is taken into account. -/
def LaneRec.doubled (st : Settings) (fed rest : List Job) (j : Job) (lost : List Nat) (r : LaneRec) : LaneRec :=
  flushLane st (rest.countP Job.begun) { r with
    queue := queueAfter j lost rest r.queue, out := fed, credits := r.credits + 1 + rest.length
    act := { r.act with
      blanksFed := min 4294967295 (r.act.blanksFed + 2)
      blanksSpoilt := min 4294967295 (r.act.blanksSpoilt + lost.length)
      faults := min 4294967295 (r.act.faults + 1) }
    state := if fed = [] then .ready else r.state
    repairRefs := r.repairRefs ++ j.buffer :: rest.map Job.buffer }

theorem foldl_requeue_congr {js is : List Job} (same : js.map Job.requeue = is.map Job.requeue) (q : List Job) :
    js.foldl (fun q i => insertJob i.requeue q) q = is.foldl (fun q i => insertJob i.requeue q) q := by
  have mapped : ∀ ks : List Job, ks.foldl (fun q i => insertJob i.requeue q) q = (ks.map Job.requeue).foldl (fun q i => insertJob i q) q :=
    fun ks => by rw [List.foldl_map]
  rw [mapped, mapped, same]

theorem filter_other_buffer {fed later : List Job} {j : Job} (apart : ((fed ++ j :: later).map Job.buffer).Nodup) :
    (fed ++ j :: later).filter (fun i => decide (i.buffer ≠ j.buffer)) = fed ++ later := by
  rw [List.map_append, List.map_cons, List.nodup_append, List.nodup_cons] at apart
  obtain ⟨-, ⟨inLater, -⟩, inFed⟩ := apart
  have keep : ∀ js : List Job, (∀ i ∈ js, i.buffer ≠ j.buffer) → js.filter (fun i => decide (i.buffer ≠ j.buffer)) = js := fun js other =>
    List.filter_eq_self.2 fun i mem => by rw [decide_eq_true_eq]; exact other i mem
  rw [List.filter_append, List.filter_cons_of_neg (by simp), keep fed fun i mem eq =>
    inFed _ (List.mem_map_of_mem mem) j.buffer List.mem_cons_self eq, keep later fun i mem eq => inLater (eq ▸ List.mem_map_of_mem mem)]

/-- The lane through a double feed: the job leaves, the later ones are recalled. -/
theorem doubled_row {r : LaneRec} (working : r.state = .ready ∨ r.state = .printing) (st : Settings) {fed rest later : List Job} {j : Job}
    {k : StockKind} {n after : Nat} {held : List (StockKind × Nat)} {lost : List Nat} (h : Later rest later k n lost.length after held)
    (unsent : ∀ i ∈ fed, i.state ≠ .sent) (apart : ((fed ++ j :: later).map Job.buffer).Nodup) :
    (((({ r with
        out := fed ++ j :: later
        act := { r.act with
          blanksFed := min 4294967295 (r.act.blanksFed + 2)
          blanksSpoilt := min 4294967295 (r.act.blanksSpoilt + lost.length) } } : LaneRec).left j.buffer).retried j lost).repaired st
      [j.buffer]).acted (fun a => { a with faults := min 4294967295 (a.faults + 1) }) = r.doubled st fed rest j lost ∧
    (((({ r with
        out := fed ++ j :: later
        act := { r.act with
          blanksFed := min 4294967295 (r.act.blanksFed + 2)
          blanksSpoilt := min 4294967295 (r.act.blanksSpoilt + lost.length) } } : LaneRec).left j.buffer).retried j lost).sentJobs) =
      later := by
  obtain ⟨q, is⟩ : ∃ q : LaneRec, q = ({ r with
        out := fed ++ j :: later
        act := { r.act with
          blanksFed := min 4294967295 (r.act.blanksFed + 2)
          blanksSpoilt := min 4294967295 (r.act.blanksSpoilt + lost.length) } } : LaneRec) := ⟨_, rfl⟩
  have workingQ : q.state = .ready ∨ q.state = .printing := by rw [is]; exact working
  have out : ((q.left j.buffer).retried j lost).out = fed ++ later := by
    rw [is]
    exact filter_other_buffer apart
  have state : ((q.left j.buffer).retried j lost).state = if fed ++ later = [] then .ready else r.state := by
    have left := left_working workingQ j.buffer
    rw [show (q.out.filter fun i => decide (i.buffer ≠ j.buffer)) = fed ++ later from out, show q.state = r.state by rw [is]] at left
    exact left
  have sent : ((q.left j.buffer).retried j lost).sentJobs = later := by
    rw [LaneRec.sentJobs, out, List.filter_append, List.filter_eq_nil_iff.2 (fun i mem => by rw [decide_eq_true_eq]; exact unsent i mem),
      List.filter_eq_self.2 (fun i mem => by rw [decide_eq_true_eq]; exact h.sent i mem), List.nil_append]
  have recalled : ((q.left j.buffer).retried j lost).recalled.out = fed := by
    show (List.filter _ ((q.left j.buffer).retried j lost).out) = fed
    rw [out, List.filter_append, List.filter_eq_self.2 (fun i mem => by rw [decide_eq_true_eq]; exact unsent i mem),
      List.filter_eq_nil_iff.2 (fun i mem => by rw [decide_eq_true_eq, not_not]; exact h.sent i mem), List.append_nil]
  have workingR : ((q.left j.buffer).retried j lost).state = .ready ∨ ((q.left j.buffer).retried j lost).state = .printing := by
    rw [state]
    split
    · exact .inl rfl
    · exact working
  have length : later.length = rest.length := by
    have := congrArg List.length h.refs
    simpa using this
  rw [← is]
  refine ⟨?_, sent⟩
  have row : ((q.left j.buffer).retried j lost).recalled = { r with
      queue := queueAfter j lost rest r.queue, out := fed, credits := r.credits + 1 + rest.length
      act := { r.act with
        blanksFed := min 4294967295 (r.act.blanksFed + 2)
        blanksSpoilt := min 4294967295 (r.act.blanksSpoilt + lost.length) }
      state := if fed ++ later = [] then .ready else r.state } := by
    rw [← state, ← recalled, ← length, queueAfter, ← foldl_requeue_congr h.requeue, LaneRec.recalled, sent, is]
    rfl
  have refs : ((q.left j.buffer).retried j lost).repairRefs = r.repairRefs := by rw [is]; rfl
  have rested : (if fed = [] then LaneState.ready else if fed ++ later = [] then .ready else r.state) =
      if fed = [] then .ready else r.state := by
    by_cases none : fed = []
    · rw [if_pos none, if_pos none]
    · rw [if_neg none, if_neg none, if_neg fun c => none (List.append_eq_nil_iff.1 c).1]
  have appended : r.repairRefs ++ [j.buffer] ++ rest.map Job.buffer = r.repairRefs ++ j.buffer :: rest.map Job.buffer := by simp
  rw [repaired_working workingR, sent, flushLimit, h.begun, h.refs, recalled, refs, flushLane_acted (fun p => rested_unparked workingR p), row,
    state, rested, appended]
  rfl

/-- The whole of a double feed at the bench. -/
def doubledBench (l : Lane) (j : Job) (n : Nat) (lost : List Nat) (s : State) : State :=
  countFault l (sequenceRepair l [j.buffer] (spoiltBench l j lost (bothBlanks l j n s)))

theorem doubledBench_eq {s : State} {l : Lane} {m : Loaded} {fed rest : List Job} {j : Job} {n : Nat} (h : Doubling s l m fed rest j n) :
    doubledBench l j n (lostAt rest m n) s = { s with
      stock := { s.stock with
        mags := s.stock.mags.upd l fun _ => some { m with next := n + (lostAt rest m n).length }
        counters := s.stock.counters.upd m.kind fun x => { x with spoilt := x.spoilt + (lostAt rest m n).length } }
      issue := if j.again then s.issue else { s.issue with reserved := s.issue.reserved - 1 }
      images := if j.again then s.images else s.images.upd j.buffer fun _ => none
      office := { s.office with flight := s.office.flight.filter fun e =>
        !(decide (e.kind = m.kind ∧ n ≤ e.serial ∧ e.serial ≤ n + rest.length)) }
      lanes := s.lanes.upd l (LaneRec.doubled s.office.settings fed rest j (lostAt rest m n)) } := by
  obtain ⟨after, held, later, facts, -, is⟩ := h.blanks
  obtain ⟨lost, isLost⟩ : ∃ ns, lostAt rest m n = ns := ⟨_, rfl⟩
  rw [isLost] at facts is ⊢
  have apart : ((fed ++ j :: later).map Job.buffer).Nodup := by
    have := h.apart
    rw [h.out] at this
    simpa [facts.refs] using this
  obtain ⟨row, sent⟩ := doubled_row (r := s.lanes[l]) h.working s.office.settings facts h.fed apart
  have flight : withoutSerials (serialsOf later) (withoutSerials held s.office.flight) = s.office.flight.filter fun e =>
      !(decide (e.kind = m.kind ∧ n ≤ e.serial ∧ e.serial ≤ n + rest.length)) := by
    rw [withoutSerials, withoutSerials, List.filter_filter]
    refine List.filter_congr fun e _ => ?_
    rw [← decide_eq_decide.2 (facts.flight e.kind e.serial), Bool.decide_or, Bool.not_or, Bool.and_comm]
  rw [doubledBench, is, spoiltBench_eq, sequenceRepair_eq]
  dsimp only [doubleFed]
  rw [Table.upd_same, Table.upd_same, sent, upd_twice, upd_twice, upd_twice, countFault, onAct_eq]
  dsimp only [State.onLane]
  have next : Option.map (Loaded.lowered ((serialsOf later).map Prod.snd)) (some { m with next := after }) =
      some { m with next := n + lost.length } :=
    congrArg (fun x : Nat => some ({ m with next := x } : Loaded)) facts.next
  have lanes : ∀ F : LaneRec → LaneRec, F s.lanes[l] = LaneRec.doubled s.office.settings fed rest j lost s.lanes[l] →
      s.lanes.upd l F = s.lanes.upd l (LaneRec.doubled s.office.settings fed rest j lost) := fun F => upd_agree
  rw [upd_twice, flight, next, lanes]
  exact row

/-- A double feed, with the desk's part first. -/
theorem doubleFeed_eq {s : State} {l : Lane} {m : Loaded} {fed rest : List Job} {j : Job} {n : Nat} (h : Doubling s l m fed rest j n) :
    doubleFeed l j n (countFed l 2 s) = raiseRecovered l .doubleFeed (spoiltTest j (sequenceRepair l [j.buffer]
      (spoiltBench l j (lostAt rest m n) (bothBlanks l j n (spoiltDesk l j .doubleFeed (lostAt rest m n) s))))) := by
  obtain ⟨-, -, -, -, lost, -⟩ := h.blanks
  have spoilt := spoilt_eq (bothBlanks_bench l j n) l j .doubleFeed (lostAt rest m n) s
  rw [(spoiltTest_desk j).commutes (Bench.sequenceRepair l [j.buffer]), ← spoilt, ← lost]
  rfl

/-- The double feed of a marked job, its entry last. -/
theorem doubleFeed_done {s : State} {l : Lane} {m : Loaded} {fed rest : List Job} {j : Job} {n : Nat} (h : Doubling s l m fed rest j n)
    (quiet : s.host.busIn = none) (free : s.faults.recs[l].deferred = none) (room : Roomy 253 s) {d : State}
    (is : spoiltDesk l j .doubleFeed (lostAt rest m n) s = d) (was : Bool) :
    stallEdge was l (doubleFeed l j n (countFed l 2 s)) =
      give (.fault l .doubleFeed true 0) (spoiltTest j (stallEdge was l (doubledBench l j n (lostAt rest m n) d))) := by
  have few : (lostAt rest m n).length ≤ 2 := by
    unfold lostAt
    split
    · exact Nat.le_succ 1
    · exact le_rfl
  have tolled := (spoiltDesk_tolled quiet l j .doubleFeed (lostAt rest m n)).1
  have roomD := spoiltDesk_room room quiet l j .doubleFeed (lost := lostAt rest m n) (by omega)
  have desk := (spoiltDesk_desk l j .doubleFeed (lostAt rest m n)).rest s
  have bench : Bench fun s => sequenceRepair l [j.buffer] (spoiltBench l j (lostAt rest m n) (bothBlanks l j n s)) :=
    (Bench.sequenceRepair l [j.buffer]).comp ((spoiltBench_bench l j _).comp (bothBlanks_bench l j n))
  rw [doubleFeed_eq h, is]
  rw [is] at tolled roomD desk
  have faults : (sequenceRepair l [j.buffer] (spoiltBench l j (lostAt rest m n) (bothBlanks l j n d))).faults = s.faults := by
    obtain ⟨after, held, later, -, -, both⟩ := (Doubling.blanks (s := d) (l := l) (m := m) (fed := fed) (rest := rest) (j := j) (n := n)
      (by rw [desk]; exact ⟨h.working, h.mag, h.out, h.fed, h.sent, h.serials, h.next, h.apart⟩))
    rw [sequenceRepair_faults, spoiltBench_eq, both, desk]
    rfl
  have journal : (sequenceRepair l [j.buffer] (spoiltBench l j (lostAt rest m n) (bothBlanks l j n d))).journal = d.journal := by
    rw [bench.rest d]
    rfl
  have host : (sequenceRepair l [j.buffer] (spoiltBench l j (lostAt rest m n) (bothBlanks l j n d))).host = d.host := by
    rw [bench.rest d]
    rfl
  rw [doubledBench]
  obtain ⟨u, isU⟩ : ∃ u, sequenceRepair l [j.buffer] (spoiltBench l j (lostAt rest m n) (bothBlanks l j n d)) = u := ⟨_, rfl⟩
  rw [isU] at faults journal host ⊢
  have roomU : Roomy 255 u := ⟨journal ▸ roomD.line, by rw [journal]; exact Nat.lt_of_lt_of_le roomD.few (by omega)⟩
  obtain ⟨roomV, -⟩ := spoiltTest_room roomU (by decide) (by rw [host]; exact tolled.quiet) j
  have free' : (spoiltTest j u).faults.recs[l].deferred = none := by
    rw [spoiltTest_faults, faults]
    exact free
  have ends : Desk fun t => give (.fault l .doubleFeed true 0) (spoiltTest j t) := (Desk.give _).comp (spoiltTest_desk j)
  have counts : Bench fun t => stallEdge was l (countFault l t) := (Bench.stallEdge was l).comp (Bench.onAct l _)
  rw [raiseRecovered_eq free' roomV.line roomV.few]
  exact (congrArg (stallEdge was l) ((Desk.give _).commutes (Bench.onAct l _) (spoiltTest j u))).trans (ends.commutes counts u).symm

end Sys2Proof.Machine
end

section
/-! Settling DoubleFeedRepairs (R124). -/

namespace Sys2Proof.Machine

/-- The first SENT job out awaits the mark. -/
theorem Doubling.awaits {s : State} {l : Lane} {m : Loaded} {fed rest : List Job} {j : Job} {n : Nat} (h : Doubling s l m fed rest j n) :
    awaitingMark s l = some j := by
  rw [awaitingMark, State.lane, h.out, List.find?_append,
    List.find?_eq_none.2 fun i mem => by rw [decide_eq_true_eq]; exact h.fed i mem, Option.none_or,
    List.find?_cons_of_pos (by rw [decide_eq_true_eq]; exact (h.sent j List.mem_cons_self).1)]

/-- A change of the lane that leaves its state and jobs out. -/
theorem Doubling.of_same {s t : State} {l : Lane} {m : Loaded} {fed rest : List Job} {j : Job} {n : Nat} (h : Doubling s l m fed rest j n)
    (state : t.lanes[l].state = s.lanes[l].state) (out : t.lanes[l].out = s.lanes[l].out) (mag : t.stock.mags[l] = s.stock.mags[l]) :
    Doubling t l m fed rest j n :=
  ⟨by rw [Working, state]; exact h.working, mag.trans h.mag, out.trans h.out, h.fed, h.sent, h.serials, h.next, by rw [out]; exact h.apart⟩

/-- A DOUBLE mark. -/
theorem exec_doubleFeed {s : State} {l : Lane} {m : Loaded} {fed rest : List Job} {j : Job} {n p : Nat} {c : BitVec 16} {k : KindRec}
    (pins : Pins) (h : Doubling s l m fed rest j n) (quiet : s.host.busIn = none) (up : s.office.startUp = none)
    (kind : k = s.stock.kinds[m.kind]) (last : s.lanes[l].feed.last = some c) (few : s.lanes[l].feed.since < 65535)
    (pitch : p = (s.lanes[l].feed.counter - c).toNat) (near : 2 * k.pitch ≤ p + k.tol) (near' : p ≤ 2 * k.pitch + k.tol)
    (notSingle : ¬ (k.pitch ≤ p + k.tol ∧ p ≤ k.pitch + k.tol)) :
    exec (.mark l ⟨pins, none⟩) s = .next (stallEdge (stalled s l) l (doubleFeed l j n (countFed l 2 (s.onLane l (LaneRec.captured pins))))) := by
  have lane : (s.onLane l (LaneRec.captured pins)).lanes[l] = s.lanes[l].captured pins := State.onLane_same _ _ _
  have awaits : awaitingMark (s.onLane l (LaneRec.captured pins)) l = some j :=
    (h.of_same (t := s.onLane l (LaneRec.captured pins)) (by rw [lane]; rfl) (by rw [lane]; rfl) rfl).awaits
  have kind' : markKind (s.onLane l (LaneRec.captured pins)) l j = k := by
    rw [kind]
    exact markKind_loaded (s := s.onLane l (LaneRec.captured pins)) h.mag j
  have double : markClass s.lanes[l].feed k.pitch k.tol = .double := by
    simp only [markClass, last]
    rw [if_neg (Nat.ne_of_lt few), ← pitch, pitchClass, if_neg notSingle, if_pos ⟨near, near'⟩]
  have serial : j.serial = some n := by
    have := h.serials
    rw [List.range'_succ, List.map_cons, List.map_cons, List.cons.injEq] at this
    exact this.1
  rw [exec_mark quiet, markEdge_working up h.working, withStall, stalled_onLane s l rfl rfl, markWorking, awaits]
  simp only [kind', double, jobMark, serial]

theorem spoiltCount_lostAt (rest : List Job) (m : Loaded) (n : Nat) (d : Drawer) : d.spoiltCount (lostAt rest m n) =
    { d with counts := { d.counts with spoilt := min 4294967295 (d.counts.spoilt + (lostAt rest m n).length) } } := by
  have twice : min 4294967295 (min 4294967295 (d.counts.spoilt + 1) + 1) = min 4294967295 (d.counts.spoilt + 2) := by omega
  unfold lostAt
  split
  · rfl
  · show _ = { d with counts := { d.counts with spoilt := min 4294967295 (d.counts.spoilt + 2) } }
    rw [← twice]
    rfl

/-- The entries of a double feed, under the magazine's kind. -/
theorem spoiltEntries_kind {j : Job} {k : StockKind} (kind : j.kind = k) (l : Lane) (lost : List Nat) :
    spoiltEntries l j .doubleFeed lost = lost.map fun x => .spoilt k x x 1 l (some j.window) .doubleFeed := by
  rw [← kind]
  rfl

/-- Settles O58: the double feed at the bench and at the desk, its entry last. -/
theorem doubleFeedRepairs : Obligations.DoubleFeedRepairs := by
  intro s l pins m fed rest j n p c k quiet up working mag kind out unsent sent serials next apart last few pitch near near' notSingle free line
    holds
  have h : Doubling s l m fed rest j n := ⟨working, mag, out, unsent, sent, serials, next, apart⟩
  have lane : (s.onLane l (LaneRec.captured pins)).lanes[l] = s.lanes[l].captured pins := State.onLane_same _ _ _
  have captured : Doubling (s.onLane l (LaneRec.captured pins)) l m fed rest j n :=
    h.of_same (by rw [lane]; rfl) (by rw [lane]; rfl) rfl
  obtain ⟨tolled, till⟩ := spoiltDesk_tolled (s := s.onLane l (LaneRec.captured pins)) quiet l j .doubleFeed (lostAt rest m n)
  have desk := (spoiltDesk_desk l j .doubleFeed (lostAt rest m n)).rest (s.onLane l (LaneRec.captured pins))
  obtain ⟨d, is⟩ : ∃ d, spoiltDesk l j .doubleFeed (lostAt rest m n) (s.onLane l (LaneRec.captured pins)) = d := ⟨_, rfl⟩
  have does := (exec_doubleFeed pins h quiet up kind last few pitch near near' notSingle).trans
    (congrArg Host.Outcome.next (doubleFeed_done captured quiet free ⟨line, holds⟩ is (stalled s l)))
  rw [is] at tolled till desk
  have bench := doubledBench_eq (captured.of_same (t := d) (by rw [desk]; rfl) (by rw [desk]; rfl) (by rw [desk]; rfl))
  obtain ⟨u, isU⟩ : ∃ u, stallEdge (stalled s l) l (doubledBench l j n (lostAt rest m n) d) = u := ⟨_, rfl⟩
  rw [isU] at does
  rw [bench, ← stallEdged_eq, desk] at isU
  have lanes : ∀ F : LaneRec → LaneRec, F s.lanes[l] = (s.lanes[l].captured pins).doubled s.office.settings fed rest j (lostAt rest m n) →
      s.lanes.upd l F = (s.onLane l (LaneRec.captured pins)).lanes.upd l
        (LaneRec.doubled s.office.settings fed rest j (lostAt rest m n)) := fun F same =>
    (upd_agree same).trans (upd_twice s.lanes l _ _).symm
  have start : SameJournal s (s.onLane l (LaneRec.captured pins)) := ⟨rfl, rfl, rfl, rfl, rfl, rfl, rfl, rfl⟩
  have shows : Tolled (spoiltEntries l j .doubleFeed (lostAt rest m n))
      (if j.again then none else some (j.slot, spoiltAnswer s l j (lostAt rest m n))) s u :=
    tolled.of_desk start quiet rfl rfl (by rw [← isU]; rfl) (by rw [← isU]; rfl) (by rw [← isU]; rfl)
  have drawers : u.till = s.till.upd j.window (Drawer.spoiltBy j (lostAt rest m n)) := by rw [← isU]; exact till
  have quietV : (spoiltTest j u).host.busIn = none := by
    unfold spoiltTest
    split
    · exact shows.quiet
    · exact (Within.testCashUp (l := l) j.window u).quiet shows.quiet
  have journalled := give_journalled quietV (.fault l .doubleFeed true 0)
  refine ⟨_, spoiltTest j u, u, lostAt rest m n, j.again, { j with
      spoilt := j.spoilt ++ lostAt rest m n, serial := none, state := .queued, attempt := 2, delivery := .carrying false },
    queueAfter j (lostAt rest m n) rest s.lanes[l].queue, spoiltAnswer s l j (lostAt rest m n), does, rfl, rfl, rfl, rfl, ?_, ?_, ?_, ?_, ?_, ?_,
    fun w other => ?_, ?_, ?_, ?_, rfl, fun ends running => ?_, fun keeps => ?_, fun ends held => ?_, fun i keeps => ?_, shows.tags,
    shows.snapshot, rfl, ?_, ⟨rfl, rfl, rfl⟩⟩
  · exact fun ordered => by
      unfold queueAfter
      rw [List.cons_append, List.pairwise_cons] at ordered
      obtain ⟨front, later⟩ := ordered
      cases j.again
      · exact foldl_requeue later
      · exact foldl_requeue (js := { (j.spoiltBy (lostAt rest m n)).requeue with attempt := 2 } :: rest)
          (List.pairwise_cons.2 ⟨front, later⟩)
  · rw [← isU]
    rfl
  · rw [← isU]
    rfl
  · rw [← isU]
    rfl
  · rw [← isU]
    rfl
  · rw [← isU]
    rfl
  · rw [drawers, Table.upd_ne _ _ _ _ other]
  · rw [drawers, Table.upd_same, Drawer.spoiltBy, spoiltCount_lostAt]
    cases j.again <;> rfl
  · rw [lanes, ← isU]
    · rfl
    · rfl
  · have gives := shows.gives
    rw [spoiltEntries_kind (sent j List.mem_cons_self).2] at gives
    exact gives
  · rw [ends] at shows
    exact shows.answered _ _ rfl running
  · refine shows.kept (keeps.imp (fun again => ?_) id)
    rw [again]
    rfl
  · rw [ends] at shows
    have pending := shows.pending _ _ rfl held
    rw [pending]
    exact ⟨rfl, by constructor <;> rfl⟩
  · refine shows.slots i fun k a eq => ?_
    rcases keeps with again | held | other
    · rw [again] at eq
      exact (nomatch eq)
    · exact .inl held
    · cases h : j.again <;> rw [h] at eq
      · cases eq
        exact .inr other
      · exact (nomatch eq)
  · conv_lhs => rw [journalled.rest, journalled.exch, journalled.host]

end Sys2Proof.Machine
end

section
/-! FAULT CLEAR (R142 to R146): the declarations under another exchange, the realign and the resume. -/

namespace Sys2Proof.Machine

/-! ### Two states that differ in the exchange and host memory -/

/-- The states differ in the exchange and host memory alone, the Journal Writer stands alike in both, and no access error is under
way in either. -/
structure Aside (s k : State) : Prop where
  rest  : k = { s with exch := k.exch, host := k.host }
  same  : SameJournal s k
  quiet : s.host.busIn = none
  calm  : k.host.busIn = none

namespace Aside

variable {s k : State}

theorem inward (h : Aside s k) {f : State → State} (hf : Inward f) : Aside (f s) (f k) := by
  have moved : f k = (f s).outward s.journal k.exch k.host := hf.after h.rest
  refine ⟨?_, ⟨?_, ?_, ?_, ?_, ?_, ?_, ?_, ?_⟩, ?_, ?_⟩
  · rw [moved, ← hf.journal s]
    rfl
  · rw [moved, hf.journal s]
    rfl
  · rw [moved, hf.host s]
    exact h.same.ring
  · rw [moved, hf.exch s]
    exact h.same.alerts
  · rw [moved, hf.exch s]
    exact h.same.state
  · rw [moved, hf.exch s]
    exact h.same.base
  · rw [moved, hf.exch s]
    exact h.same.offset
  · rw [moved]
    rfl
  · rw [moved]
    rfl
  · rw [hf.host s]
    exact h.quiet
  · rw [hf.host k]
    exact h.calm

theorem give (h : Aside s k) (b : EntryBody) : Aside (give b s) (give b k) := by
  have same := give_same h.same h.quiet h.calm b
  have left := give_journalled h.quiet b
  have right := give_journalled h.calm b
  refine ⟨?_, same, left.quiet h.quiet, right.quiet h.calm⟩
  obtain ⟨u, is⟩ : ∃ u, Machine.give b s = u := ⟨_, rfl⟩
  obtain ⟨v, is'⟩ : ∃ v, Machine.give b k = v := ⟨_, rfl⟩
  rw [is] at left same ⊢
  rw [is'] at right same ⊢
  rw [right.rest, left.rest, same.journal, h.rest]

theorem answered (h : Aside s k) (i : SlotNo) (a : Answer) : Aside (answered i a s) (answered i a k) := by
  have left := answered_produced i a s
  have right := answered_produced i a k
  obtain ⟨u, is⟩ : ∃ u, Machine.answered i a s = u := ⟨_, rfl⟩
  obtain ⟨v, is'⟩ : ∃ v, Machine.answered i a k = v := ⟨_, rfl⟩
  rw [is] at left ⊢
  rw [is'] at right ⊢
  have journal : v.journal = u.journal := by rw [right.rest, left.rest, h.rest]
  have office : v.office = u.office := by rw [right.rest, left.rest, h.rest]
  refine ⟨?_, ⟨journal, ?_, ?_, ?_, ?_, ?_, by rw [office], by rw [office]⟩, left.quiet.trans h.quiet, right.quiet.trans h.calm⟩
  · rw [right.rest, left.rest, h.rest]
  · rw [right.ring, left.ring, h.same.ring]
  · rw [right.alerts, left.alerts, h.same.alerts]
  · rw [right.state, left.state, h.same.state]
  · rw [right.regs.areaBase, left.regs.areaBase, h.same.base]
  · rw [right.regs.latchedOffset, left.regs.latchedOffset, h.same.offset]

theorem onDrawer (h : Aside s k) (w : Window) (f : Drawer → Drawer) : Aside (s.onDrawer w f) (k.onDrawer w f) :=
  h.inward (f := fun s => s.onDrawer w f) fun _ _ _ _ => rfl

theorem testCashUp (h : Aside s k) (w : Window) : Aside (testCashUp w s) (testCashUp w k) := by
  have till : k.till = s.till := by rw [h.rest]
  have office : k.office = s.office := by rw [h.rest]
  cases waits : s.till[w].cashUp with
  | none => rw [testCashUp_none waits, testCashUp_none (by rw [till]; exact waits)]; exact h
  | some p =>
    cases settled : s.till[w].settled with
    | false => rw [testCashUp_unsettled settled, testCashUp_unsettled (by rw [till]; exact settled)]; exact h
    | true =>
      have same : cashedUp k w p = cashedUp s w p := by rw [cashedUp, cashedUp, till, office]
      rw [testCashUp_settled h.quiet waits settled, testCashUp_settled h.calm (by rw [till]; exact waits) (by rw [till]; exact settled),
        same, till, office]
      exact ((h.give _).answered _ _).onDrawer w _

theorem declareOne (h : Aside s k) (l : Lane) (n : Nat) (oc : DeclOutcome) : Aside (declareOne l s n oc) (declareOne l k n oc) := by
  have doubts : doubtOf k l n = doubtOf s l n := by rw [doubtOf, doubtOf, h.rest]
  cases found : doubtOf s l n with
  | none => rw [declareOne_none oc found, declareOne_none oc (doubts.trans found)]; exact h
  | some d =>
    rw [declareOne_some oc found, declareOne_some oc (doubts.trans found)]
    exact ((h.inward (declareEffect_inward d oc)).give _).testCashUp _

theorem declareAll (h : Aside s k) (l : Lane) (ds : List Declaration) : Aside (declareAll l ds s) (declareAll l ds k) := by
  unfold Machine.declareAll
  induction ds generalizing s k with
  | nil => exact h
  | cons d ds ih =>
    cases outcome : d.outcome with
    | none =>
      simp only [List.foldl_cons, outcome]
      exact ih h
    | some oc =>
      simp only [List.foldl_cons, outcome]
      exact ih (h.declareOne l d.serial oc)

end Aside

/-! ### What declarations leave -/

/-- What the declarations of a lane leave. -/
structure Declared (s t : State) : Prop where
  lanes  : t.lanes = s.lanes
  faults : t.faults = s.faults
  office : t.office = s.office
  mags   : t.stock.mags = s.stock.mags
  tags   : t.exch.tags = s.exch.tags
  regs   : SameRegisters s.exch t.exch
  lane   : t.exch.alerts.lane = s.exch.alerts.lane
  quiet  : t.host.busIn = none
  state  : t.exch.state = s.exch.state

namespace Declared

variable {s t u : State}

theorem refl (quiet : s.host.busIn = none) : Declared s s := ⟨rfl, rfl, rfl, rfl, rfl, SameRegisters.refl _, rfl, quiet, rfl⟩

theorem trans (h : Declared s t) (g : Declared t u) : Declared s u :=
  ⟨g.lanes.trans h.lanes, g.faults.trans h.faults, g.office.trans h.office, g.mags.trans h.mags, g.tags.trans h.tags, h.regs.trans g.regs,
    g.lane.trans h.lane, g.quiet, g.state.trans h.state⟩

/-- Giving an entry changes no alert flag but JOURNAL_PRESSURE. -/
theorem give_alertLane (quiet : s.host.busIn = none) (b : EntryBody) : (give b s).exch.alerts.lane = s.exch.alerts.lane := by
  have gate : ∀ u : State, (closeGate u).exch.alerts.lane = u.exch.alerts.lane := fun u => by
    unfold closeGate
    split <;> rfl
  unfold give place
  split
  · simp only [writeEntry, access_quiet quiet, if_true]
    exact gate _
  · split
    · exact gate _
    · exact gate _

theorem give (quiet : s.host.busIn = none) (b : EntryBody) : Declared s (give b s) := by
  have journalled := give_journalled quiet b
  have lane := give_alertLane quiet b
  obtain ⟨u, is⟩ : ∃ u, Machine.give b s = u := ⟨_, rfl⟩
  rw [is] at journalled lane ⊢
  refine ⟨?_, ?_, ?_, ?_, ?_, ?_, lane, journalled.quiet quiet, ?_⟩
  · rw [journalled.rest]
  · rw [journalled.rest]
  · rw [journalled.rest]
  · rw [journalled.rest]
  · rw [journalled.exch]
  · rw [journalled.exch]
    constructor <;> rfl
  · rw [journalled.exch]

theorem answered (quiet : s.host.busIn = none) (i : SlotNo) (a : Answer) : Declared s (answered i a s) := by
  have produced := answered_produced i a s
  refine ⟨?_, ?_, ?_, ?_, produced.tags, produced.regs, by rw [produced.alerts], produced.quiet.trans quiet, produced.state⟩
  · rw [produced.rest]
  · rw [produced.rest]
  · rw [produced.rest]
  · rw [produced.rest]

theorem onDrawer (quiet : s.host.busIn = none) (w : Window) (f : Drawer → Drawer) : Declared s (s.onDrawer w f) :=
  ⟨rfl, rfl, rfl, rfl, rfl, SameRegisters.refl _, rfl, quiet, rfl⟩

theorem testCashUp (quiet : s.host.busIn = none) (w : Window) : Declared s (testCashUp w s) := by
  cases waits : s.till[w].cashUp with
  | none => rw [testCashUp_none waits]; exact refl quiet
  | some p =>
    cases settled : s.till[w].settled with
    | false => rw [testCashUp_unsettled settled]; exact refl quiet
    | true =>
      rw [testCashUp_settled quiet waits settled]
      have given := give quiet (cashUpEntry w s.till[w] s.office.settings.tolerance p.declared)
      have answers := answered given.quiet p.slot (cashedUp s w p)
      exact (given.trans answers).trans (onDrawer answers.quiet w _)

theorem declareOne (quiet : s.host.busIn = none) (l : Lane) (n : Nat) (oc : DeclOutcome) : Declared s (declareOne l s n oc) := by
  cases found : doubtOf s l n with
  | none => rw [declareOne_none oc found]; exact refl quiet
  | some d =>
    rw [declareOne_some oc found]
    have effect : Declared s (declareEffect d oc (dropDoubt d s)) := by
      cases oc <;> exact ⟨rfl, rfl, rfl, rfl, rfl, SameRegisters.refl _, rfl, quiet, rfl⟩
    have given := give effect.quiet (.resolved d.kind d.serial oc)
    exact (effect.trans given).trans (testCashUp given.quiet _)

theorem declareAll (quiet : s.host.busIn = none) (l : Lane) (ds : List Declaration) : Declared s (declareAll l ds s) := by
  unfold Machine.declareAll
  induction ds generalizing s with
  | nil => exact refl quiet
  | cons d ds ih =>
    cases outcome : d.outcome with
    | none =>
      simp only [List.foldl_cons, outcome]
      exact ih quiet
    | some oc =>
      simp only [List.foldl_cons, outcome]
      have one := declareOne quiet l d.serial oc
      exact one.trans (ih one.quiet)

end Declared

end Sys2Proof.Machine
end

section
/-! FAULT CLEAR (R144 to R146): the realign and the resume, each as one change of the part's records with entries given. -/

namespace Sys2Proof.Machine

/-! ### The fall of LANE_ALERT among entries given -/

/-- LANE_ALERT falls. -/
def alertFalls (s : State) : State := s.onAlerts fun a => { a with lane := false }

theorem closeGate_alertFalls (s : State) : closeGate (alertFalls s) = alertFalls (closeGate s) := by
  unfold closeGate
  rw [show (alertFalls s).journal = s.journal from rfl]
  split <;> rfl

theorem give_alertFalls {s : State} (quiet : s.host.busIn = none) (b : EntryBody) : give b (alertFalls s) = alertFalls (give b s) := by
  have quiet' : (alertFalls s).host.busIn = none := quiet
  unfold give place
  rw [show canWriteNow (alertFalls s) = canWriteNow s from rfl, show canQueue (alertFalls s) = canQueue s from rfl]
  split
  · simp only [writeEntry, access_quiet quiet, access_quiet quiet', if_true]
    exact closeGate_alertFalls ((s.onHost fun h =>
      { h with journal := Memory.put (journalAddress s s.journal.head) ⟨stamp s b, s.journal.seq, s.journal.pass⟩ h.journal }).onJournal
        JournalWriter.advance)
  · split
    · exact closeGate_alertFalls (s.onJournal fun j => { j with holding := j.holding ++ [stamp s b] })
    · exact closeGate_alertFalls (s.onJournal fun j => { j with overflow := joinOverflow (stamp s b) j.overflow })

theorem giveAll_alertFalls {s : State} (quiet : s.host.busIn = none) (bs : List EntryBody) :
    giveAll bs (alertFalls s) = alertFalls (giveAll bs s) := by
  induction bs generalizing s with
  | nil => rfl
  | cons b bs ih =>
    rw [giveAll_cons, giveAll_cons, give_alertFalls quiet]
    exact ih ((give_journalled quiet b).quiet quiet)

/-! ### The realign (R144) -/

/-- The serials that a realign passes over, and the magazine they are of. -/
def passedOver (m : Option Loaded) (r : Option Nat) : Option (Loaded × Nat) :=
  r.bind fun r => m.bind fun m => if m.next < r then some (m, r) else none

/-- The stock after a realign. -/
def StockRegister.passing (l : Lane) (p : Option (Loaded × Nat)) (r : StockRegister) : StockRegister :=
  match p with
  | none => r
  | some (m, n) => { r with
      mags := r.mags.upd l fun _ => some { m with next := n }
      counters := r.counters.upd m.kind fun c => { c with lost := c.lost + (n - m.next) } }

/-- The entry of serials passed over. -/
def lostEntries (l : Lane) (p : Option (Loaded × Nat)) : List EntryBody :=
  match p with
  | none => []
  | some (m, r) => [.lost m.kind m.next (r - m.next) l]

/-- The lane whose capture a realign has removed. -/
def LaneRec.realigned (r : Option Nat) (q : LaneRec) : LaneRec :=
  if r.isSome then { q with feed := { q.feed with last := none, since := 0 } } else q

/-- The part's records after a realign. -/
def realignBench (l : Lane) (r : Option Nat) (p : Option (Loaded × Nat)) (s : State) : State :=
  { s with stock := s.stock.passing l p, lanes := s.lanes.upd l (LaneRec.realigned r) }

theorem realignBench_inward (l : Lane) (r : Option Nat) (p : Option (Loaded × Nat)) : Inward (realignBench l r p) := fun _ _ _ _ => rfl

theorem applyRealign_eq {s : State} (quiet : s.host.busIn = none) (l : Lane) (r : Option Nat) : applyRealign l r s =
    giveAll (lostEntries l (passedOver s.stock.mags[l] r)) (realignBench l r (passedOver s.stock.mags[l] r) s) := by
  cases r with
  | none =>
    have lanes : s.lanes.upd l (LaneRec.realigned none) = s.lanes := upd_self rfl
    show s = { s with stock := s.stock, lanes := s.lanes.upd l (LaneRec.realigned none) }
    rw [lanes]
  | some n =>
    unfold applyRealign realign
    rw [State.mag]
    cases mag : s.stock.mags[l] with
    | none => rfl
    | some m =>
      dsimp only [passedOver, Option.bind_some]
      by_cases passes : m.next < n
      · rw [if_pos passes, if_pos passes]
        have inward : Inward fun s => s.onFeed l FeedMonitor.forget := fun _ _ _ _ => rfl
        exact (give_inward inward (s := (s.onCounters m.kind fun c => c.addLost (n - m.next)).setMag l (some { m with next := n })) quiet
          rfl rfl (.lost m.kind m.next (n - m.next) l)).symm
      · rw [if_neg passes, if_neg passes]
        rfl

/-! ### The resume (R145) -/

/-- The part's records after a resume. -/
def resumeBench (l : Lane) (s : State) : State :=
  { s with
    lanes := s.lanes.upd l (startedLane s.office.settings)
    faults := { s.faults with recs := s.faults.recs.upd l fun r => { r with active := none } } }

theorem resumeBench_inward (l : Lane) : Inward (resumeBench l) := fun _ _ _ _ => rfl

/-- No other record than that of the lane is ACTIVE. -/
def othersClear (s : State) (l : Lane) : Bool := noActive (resumeBench l s)

theorem othersClear_iff (s : State) (l : Lane) :
    othersClear s l = true ↔ ∀ m : Lane, m ≠ l → s.faults.recs[m].active = none := by
  have row : ∀ m : Lane, (s.faults.recs.upd l fun r => { r with active := none })[m].active =
      if m = l then none else s.faults.recs[m].active := fun m => by
    rw [Table.upd_get]
    split <;> rfl
  have all : othersClear s l = true ↔
      ∀ m : Lane, (s.faults.recs.upd l fun r => { r with active := none })[m].active = none := by
    unfold othersClear noActive resumeBench
    rw [List.all_eq_true]
    constructor
    · intro h m
      exact Option.isNone_iff_eq_none.1 (h _ (Vector.mem_toList_iff.2 (Vector.getElem_mem m.isLt)))
    · intro h r mem
      obtain ⟨i, lt, rfl⟩ := List.getElem_of_mem mem
      rw [Vector.getElem_toList]
      exact Option.isNone_iff_eq_none.2 (h ⟨i, by simpa using lt⟩)
  rw [all]
  refine forall_congr' fun m => ?_
  rw [row]
  by_cases here : m = l
  · exact iff_of_true (if_pos here) fun h => absurd here h
  · rw [if_neg here]
    exact ⟨fun h _ => h, fun h => h here⟩

/-- The entries of a resume. -/
def resumeEntries (l : Lane) : List EntryBody := [.faultCleared l, .lane l .starting .cleared]

theorem applyResume_eq {s : State} (quiet : s.host.busIn = none) (l : Lane) : applyResume l s = giveAll (resumeEntries l)
    (if othersClear s l then alertFalls (resumeBench l s) else resumeBench l s) := by
  obtain ⟨u, is⟩ : ∃ u, (if othersClear s l then alertFalls (onRecord l (fun r => { r with active := none }) s)
      else onRecord l (fun r => { r with active := none }) s) = u := ⟨_, rfl⟩
  have quietU : u.host.busIn = none := by
    rw [← is]
    split <;> exact quiet
  have settings : u.office = s.office := by
    rw [← is]
    split <;> rfl
  have applies : applyResume l s = toStarting l .cleared (give (.faultCleared l) u) := by
    rw [← is]
    rfl
  have given := give_journalled quietU (.faultCleared l)
  have inward : Inward fun s => s.onLane l (startedLane u.office.settings) := fun _ _ _ _ => rfl
  have office : (give (.faultCleared l) u).office = u.office := by rw [given.rest]
  rw [applies, toStarting_eq l .cleared (given.quiet quietU), office]
  refine (congrArg (give (.lane l .starting .cleared)) (give_inward inward quietU rfl rfl (.faultCleared l)).symm).trans ?_
  rw [← is, resumeEntries, giveAll_cons]
  refine congrArg (fun t => give (.lane l .starting .cleared) (give (.faultCleared l) t)) ?_
  split <;> rfl

end Sys2Proof.Machine
end

section
/-! Settling FaultClearDone (R142 to R146). -/

namespace Sys2Proof.Machine

/-- The part's records after the realign and the resume of a FAULT CLEAR. -/
def clearBench (was : Bool) (l : Lane) (r : Option Nat) (p : Option (Loaded × Nat)) (go : Bool) (s : State) : State :=
  stallEdge was l (if go then resumeBench l (realignBench l r p s) else realignBench l r p s)

theorem clearBench_inward (was : Bool) (l : Lane) (r : Option Nat) (p : Option (Loaded × Nat)) (go : Bool) :
    Inward (clearBench was l r p go) := by
  cases go
  · exact (Inward.stallEdge was l).comp (realignBench_inward l r p)
  · exact (Inward.stallEdge was l).comp ((resumeBench_inward l).comp (realignBench_inward l r p))

/-- The entries of a FAULT CLEAR after its declarations. -/
def clearEntries (l : Lane) (p : Option (Loaded × Nat)) (go : Bool) : List EntryBody :=
  lostEntries l p ++ if go then resumeEntries l else []

theorem alertFalls_edge (was : Bool) (l : Lane) (s : State) : stallEdge was l (alertFalls s) = alertFalls (stallEdge was l s) := by
  rw [stallEdge_eq, stallEdge_eq]
  rfl

/-- The changes of a FAULT CLEAR after its declarations: one change of the part's records, its entries, and the alert. -/
theorem applyFaultClear_eq {k v : State} (quiet : v.host.busIn = none) (l : Lane) (b : ClearBody) (is : declareAll l b.decls k = v)
    {go : Bool} {p : Option (Loaded × Nat)} (goes : resumes v l b.resume = go) (passes : passedOver v.stock.mags[l] b.realign = p) :
    applyFaultClear l b k = if go && othersClear v l then
        alertFalls (giveAll (clearEntries l p go) (clearBench (stalled k l) l b.realign p go v))
      else giveAll (clearEntries l p go) (clearBench (stalled k l) l b.realign p go v) := by
  have applies : applyFaultClear l b k = stallEdge (stalled k l) l
      (if go then applyResume l (applyRealign l b.realign v) else applyRealign l b.realign v) := by
    rw [← goes, ← is]
    rfl
  have edge : ∀ (es : List EntryBody) {u : State}, u.host.busIn = none →
      stallEdge (stalled k l) l (giveAll es u) = giveAll es (stallEdge (stalled k l) l u) := fun es u q => by
    have office : (stallEdge (stalled k l) l u).office = u.office := (LaneOnly.stallEdge _ l u).office
    exact (giveAll_inward (Inward.stallEdge (stalled k l) l) q (by rw [office]) (by rw [office]) es).symm
  rw [applies, applyRealign_eq quiet, passes]
  obtain ⟨u, isU⟩ : ∃ u, realignBench l b.realign p v = u := ⟨_, rfl⟩
  have quietU : u.host.busIn = none := by rw [← isU]; exact quiet
  rw [isU, clearBench, isU, clearEntries]
  cases go
  · rw [if_neg Bool.false_ne_true, Bool.false_and, if_neg Bool.false_ne_true, if_neg Bool.false_ne_true, if_neg Bool.false_ne_true,
      List.append_nil]
    exact edge _ quietU
  · have given := giveAll_journalled quietU (lostEntries l p)
    have clear : othersClear (giveAll (lostEntries l p) u) l = othersClear v l := by
      have faults : (giveAll (lostEntries l p) u).faults = v.faults := by rw [given.rest, ← isU]; rfl
      unfold othersClear resumeBench noActive
      rw [faults]
    have resumed : resumeBench l (giveAll (lostEntries l p) u) = giveAll (lostEntries l p) (resumeBench l u) :=
      (giveAll_inward (resumeBench_inward l) quietU rfl rfl _).symm
    have quietR : (resumeBench l u).host.busIn = none := quietU
    rw [if_pos rfl, Bool.true_and, if_pos rfl, if_pos rfl, applyResume_eq (given.quiet quietU), clear, resumed]
    cases othersClear v l
    · rw [if_neg Bool.false_ne_true, if_neg Bool.false_ne_true, ← giveAll_append]
      exact edge _ quietR
    · rw [if_pos rfl, if_pos rfl, ← giveAll_alertFalls quietR, ← giveAll_append,
        giveAll_alertFalls quietR, alertFalls_edge]
      exact congrArg alertFalls (edge _ quietR)

/-- A FAULT CLEAR that passes its checks is accepted (R142). -/
theorem faultClear_accepts {s : State} {b : ClearBody} {l : Lane} (lane : b.lane = l.val) (few : b.decls.length ≤ 4)
    (ranges : ∀ d ∈ b.decls, d.serial ≤ 99999999 ∧ d.outcome ≠ none) (distinct : (b.decls.map Declaration.serial).Nodup)
    (idle : s.lanes[l].state ≠ .starting) (found : ∀ d ∈ b.decls, ∃ e ∈ s.stock.doubts, e.lane = l ∧ e.serial = d.serial)
    (realigns : ∀ r, b.realign = some r → r ≤ 100000000 ∧ b.resume = true ∧ ¬ Working s l ∧
      (s.lanes[l].state ≠ .holding → s.lanes[l].queue = []) ∧
      (∀ e ∈ s.stock.doubts, e.lane = l → ∃ d ∈ b.decls, d.serial = e.serial) ∧
      ∃ m, s.stock.mags[l] = some m ∧ m.next ≤ r ∧ r ≤ m.last + 1) :
    faultClearVerdict b s = .accept (applyFaultClear l b)
      (some fun t => (.done, clearAnswer l (resumes (declareAll l b.decls s) l b.resume) t)) := by
  have inRange : clearRanges b = true := by
    rw [← Bool.not_eq_false', clearRanges_not, Bool.or_eq_false_iff, List.any_eq_false]
    refine ⟨fun d mem => ?_, ?_⟩
    · obtain ⟨small, some'⟩ := ranges d mem
      rw [decide_eq_true_eq, not_or, Nat.not_lt]
      exact ⟨small, some'⟩
    · cases is : b.realign with
      | none => rfl
      | some r => exact decide_eq_false (Nat.not_lt.2 (realigns r is).1)
  have known : (b.decls.any fun d => (doubtOf s l d.serial).isNone) = false := by
    rw [List.any_eq_false]
    intro d mem
    obtain ⟨e, inDoubt, at'⟩ := found d mem
    rw [doubtOf_isNone, List.all_eq_true]
    exact fun all => absurd (all e inDoubt) (by rw [Bool.not_eq_true', decide_eq_false_iff_not]; exact fun h => h at')
  have passes : clearRefusal l b s = none := by
    unfold clearRefusal
    rw [State.lane, if_neg idle, if_neg (not_not.2 distinct), known, if_neg Bool.false_ne_true]
    cases is : b.realign with
    | none => rfl
    | some r =>
      obtain ⟨-, resume, notWorking, -, all, m, mag, low, high⟩ := realigns r is
      have declared : declaresAll s l b.decls = true := by
        rw [declaresAll, List.all_eq_true]
        intro e mem
        obtain ⟨inDoubt, here⟩ := List.mem_filter.1 mem
        obtain ⟨d, inDecls, same⟩ := all e inDoubt (of_decide_eq_true here)
        exact List.any_eq_true.2 ⟨d, inDecls, decide_eq_true same⟩
      dsimp only
      unfold realignRefusal
      rw [resume, declared, State.mag, mag, State.lane]
      simp only [Bool.not_true, Bool.false_eq_true, if_false]
      rw [if_neg (show ¬ (s.lanes[l].state = .ready ∨ s.lanes[l].state = .printing) from notWorking), if_pos ⟨low, high⟩]
  rw [faultClearVerdict, if_neg (Nat.not_lt.2 few)]
  simp only [toIdx_eq_some.2 lane, inRange, if_true, clearVerdict, passes]

/-- The lane after a FAULT CLEAR (R144, R145). -/
theorem clearBench_lane {was : Bool} {l : Lane} {r : Option Nat} {p : Option (Loaded × Nat)} {go : Bool} {v : State}
    (stall : was = laneStalled v.lanes[l] v.stock.mags[l]) (holds : go = true → v.lanes[l].state = .holding)
    (still : go = false → v.lanes[l].state ≠ .holding → v.lanes[l].queue = [] ∨ p = none) :
    (clearBench was l r p go v).lanes[l] = if go then
        { startedLane v.office.settings (v.lanes[l].realigned r) with
          patience := if (v.lanes[l].realigned r).queue ≠ [] ∧ magSpent (v.stock.passing l p).mags[l] then
            (v.lanes[l].realigned r).patience else none }
      else v.lanes[l].realigned r := by
  have kept : (v.lanes[l].realigned r).state = v.lanes[l].state ∧ (v.lanes[l].realigned r).queue = v.lanes[l].queue := by
    unfold LaneRec.realigned
    split <;> exact ⟨rfl, rfl⟩
  have row : (realignBench l r p v).lanes[l] = v.lanes[l].realigned r := Table.upd_same _ _ _
  rw [clearBench, stallEdge_eq, State.onLane_same]
  cases go
  · rw [if_neg Bool.false_ne_true, if_neg Bool.false_ne_true, stalled_eq, row]
    have same : laneStalled (v.lanes[l].realigned r) (realignBench l r p v).stock.mags[l] = was := by
      rw [stall]
      by_cases holding : v.lanes[l].state = .holding
      · rw [laneStalled_holding (kept.1.trans holding), laneStalled_holding holding]
      · rw [laneStalled_working (by rw [kept.1]; exact holding), laneStalled_working holding, kept.2]
        rcases still rfl holding with empty | none
        · rw [empty]
          rfl
        · rw [none]
          rfl
    rw [same, LaneRec.edged_same]
  · have started : (resumeBench l (realignBench l r p v)).lanes[l] = startedLane v.office.settings (v.lanes[l].realigned r) := by
      show ((v.lanes.upd l _).upd l _)[l] = _
      rw [Table.upd_same, Table.upd_same]
      rfl
    have queue : (startedLane v.office.settings (v.lanes[l].realigned r)).queue = (v.lanes[l].realigned r).queue := by
      unfold startedLane
      split <;> rfl
    have patience : (startedLane v.office.settings (v.lanes[l].realigned r)).patience = (v.lanes[l].realigned r).patience := by
      unfold startedLane
      split <;> rfl
    have starting : (startedLane v.office.settings (v.lanes[l].realigned r)).state ≠ .holding := by
      unfold startedLane
      split <;> exact LaneState.noConfusion
    rw [if_pos rfl, if_pos rfl, stalled_eq, started, laneStalled_working starting, queue, stall, laneStalled_holding (holds rfl),
      LaneRec.edged, patience]
    refine congrArg (fun p => { startedLane v.office.settings (v.lanes[l].realigned r) with patience := p }) ?_
    have spent : (resumeBench l (realignBench l r p v)).stock = v.stock.passing l p := rfl
    rw [spent]
    cases (v.lanes[l].realigned r).queue <;> cases magSpent (v.stock.passing l p).mags[l] <;> rfl

end Sys2Proof.Machine
end

section
/-! Settling FaultClearDone: the changes of the take, in terms of the state after the declarations, and the take. -/

namespace Sys2Proof.Machine

theorem takenState_aside {s : State} (quiet : s.host.busIn = none) (r : OrderRule) (o : OrderHdr) (b : OrderBody) (src : Source) :
    Aside s (takenState s r o b src) := by
  obtain ⟨x, h, frame, same⟩ := takenState_frame s r o b src
  exact ⟨by rw [frame], takenState_sameJournal s r o b src, quiet, by rw [frame]; exact same.trans quiet⟩

/-- What the changes of a FAULT CLEAR come to: `v` is the state after the declarations, `k` the taken state, `t` the state after the
changes. -/
structure Cleared (l : Lane) (r : Option Nat) (go : Bool) (p : Option (Loaded × Nat)) (v k t : State) : Prop where
  rest    : t = { v with
    stock := t.stock, lanes := t.lanes, faults := t.faults, journal := t.journal, exch := t.exch, host := t.host }
  stock   : t.stock = v.stock.passing l p
  others  : OtherLanes l v t
  lane    : t.lanes[l] = if go then
      { startedLane v.office.settings (v.lanes[l].realigned r) with
        patience := if (v.lanes[l].realigned r).queue ≠ [] ∧ magSpent t.stock.mags[l] then
          (v.lanes[l].realigned r).patience else none }
    else v.lanes[l].realigned r
  faults  : t.faults = if go then { v.faults with recs := v.faults.recs.upd l fun r => { r with active := none } } else v.faults
  alert   : t.exch.alerts.lane = if go && othersClear v l then false else k.exch.alerts.lane
  journal : t.journal = (giveAll (clearEntries l p go) v).journal
  ring    : t.host.journal = (giveAll (clearEntries l p go) v).host.journal
  quiet   : t.host.busIn = none
  state   : t.exch.state = k.exch.state
  tags    : t.exch.tags = k.exch.tags
  regs    : SameRegisters k.exch t.exch

theorem giveAll_alertLane {s : State} (quiet : s.host.busIn = none) (bs : List EntryBody) :
    (giveAll bs s).exch.alerts.lane = s.exch.alerts.lane := by
  induction bs generalizing s with
  | nil => rfl
  | cons b bs ih => exact (ih ((give_journalled quiet b).quiet quiet)).trans (Declared.give_alertLane quiet b)

theorem faultClear_changes {s k v : State} (aside : Aside s k) (l : Lane) (b : ClearBody) (isV : declareAll l b.decls s = v) {go : Bool}
    {p : Option (Loaded × Nat)} (isGo : resumes v l b.resume = go) (isP : passedOver v.stock.mags[l] b.realign = p)
    (still : go = false → v.lanes[l].state ≠ .holding → v.lanes[l].queue = [] ∨ p = none) :
    Cleared l b.realign go p v k (applyFaultClear l b k) := by
  obtain ⟨u, isU⟩ : ∃ u, declareAll l b.decls k = u := ⟨_, rfl⟩
  have asideV : Aside v u := by
    rw [← isV, ← isU]
    exact aside.declareAll l b.decls
  have declared : Declared k u := by
    rw [← isU]
    exact Declared.declareAll aside.calm l b.decls
  have declaredV : Declared s v := by
    rw [← isV]
    exact Declared.declareAll aside.quiet l b.decls
  have stockU : u.stock = v.stock := by rw [asideV.rest]
  have lanesU : u.lanes = v.lanes := by rw [asideV.rest]
  have faultsU : u.faults = v.faults := by rw [asideV.rest]
  have goesU : resumes u l b.resume = go := by
    rw [← isGo, resumes, resumes, State.lane, State.lane, doubtful, doubtful, stockU, lanesU]
  have clearU : othersClear u l = othersClear v l := by
    unfold othersClear noActive resumeBench
    rw [faultsU]
  have changes := applyFaultClear_eq asideV.calm l b isU goesU (p := p) (by rw [stockU]; exact isP)
  rw [clearU] at changes
  have stall : stalled k l = laneStalled u.lanes[l] u.stock.mags[l] := by
    rw [stalled_eq, declared.lanes, declared.mags]
  have row := clearBench_lane (r := b.realign) (p := p) (go := go) stall
    (fun goes => by
      rw [goes, resumes, Bool.and_eq_true, Bool.and_eq_true, decide_eq_true_eq] at goesU
      exact goesU.1.2)
    (by rw [lanesU]; exact still)
  have inward := clearBench_inward (stalled k l) l b.realign p go
  have bench := inward.rest u
  have others : OtherLanes l v (clearBench (stalled k l) l b.realign p go u) := fun m other => by
    have realigned : (realignBench l b.realign p u).lanes[m] = v.lanes[m] := by
      rw [← lanesU]
      exact Table.upd_ne _ _ _ _ other
    rw [clearBench, stallEdge_eq, State.onLane_ne _ _ other]
    split
    · exact (Table.upd_ne _ _ _ _ other).trans realigned
    · exact realigned
  have records : (clearBench (stalled k l) l b.realign p go u) = { v with
      stock := v.stock.passing l p, lanes := (clearBench (stalled k l) l b.realign p go u).lanes
      faults := if go then { v.faults with recs := v.faults.recs.upd l fun r => { r with active := none } } else v.faults
      journal := u.journal, exch := u.exch, host := u.host } := by
    rw [clearBench, stallEdge_eq, asideV.rest]
    cases go <;> rfl
  have same : SameJournal v (clearBench (stalled k l) l b.realign p go u) := by
    rw [records]
    exact ⟨asideV.same.journal, asideV.same.ring, asideV.same.alerts, asideV.same.state, asideV.same.base, asideV.same.offset, rfl, rfl⟩
  obtain ⟨g, isG⟩ : ∃ g, clearBench (stalled k l) l b.realign p go u = g := ⟨_, rfl⟩
  rw [isG] at changes row others records same
  have quietG : g.host.busIn = none := by rw [records]; exact asideV.calm
  have given := giveAll_journalled quietG (clearEntries l p go)
  have alike := giveAll_same same asideV.quiet quietG (clearEntries l p go)
  have alert := giveAll_alertLane quietG (clearEntries l p go)
  obtain ⟨x, isX⟩ : ∃ x, giveAll (clearEntries l p go) g = x := ⟨_, rfl⟩
  rw [isX] at changes given alike alert
  have exchG : g.exch = u.exch := by rw [records]
  have alertG : x.exch.alerts.lane = k.exch.alerts.lane := by rw [alert, exchG, declared.lane]
  have stock : x.stock = v.stock.passing l p := by rw [given.rest, records]
  have lanes : x.lanes = g.lanes := by rw [given.rest]
  have faults : x.faults = if go then { v.faults with recs := v.faults.recs.upd l fun r => { r with active := none } } else v.faults := by
    rw [given.rest, records]
  have restX : x = { v with
      stock := x.stock, lanes := x.lanes, faults := x.faults, journal := x.journal, exch := x.exch, host := x.host } := by
    rw [stock, lanes, faults]
    conv_lhs => rw [given.rest, records]
  have exchX : x.exch = { u.exch with alerts := x.exch.alerts } := by rw [given.exch, exchG]
  have regs : SameRegisters k.exch x.exch := declared.regs.trans (by rw [exchX]; constructor <;> rfl)
  have state : x.exch.state = k.exch.state := by rw [exchX]; exact declared.state
  have tags : x.exch.tags = k.exch.tags := by rw [exchX]; exact declared.tags
  have settings : u.office.settings = v.office.settings := by rw [asideV.rest]
  rw [settings, lanesU, stockU, ← stock, ← lanes] at row
  have othersX : OtherLanes l v x := fun m other => by rw [lanes]; exact others m other
  rw [changes]
  cases falls : go && othersClear v l
  · rw [if_neg Bool.false_ne_true]
    exact ⟨restX, stock, othersX, row, faults, by rw [falls, if_neg Bool.false_ne_true]; exact alertG, alike.journal, alike.ring,
      given.quiet quietG, state, tags, regs⟩
  · rw [if_pos rfl]
    exact ⟨congrArg alertFalls restX, stock, othersX, row, faults, by rw [falls]; rfl, alike.journal, alike.ring,
      given.quiet quietG, state, tags, ⟨regs.areaBase, regs.enable, regs.answerNotice, regs.journalNotice, regs.alertNotice, regs.period,
        regs.latchedCount, regs.latchedOffset⟩⟩

/-- Settles O7: the declarations made under the taken state as under the offered one, then one change of the part's records with
the entries it gives, and the answer. -/
theorem faultClearDone : Obligations.FaultClearDone := by
  intro s o b l tag takeable lane few ranges distinct idle found realigns
  obtain ⟨v, isV⟩ : ∃ v, declareAll l b.decls s = v := ⟨_, rfl⟩
  obtain ⟨k, isK⟩ : ∃ k, takenState s faultClearRule o (.faultClear b) 12 = k := ⟨_, rfl⟩
  obtain ⟨go, isGo⟩ : ∃ go, resumes v l b.resume = go := ⟨_, rfl⟩
  obtain ⟨p, isP⟩ : ∃ p, passedOver v.stock.mags[l] b.realign = p := ⟨_, rfl⟩
  have aside : Aside s k := isK ▸ takenState_aside takeable.quiet faultClearRule o (.faultClear b) 12
  have declared : Declared s v := isV ▸ Declared.declareAll takeable.quiet l b.decls
  have still : go = false → v.lanes[l].state ≠ .holding → v.lanes[l].queue = [] ∨ p = none := fun _ notHolding => by
    rw [declared.lanes] at notHolding ⊢
    cases is : b.realign with
    | none => exact .inr (by rw [← isP, is]; rfl)
    | some r =>
      obtain ⟨-, -, -, empty, -⟩ := realigns r is
      exact .inl (empty notHolding)
  have cleared := faultClear_changes aside l b isV isGo isP still
  have verdict : verdictOf faultClearRule o 12 (fun _ => faultClearVerdict b) s = .accept (applyFaultClear l b)
      (some fun t => (.done, clearAnswer l go t)) := by
    rw [takeable.verdict rfl rfl, faultClear_accepts lane few ranges distinct idle found realigns, isV, isGo]
  obtain ⟨-, taken, kept⟩ := takenState_kept s faultClearRule o (.faultClear b) 12
  obtain ⟨x, isX⟩ : ∃ x, applyFaultClear l b k = x := ⟨_, rfl⟩
  obtain ⟨srcs, served⟩ := takeOrder_done (r := faultClearRule) (b := .faultClear b) (j := o.slot)
    (owner := fun _ _ _ => faultClearVerdict b) takeable.toOffers verdict (by rw [isK]; exact cleared.quiet)
    (by rw [isK, cleared.state, aside.same.state]; exact takeable.running) fun _ => written_unposted _ _ _
  rw [isK] at served taken kept
  rw [isX] at served cleared
  obtain ⟨t, isT⟩ : ∃ t, takeOrder faultClearRule o (.faultClear b) Env.quiet (fun _ _ _ => faultClearVerdict b) s = t := ⟨_, rfl⟩
  rw [isT] at served
  have rest : t = { x with exch := t.exch, host := t.host } := served.rest
  have clock : x.office.clock = s.office.clock := by rw [cleared.rest]; exact congrArg OfficeControl.clock declared.office
  have stock : t.stock = v.stock.passing l p := by rw [rest]; exact cleared.stock
  have faults : t.faults = x.faults := by rw [rest]
  have settings : v.office.settings = s.office.settings := by rw [declared.office]
  refine ⟨t, v, go, p, congrArg Host.Outcome.next isT, isV.symm, ?_, isP.symm, ?_, ?_, fun m other => ?_, ⟨_, rfl, ?_⟩, fun m other => ?_, ?_,
    ?_, ?_, ⟨_, rfl, ?_, ?_⟩, ?_, ⟨?_, fun w other => ?_⟩, ?_⟩
  · rw [← isGo, resumes, State.lane, declared.lanes]
    rfl
  · rw [rest, cleared.rest]
  · rw [stock]
    unfold StockRegister.passing
    cases p <;> rfl
  · rw [rest]
    exact (cleared.others m other).trans (by rw [declared.lanes])
  · have row := cleared.lane
    rw [show x.lanes[l] = t.lanes[l] by rw [rest], show x.stock = t.stock by rw [rest], settings, declared.lanes] at row
    exact row
  · rw [faults, cleared.faults]
    split
    · exact (Table.upd_ne _ _ _ _ other).trans (by rw [declared.faults])
    · rw [declared.faults]
  · rw [faults, cleared.faults]
    split
    · rw [declared.faults]
    · rw [declared.faults]
  · rw [faults, cleared.faults]
    split
    · rw [Table.upd_same, declared.faults]
    · rw [declared.faults]
  · have alert : t.exch.alerts.lane = if go && othersClear v l then false else s.exch.alerts.lane := by
      rw [served.alerts]
      refine cleared.alert.trans ?_
      rw [aside.same.alerts]
    rw [alert]
    refine if_congr ?_ rfl rfl
    rw [Bool.and_eq_true, othersClear_iff, declared.faults]
  · rw [rest]
    exact cleared.journal
  · rw [served.ring]
    exact cleared.ring
  · have fields : clearAnswer l go x = .faultClear l (v.stock.doubts.countP fun e => decide (e.lane = l)) go
        t.faults.recs[l].active.isSome (t.stock.mags[l].map Loaded.next) := by
      have doubts : x.stock.doubts = v.stock.doubts := by
        rw [cleared.stock]
        unfold StockRegister.passing
        cases p <;> rfl
      rw [clearAnswer, doubtsOf, doubts, ← List.countP_eq_length_filter, State.mag, rest]
    have slot := served.slot.trans (Table.upd_same _ _ _)
    rw [clock] at slot
    dsimp only at slot
    rw [fields] at slot
    exact ⟨slot, served.mark.trans (Table.upd_same _ _ _), served.context.trans (Table.upd_same _ _ _)⟩
  · rw [served.tags]
    exact (congrArg (fun ts : Table 13 Tag => ts[(12 : Source)]) cleared.tags).trans taken.tag
  · rw [served.tags]
    exact (congrArg (fun ts : Table 13 Tag => ts[w]) cleared.tags).trans (taken.tags w other)
  · exact (kept.registers.trans cleared.regs).trans (SameRegisters.trans (y := (written o.slot
      ⟨.done, faultClearRule.code, tag, x.office.clock, clearAnswer l go x⟩ x).exch) (by constructor <;> rfl) served.kept.registers)

end Sys2Proof.Machine
end

section
/-! The move of a lane to HOLDING (R130): the desk's part and the bench's part. -/

namespace Sys2Proof.Machine

/-! ### The jobs in doubt at the desk and at the bench -/

/-- The IN_DOUBT entry of a job (R67). -/
def doubtBody (l : Lane) (k : FaultKind) (j : Job) (n : Nat) : EntryBody := .inDoubt j.kind n l j.window j.total (.fault k) j.tag

/-- A job that ends IN_DOUBT, at the desk. -/
def doubtDesk (l : Lane) (k : FaultKind) (s : State) (j : Job) : State :=
  match j.serial with
  | none => s
  | some n => testCashUp j.window (answerIssue l j .inDoubt (some n) (some (.fault k))
      (give (doubtBody l k j n) (s.onDrawer j.window fun d => (d.suspend j.total).liveDown)))

/-- The In-Doubt List entry of a job (R7). -/
def Job.doubtEntry (j : Job) (l : Lane) (k : FaultKind) (n : Nat) : DoubtEntry :=
  ⟨j.kind, n, l, j.window, j.shift, j.total, j.tender, j.tag, .fault k⟩

/-- A job that ends IN_DOUBT, at the bench. -/
def doubtBench (l : Lane) (k : FaultKind) (s : State) (j : Job) : State :=
  match j.serial with
  | none => s
  | some n => leaveOut l j.buffer
      ((dropFlight j.kind n (s.onStock fun r => { r with doubts := r.doubts ++ [j.doubtEntry l k n] })).setImage j.buffer none)

theorem doubtDesk_desk (l : Lane) (k : FaultKind) (j : Job) : Desk fun s => doubtDesk l k s j := by
  unfold doubtDesk
  cases j.serial with
  | none => exact Desk.id
  | some n =>
    exact (Desk.testCashUp _).comp ((Desk.answerIssue l j _ _ _).comp ((Desk.give _).comp (Desk.onDrawer _ _)))

theorem doubtBench_bench (l : Lane) (k : FaultKind) (j : Job) : Bench fun s => doubtBench l k s j := by
  unfold doubtBench
  cases j.serial with
  | none => exact Bench.id
  | some n => exact (Bench.leaveOut _ _).comp ((Bench.setImage _ _).comp ((Bench.dropFlight _ _).comp (Bench.onStock _)))

theorem endInDoubt_eq (l : Lane) (k : FaultKind) (j : Job) (s : State) :
    endInDoubt l k j s = doubtBench l k (doubtDesk l k s j) j := by
  unfold endInDoubt doubtBench doubtDesk
  cases j.serial with
  | none => rfl
  | some n =>
    have records : Bench fun s => dropFlight j.kind n (s.onStock fun r => { r with doubts := r.doubts ++ [j.doubtEntry l k n] }) :=
      (Bench.dropFlight _ _).comp (Bench.onStock _)
    have entry : Desk fun s => give (doubtBody l k j n) (s.onDrawer j.window fun d => (d.suspend j.total).liveDown) :=
      (Desk.give _).comp (Desk.onDrawer _ _)
    have first := entry.commutes records s
    have second := (Desk.answerIssue l j .inDoubt (some n) (some (.fault k))).commutes ((Bench.setImage j.buffer none).comp records)
      (give (doubtBody l k j n) (s.onDrawer j.window fun d => (d.suspend j.total).liveDown))
    have bench : Bench fun s => leaveOut l j.buffer
        ((dropFlight j.kind n (s.onStock fun r => { r with doubts := r.doubts ++ [j.doubtEntry l k n] })).setImage j.buffer none) :=
      (Bench.leaveOut _ _).comp ((Bench.setImage _ _).comp records)
    have third := (Desk.testCashUp j.window).commutes bench (answerIssue l j .inDoubt (some n) (some (.fault k))
      (give (doubtBody l k j n) (s.onDrawer j.window fun d => (d.suspend j.total).liveDown)))
    exact (congrArg (fun t => testCashUp j.window (leaveOut l j.buffer (answerIssue l j .inDoubt (some n) (some (.fault k))
      (State.setImage t j.buffer none)))) first).trans ((congrArg (fun t => testCashUp j.window (leaveOut l j.buffer t)) second).trans third)

/-- The jobs in doubt, the desk's part of all of them first. -/
theorem foldl_endInDoubt (l : Lane) (k : FaultKind) (js : List Job) (s : State) :
    js.foldl (fun s j => endInDoubt l k j s) s = js.foldl (doubtBench l k) (js.foldl (doubtDesk l k) s) := by
  induction js generalizing s with
  | nil => rfl
  | cons j js ih =>
    have desk : Desk fun s => js.foldl (doubtDesk l k) s := Desk.foldl (f := doubtDesk l k) (doubtDesk_desk l k) js
    rw [List.foldl_cons, List.foldl_cons, List.foldl_cons, ih, endInDoubt_eq]
    exact congrArg (fun t => js.foldl (doubtBench l k) t) (desk.commutes (doubtBench_bench l k j) (doubtDesk l k s j))

/-! ### The move to HOLDING -/

/-- The jobs of a list whose blank is in doubt at a holding fault: FED or PRINTED (R130). -/
def inDoubtOf (js : List Job) : List Job := js.filter fun j => decide (j.state = .fed ∨ j.state = .printed)

/-- The move to HOLDING at the desk: its LANE entry, and the jobs in doubt. -/
def heldDesk (l : Lane) (k : FaultKind) (js : List Job) (s : State) : State :=
  js.foldl (doubtDesk l k) (give (.lane l .holding .fault) s)

theorem heldDesk_desk (l : Lane) (k : FaultKind) (js : List Job) : Desk (heldDesk l k js) :=
  (Desk.foldl (f := doubtDesk l k) (doubtDesk_desk l k) js).comp (Desk.give _)

/-- The lane HOLDING, its jobs out dealt with, at the bench. -/
def heldBench (was : Bool) (l : Lane) (k : FaultKind) (out : List Job) (s : State) : State :=
  let t := recallSent l ((inDoubtOf out).foldl (doubtBench l k) (s.onLane l fun r => { r with state := .holding }))
  stallEdge was l (if out.isEmpty then t else requestFlush l (flushLimit (out.filter fun j => decide (j.state = .sent))) t)

/-- The lane with the blanks of several jobs in doubt. -/
theorem foldl_doubtBench_lanes (l : Lane) (k : FaultKind) {js : List Job} (serials : ∀ j ∈ js, j.serial ≠ none) (s : State) :
    (js.foldl (doubtBench l k) s) = { s with
      stock := { s.stock with
        doubts := s.stock.doubts ++ js.filterMap fun j => j.serial.map fun n => j.doubtEntry l k n }
      images := js.foldl (fun im j => im.upd j.buffer fun _ => none) s.images
      office := { s.office with flight := withoutSerials (serialsOf js) s.office.flight }
      lanes := s.lanes.upd l fun r => js.foldl (fun r j => r.left j.buffer) r } := by
  induction js generalizing s with
  | nil =>
    have kept : withoutSerials (serialsOf []) s.office.flight = s.office.flight := List.filter_eq_self.2 fun e _ => by simp [serialsOf]
    have lanes : (s.lanes.upd l fun r => List.foldl (fun (r : LaneRec) (j : Job) => r.left j.buffer) r []) = s.lanes := upd_self rfl
    rw [kept, lanes, List.filterMap_nil, List.append_nil]
    rfl
  | cons j js ih =>
    obtain ⟨n, serial⟩ := Option.ne_none_iff_exists'.1 (serials j List.mem_cons_self)
    have one : doubtBench l k s j = { s with
        stock := { s.stock with doubts := s.stock.doubts ++ [j.doubtEntry l k n] }
        images := s.images.upd j.buffer fun _ => none
        office := { s.office with flight := withoutSerial j.kind n s.office.flight }
        lanes := s.lanes.upd l (LaneRec.left j.buffer) } := by
      unfold doubtBench
      rw [serial]
      dsimp only
      rw [leaveOut_eq, dropFlight_eq]
      rfl
    have flight : withoutSerials (serialsOf js) (withoutSerial j.kind n s.office.flight) = withoutSerials (serialsOf (j :: js)) s.office.flight := by
      have cons : serialsOf (j :: js) = (j.kind, n) :: serialsOf js := by rw [serialsOf, List.filterMap_cons, serial]; rfl
      rw [cons, withoutSerials, withoutSerial, withoutSerials, List.filter_filter]
      refine List.filter_congr fun e _ => ?_
      rw [Bool.eq_iff_iff]
      simp only [Bool.and_eq_true, Bool.not_eq_true', decide_eq_false_iff_not, List.mem_cons, Prod.ext_iff]
      exact ⟨fun h c => c.elim h.2 h.1, fun h => ⟨fun c => h (.inr c), fun c => h (.inl c)⟩⟩
    have doubts : (j :: js).filterMap (fun j => j.serial.map fun n => j.doubtEntry l k n) =
        j.doubtEntry l k n :: js.filterMap fun j => j.serial.map fun n => j.doubtEntry l k n := by
      rw [List.filterMap_cons, serial]
      rfl
    rw [List.foldl_cons, one, ih fun i mem => serials i (List.mem_cons_of_mem _ mem)]
    dsimp only
    rw [upd_twice, flight, doubts, List.append_assoc]
    rfl

theorem sentJobs_held (l : Lane) (k : FaultKind) {js : List Job} (serials : ∀ j ∈ js, j.serial ≠ none) (s : State) :
    sentJobs (js.foldl (doubtBench l k) s) l = (js.foldl (fun r j => r.left j.buffer) s.lanes[l] : LaneRec).sentJobs := by
  rw [foldl_doubtBench_lanes l k serials, sentJobs, State.lane, Table.upd_same]
  rfl

/-- The lane after its jobs in doubt have left, HOLDING. -/
theorem foldl_left_holding (js : List Job) {r : LaneRec} (holding : r.state = .holding) :
    js.foldl (fun r j => r.left j.buffer) r = { r with
      out := r.out.filter fun i => decide (i.buffer ∉ js.map Job.buffer), credits := r.credits + js.length } := by
  induction js generalizing r with
  | nil => simp
  | cons j js ih =>
    have left : r.left j.buffer = { r with out := r.out.filter fun i => decide (i.buffer ≠ j.buffer), credits := r.credits + 1 } := by
      unfold LaneRec.left
      rw [if_neg fun h => by rw [holding] at h; exact (nomatch h.1)]
    have filtered : (r.out.filter fun i => decide (i.buffer ≠ j.buffer)).filter (fun i => decide (i.buffer ∉ js.map Job.buffer)) =
        r.out.filter fun i => decide (i.buffer ∉ (j :: js).map Job.buffer) := by
      rw [List.filter_filter]
      refine List.filter_congr fun i _ => ?_
      rw [Bool.eq_iff_iff]
      simp only [Bool.and_eq_true, decide_eq_true_eq, List.map_cons, List.mem_cons, not_or]
      exact And.comm
    rw [List.foldl_cons, left, ih (by exact holding)]
    dsimp only
    rw [filtered, List.length_cons, Nat.add_assoc, Nat.add_comm 1]

end Sys2Proof.Machine
end

section
/-! The move of a lane to HOLDING (R130): what it leaves. -/

namespace Sys2Proof.Machine

/-- The jobs out of a lane are SENT, or FED or PRINTED with a serial, each in a buffer of its own. -/
structure Settling (r : LaneRec) : Prop where
  jobs  : ∀ j ∈ r.out, j.state = .sent ∨ (j.state = .fed ∨ j.state = .printed) ∧ j.serial ≠ none
  apart : (r.out.map Job.buffer).Nodup

/-- What stays when the jobs in doubt have left are the SENT jobs. -/
theorem Settling.stays {r : LaneRec} (h : Settling r) :
    (r.out.filter fun i => decide (i.buffer ∉ (inDoubtOf r.out).map Job.buffer)) = r.sentJobs := by
  refine List.filter_congr fun i mem => decide_eq_decide.2 ⟨fun stays => ?_, fun sent doubt => ?_⟩
  · rcases h.jobs i mem with sent | ⟨doubt, -⟩
    · exact sent
    · exact absurd (List.mem_map_of_mem (List.mem_filter.2 ⟨mem, decide_eq_true doubt⟩)) stays
  · obtain ⟨j, inDoubt, same⟩ := List.mem_map.1 doubt
    obtain ⟨out, state⟩ := List.mem_filter.1 inDoubt
    obtain rfl := List.inj_on_of_nodup_map h.apart out mem same
    rw [decide_eq_true_eq, sent] at state
    rcases state with c | c <;> exact (nomatch c)

theorem Settling.serials {r : LaneRec} (h : Settling r) : ∀ j ∈ inDoubtOf r.out, j.serial ≠ none := fun j mem => by
  obtain ⟨out, state⟩ := List.mem_filter.1 mem
  rcases h.jobs j out with sent | ⟨-, serial⟩
  · rw [decide_eq_true_eq, sent] at state
    rcases state with c | c <;> exact (nomatch c)
  · exact serial

/-- The jobs in doubt and the SENT jobs are all the jobs out. -/
theorem Settling.length {r : LaneRec} (h : Settling r) : (inDoubtOf r.out).length + r.sentJobs.length = r.out.length := by
  have stays := List.length_eq_length_filter_add (l := r.out) fun j => decide (j.state = .sent)
  have doubt : inDoubtOf r.out = r.out.filter fun j => !decide (j.state = .sent) := by
    refine List.filter_congr fun j mem => ?_
    rw [← decide_not]
    refine decide_eq_decide.2 ⟨fun doubt sent => by rw [sent] at doubt; rcases doubt with c | c <;> exact (nomatch c), fun unsent => ?_⟩
    rcases h.jobs j mem with sent | ⟨doubt, -⟩
    · exact absurd sent unsent
    · exact doubt
  rw [doubt]
  show _ + (r.out.filter _).length = _
  omega

/-- The lane HOLDING after its jobs in doubt have left. -/
theorem Settling.left {r : LaneRec} (h : Settling r) :
    ((inDoubtOf r.out).foldl (fun r j => r.left j.buffer) { r with state := .holding } : LaneRec) =
      { r with state := .holding, out := r.sentJobs, credits := r.credits + (inDoubtOf r.out).length } := by
  rw [foldl_left_holding _ rfl]
  dsimp only
  rw [h.stays]

theorem sentJobs_sentJobs (r : LaneRec) : (r.sentJobs.filter fun j => decide (j.state = .sent)) = r.sentJobs := by
  rw [LaneRec.sentJobs, List.filter_filter]
  simp only [Bool.and_self]

/-- The lane after the recall: HOLDING with no job out. -/
def LaneRec.heldOut (r : LaneRec) : LaneRec :=
  { r with
    state := .holding, out := [], credits := r.credits + r.out.length
    queue := r.sentJobs.foldl (fun q j => insertJob j.requeue q) r.queue }

theorem Settling.recalled {r : LaneRec} (h : Settling r) :
    ({ r with state := .holding, out := r.sentJobs, credits := r.credits + (inDoubtOf r.out).length } : LaneRec).recalled = r.heldOut := by
  have none' : (r.sentJobs.filter fun j => decide (j.state ≠ .sent)) = [] := List.filter_eq_nil_iff.2 fun j mem => by
    rw [decide_eq_true_eq, not_not]
    exact of_decide_eq_true (List.mem_filter.1 mem).2
  unfold LaneRec.recalled LaneRec.heldOut
  dsimp only
  rw [none', show ({ r with state := .holding, out := r.sentJobs, credits := r.credits + (inDoubtOf r.out).length } : LaneRec).sentJobs =
    r.sentJobs from sentJobs_sentJobs r, Nat.add_assoc, h.length]

/-- The lane after a move to HOLDING (R91, R110, R130). -/
def LaneRec.held (st : Settings) (was : Bool) (r : LaneRec) : LaneRec :=
  (if r.out = [] then r.heldOut else flushLane st (flushLimit r.sentJobs) r.heldOut).edged was true
    (if st.patience = 0 then none else some st.patience)

theorem heldBench_eq (was : Bool) (l : Lane) (k : FaultKind) {s : State} (h : Settling s.lanes[l]) :
    heldBench was l k s.lanes[l].out s = { s with
      stock := { s.stock with
        mags := s.stock.mags.upd l (Option.map (Loaded.lowered ((serialsOf s.lanes[l].sentJobs).map Prod.snd)))
        doubts := s.stock.doubts ++ (inDoubtOf s.lanes[l].out).filterMap fun j => j.serial.map fun n => j.doubtEntry l k n }
      images := (inDoubtOf s.lanes[l].out).foldl (fun im j => im.upd j.buffer fun _ => none) s.images
      office := { s.office with
        flight := withoutSerials (serialsOf s.lanes[l].sentJobs) (withoutSerials (serialsOf (inDoubtOf s.lanes[l].out)) s.office.flight) }
      lanes := s.lanes.upd l (LaneRec.held s.office.settings was) } := by
  have row : (s.onLane l fun r => { r with state := .holding }).lanes[l] = { s.lanes[l] with state := .holding } := State.onLane_same _ _ _
  obtain ⟨t, isT⟩ : ∃ t, recallSent l ((inDoubtOf s.lanes[l].out).foldl (doubtBench l k) (s.onLane l fun r => { r with state := .holding })) =
    t := ⟨_, rfl⟩
  have recalled : t = { s with
      stock := { s.stock with
        mags := s.stock.mags.upd l (Option.map (Loaded.lowered ((serialsOf s.lanes[l].sentJobs).map Prod.snd)))
        doubts := s.stock.doubts ++ (inDoubtOf s.lanes[l].out).filterMap fun j => j.serial.map fun n => j.doubtEntry l k n }
      images := (inDoubtOf s.lanes[l].out).foldl (fun im j => im.upd j.buffer fun _ => none) s.images
      office := { s.office with
        flight := withoutSerials (serialsOf s.lanes[l].sentJobs) (withoutSerials (serialsOf (inDoubtOf s.lanes[l].out)) s.office.flight) }
      lanes := s.lanes.upd l LaneRec.heldOut } := by
    have left : (List.foldl (fun (r : LaneRec) (j : Job) => r.left j.buffer)
        (s.onLane l fun r => { r with state := .holding }).lanes[l] (inDoubtOf s.lanes[l].out)) =
        { s.lanes[l] with
          state := .holding, out := s.lanes[l].sentJobs, credits := s.lanes[l].credits + (inDoubtOf s.lanes[l].out).length } := by
      rw [row]
      exact h.left
    have lanes : ∀ F : LaneRec → LaneRec, F s.lanes[l] = s.lanes[l].heldOut → s.lanes.upd l F = s.lanes.upd l LaneRec.heldOut :=
      fun F => upd_agree
    rw [← isT, foldl_doubtBench_lanes l k h.serials, recallSent_eq]
    dsimp only
    rw [Table.upd_same, left, show ({ s.lanes[l] with
      state := .holding, out := s.lanes[l].sentJobs, credits := s.lanes[l].credits + (inDoubtOf s.lanes[l].out).length } : LaneRec).sentJobs =
        s.lanes[l].sentJobs from sentJobs_sentJobs _, upd_twice, State.onLane_lanes, upd_twice, lanes]
    · rfl
    · show (List.foldl _ { s.lanes[l] with state := .holding } _).recalled = _
      rw [h.left, h.recalled]
  have edge : ∀ u : State, u.lanes[l].state = .holding → stallEdge was l u =
      u.onLane l fun r => r.edged was true (patienceTimer u) := fun u holding => by
    rw [stallEdge_eq, stalled_eq, laneStalled_holding holding]
  have rowT : t.lanes[l] = s.lanes[l].heldOut := by rw [recalled, Table.upd_same]
  unfold heldBench
  dsimp only
  rw [isT]
  by_cases none' : s.lanes[l].out = []
  · rw [if_pos (List.isEmpty_iff.2 none'), edge t (by rw [rowT]; rfl)]
    have lanes : t.lanes.upd l (fun r => r.edged was true (patienceTimer t)) = s.lanes.upd l (LaneRec.held s.office.settings was) := by
      rw [recalled]
      refine (upd_twice _ _ _ _).trans (upd_agree ?_)
      rw [LaneRec.held, if_pos none']
      rfl
    rw [State.onLane, lanes, recalled]
  · have rowU : (requestFlush l (flushLimit s.lanes[l].sentJobs) t).lanes[l] =
        flushLane s.office.settings (flushLimit s.lanes[l].sentJobs) s.lanes[l].heldOut := by
      rw [requestFlush_eq, State.onLane_same, rowT, recalled]
    rw [if_neg fun c => none' (List.isEmpty_iff.1 c), show (s.lanes[l].out.filter fun j => decide (j.state = .sent)) = s.lanes[l].sentJobs from rfl,
      edge _ (by rw [rowU, flushLane_link]; rfl), requestFlush_eq, State.onLane_onLane]
    have lanes : ∀ F : LaneRec → LaneRec, F s.lanes[l].heldOut = s.lanes[l].held s.office.settings was →
        t.lanes.upd l F = s.lanes.upd l (LaneRec.held s.office.settings was) := fun F same => by
      rw [recalled]
      exact (upd_twice _ _ _ _).trans (upd_agree same)
    rw [State.onLane, lanes]
    · rw [recalled]
    · rw [LaneRec.held, if_neg none', recalled]
      rfl

/-- The move to HOLDING, the desk's part first (R78, R130). -/
theorem holdLane_eq {l : Lane} (k : FaultKind) {s : State} (moves : s.lanes[l].state = .starting ∨ Working s l) (h : Settling s.lanes[l]) :
    holdLane l k s = heldBench (stalled s l) l k s.lanes[l].out (heldDesk l k (inDoubtOf s.lanes[l].out) s) := by
  have moved : holdLane l k s = stallEdge (stalled s l) l
      (settleOut l k (give (.lane l .holding .fault) (s.onLane l fun r => { r with state := .holding }))) := by
    unfold holdLane
    rw [State.lane]
    rcases moves with h | h | h
    all_goals
      rw [h]
      rfl
  obtain ⟨u, isU⟩ : ∃ u, give (.lane l .holding .fault) (s.onLane l fun r => { r with state := .holding }) = u := ⟨_, rfl⟩
  have row : u.lanes[l] = { s.lanes[l] with state := .holding } := by
    rw [← isU, (Desk.give _).rest]
    exact State.onLane_same _ _ _
  have out : (u.lane l).out = s.lanes[l].out := by rw [State.lane, row]
  have bench : Bench fun s => s.onLane l fun r => { r with state := .holding } := Bench.onLane l _
  have desk : (inDoubtOf s.lanes[l].out).foldl (doubtDesk l k) u =
      (heldDesk l k (inDoubtOf s.lanes[l].out) s).onLane l fun r => { r with state := .holding } := by
    rw [← isU]
    exact (heldDesk_desk l k (inDoubtOf s.lanes[l].out)).commutes bench s
  have rowD : ((heldDesk l k (inDoubtOf s.lanes[l].out) s).onLane l fun r => { r with state := .holding }).lanes[l] =
      { s.lanes[l] with state := .holding } := by
    rw [State.onLane_same, (heldDesk_desk l k (inDoubtOf s.lanes[l].out)).rest]
    rfl
  have sent : sentJobs ((inDoubtOf s.lanes[l].out).foldl (doubtBench l k)
      ((heldDesk l k (inDoubtOf s.lanes[l].out) s).onLane l fun r => { r with state := .holding })) l = s.lanes[l].sentJobs := by
    rw [sentJobs_held l k h.serials, rowD, h.left]
    exact sentJobs_sentJobs _
  have settled : settleOut l k u = if s.lanes[l].out.isEmpty
      then recallSent l ((inDoubtOf s.lanes[l].out).foldl (fun s j => endInDoubt l k j s) u)
      else requestFlush l (flushLimit (sentJobs ((inDoubtOf s.lanes[l].out).foldl (fun s j => endInDoubt l k j s) u) l))
        (recallSent l ((inDoubtOf s.lanes[l].out).foldl (fun s j => endInDoubt l k j s) u)) := by
    unfold settleOut
    rw [out]
    rfl
  rw [moved, isU, settled, foldl_endInDoubt, desk, sent]
  rfl

end Sys2Proof.Machine
end

section
/-! Settling HoldingFaultHoldsLane (R130, R136, R137). -/

namespace Sys2Proof.Machine

/-! ### What the desk's part of the move leaves -/

/-- The money of every drawer and LANE_ALERT stand. -/
structure Solvent (s t : State) : Prop where
  suspense : ∀ w : Window, t.till[w].suspense = s.till[w].suspense
  live     : ∀ w : Window, t.till[w].live = s.till[w].live
  alert    : t.exch.alerts.lane = s.exch.alerts.lane

namespace Solvent

variable {s t u : State}

theorem refl (s : State) : Solvent s s := ⟨fun _ => rfl, fun _ => rfl, rfl⟩

theorem trans (h : Solvent s t) (g : Solvent t u) : Solvent s u :=
  ⟨fun w => (g.suspense w).trans (h.suspense w), fun w => (g.live w).trans (h.live w), g.alert.trans h.alert⟩

theorem of_till (till : t.till = s.till) (alert : t.exch.alerts.lane = s.exch.alerts.lane) : Solvent s t :=
  ⟨fun w => by rw [till], fun w => by rw [till], alert⟩

theorem access (s : State) : Solvent s s.access.1 := by
  unfold State.access
  split <;> exact of_till rfl rfl

theorem busFault (s : State) : Solvent s (busFault s) := of_till rfl rfl

theorem closeGate (s : State) : Solvent s (closeGate s) := by
  unfold Machine.closeGate
  split
  · exact of_till rfl rfl
  · exact refl s

theorem give (b : EntryBody) (s : State) : Solvent s (give b s) := by
  unfold Machine.give place
  split
  · have written : Solvent s (writeEntry (stamp s b) s).1 := by
      simp only [writeEntry]
      split
      · exact (access s).trans (of_till rfl rfl)
      · exact (access s).trans (busFault _)
    dsimp only
    refine (written.trans ?_).trans (closeGate _)
    split
    · exact refl _
    · exact of_till rfl rfl
  · split
    · exact Solvent.trans (t := s.onJournal _) (of_till rfl rfl) (closeGate _)
    · exact Solvent.trans (t := s.onJournal _) (of_till rfl rfl) (closeGate _)

theorem answer (i : SlotNo) (k : Byte) (tag : Tag) (oc : OrderOutcome) (f : AnswerFields) (s : State) : Solvent s (answer i k tag oc f s) := by
  have tried : ∀ a, Solvent s (tryAnswer i a s).1 := fun a => by
    simp only [tryAnswer]
    split
    · exact (access s).trans (of_till rfl rfl)
    · exact (access s).trans (busFault _)
  simp only [Machine.answer]
  split
  · split
    · exact tried _
    · exact (tried _).trans (of_till rfl rfl)
  · exact of_till rfl rfl

theorem onDrawer (s : State) (w : Window) {f : Drawer → Drawer} (suspense : ∀ d, (f d).suspense = d.suspense) (live : ∀ d, (f d).live = d.live) :
    Solvent s (s.onDrawer w f) := by
  refine ⟨fun v => ?_, fun v => ?_, rfl⟩
  · show (s.till.upd w f)[v].suspense = _
    rw [Table.upd_get]
    split
    next here => rw [here, suspense]
    · rfl
  · show (s.till.upd w f)[v].live = _
    rw [Table.upd_get]
    split
    next here => rw [here, live]
    · rfl

theorem testCashUp (w : Window) (s : State) : Solvent s (testCashUp w s) := by
  unfold Machine.testCashUp
  dsimp only
  split
  · exact refl s
  · split
    · exact ((give _ s).trans (answer _ _ _ _ _ _)).trans (onDrawer _ w (fun _ => rfl) fun _ => rfl)
    · exact refl s

end Solvent

/-- The jobs of the list that are of the window. -/
def ofWindow (w : Window) (js : List Job) : List Job := js.filter fun j => decide (j.window = w)

theorem doubtDesk_till (l : Lane) (k : FaultKind) {j : Job} (serial : j.serial ≠ none) (s : State) (w : Window) :
    (doubtDesk l k s j).till[w].suspense = s.till[w].suspense + ((ofWindow w [j]).map Job.total).sum ∧
      (doubtDesk l k s j).till[w].live = s.till[w].live - (ofWindow w [j]).length ∧
      (doubtDesk l k s j).exch.alerts.lane = s.exch.alerts.lane := by
  obtain ⟨n, is⟩ := Option.ne_none_iff_exists'.1 serial
  obtain ⟨u, isU⟩ : ∃ u, s.onDrawer j.window (fun d => (d.suspend j.total).liveDown) = u := ⟨_, rfl⟩
  have after : Solvent u (doubtDesk l k s j) := by
    unfold doubtDesk
    rw [is, isU]
    exact ((Solvent.give _ u).trans (Solvent.answer _ _ _ _ _ _)).trans (Solvent.testCashUp _ _)
  have drawer : u.till[w].suspense = s.till[w].suspense + ((ofWindow w [j]).map Job.total).sum ∧
      u.till[w].live = s.till[w].live - (ofWindow w [j]).length := by
    rw [← isU]
    show (s.till.upd j.window _)[w].suspense = _ ∧ (s.till.upd j.window _)[w].live = _
    rw [Table.upd_get, ofWindow]
    by_cases here : w = j.window
    · have mine : ([j].filter fun j => decide (j.window = w)) = [j] := by simp [here]
      rw [if_pos here, mine, here]
      exact ⟨rfl, rfl⟩
    · have others : ([j].filter fun j => decide (j.window = w)) = [] := by simp [Ne.symm here]
      rw [if_neg here, others]
      exact ⟨rfl, rfl⟩
  refine ⟨(after.suspense w).trans drawer.1, (after.live w).trans drawer.2, ?_⟩
  rw [after.alert, ← isU]
  rfl

theorem heldDesk_till (l : Lane) (k : FaultKind) {js : List Job} (serials : ∀ j ∈ js, j.serial ≠ none) (s : State) (w : Window) :
    (heldDesk l k js s).till[w].suspense = s.till[w].suspense + ((ofWindow w js).map Job.total).sum ∧
      (heldDesk l k js s).till[w].live = s.till[w].live - (ofWindow w js).length ∧
      (heldDesk l k js s).exch.alerts.lane = s.exch.alerts.lane := by
  have given := Solvent.give (.lane l .holding .fault) s
  rw [← given.suspense w, ← given.live w, ← given.alert, heldDesk]
  generalize give (.lane l .holding .fault) s = u
  induction js generalizing u with
  | nil => exact ⟨rfl, rfl, rfl⟩
  | cons j js ih =>
    obtain ⟨suspense, live, alert⟩ := ih (fun i mem => serials i (List.mem_cons_of_mem _ mem)) (doubtDesk l k u j)
    obtain ⟨suspense', live', alert'⟩ := doubtDesk_till l k (serials j List.mem_cons_self) u w
    have cons : ofWindow w (j :: js) = ofWindow w [j] ++ ofWindow w js := by
      rw [ofWindow, ofWindow, ofWindow, ← List.filter_append]
      rfl
    rw [List.foldl_cons, suspense, live, alert, suspense', live', alert', cons, List.map_append, List.sum_append, List.length_append]
    exact ⟨Nat.add_assoc _ _ _, Nat.sub_sub _ _ _, rfl⟩

/-! ### The record -/

theorem giveFault_active (l : Lane) (k : FaultKind) (r : Bool) (n : Nat) (s : State) (m : Lane) :
    (giveFault l k r n s).faults.recs[m].active = s.faults.recs[m].active := by
  have closed : ∀ u : State, (closeGate u).faults = u.faults := fun u => by
    unfold closeGate
    split <;> rfl
  unfold giveFault
  split
  · rfl
  · split
    · have given : ∀ b, (give b s).faults = s.faults := fun b => by rw [give_rest]
      exact congrArg (fun f => f.recs[m].active) (given _)
    · refine (congrArg (fun f => f.recs[m].active) (closed _)).trans ?_
      show (s.faults.recs.upd l _)[m].active = _
      rw [Table.upd_get]
      split
      next here => rw [here]
      · rfl

theorem giveFault_solvent (l : Lane) (k : FaultKind) (r : Bool) (n : Nat) (s : State) : Solvent s (giveFault l k r n s) := by
  unfold giveFault
  split
  · exact Solvent.refl s
  · split
    · exact Solvent.give _ s
    · exact Solvent.trans (t := (s.onFaults _).onJournal _) (Solvent.of_till rfl rfl) (Solvent.closeGate _)

/-- The fault record of the lane (R136, R137). -/
theorem recorded_active (l : Lane) (k : FaultKind) (s : State) : (recorded l k s).faults.recs[l].active = (match s.faults.recs[l].active with
    | none => some ⟨k, s.office.clock, [], 0⟩
    | some a => some (a.add k)) := by
  unfold recorded
  split
  next none' =>
    rw [giveFault_active, none']
    exact congrArg FaultRec.active (Table.upd_same _ _ _)
  next a is =>
    dsimp only
    rw [is]
    split
    · exact congrArg FaultRec.active (Table.upd_same _ _ _)
    · rw [giveFault_active]
      exact congrArg FaultRec.active (Table.upd_same _ _ _)

theorem ActiveFault.add_eq (a : ActiveFault) (k : FaultKind) : a.add k = { a with
    repeats := min 255 (a.repeats + 1)
    further := if k = a.first ∨ k ∈ a.further ∨ 3 ≤ a.further.length then a.further else a.further ++ [k] } := by
  have has : a.has k = true ↔ k = a.first ∨ k ∈ a.further := by
    rw [ActiveFault.has, Bool.or_eq_true, decide_eq_true_eq, List.contains_iff_mem]
  have cond : (a.has k = true ∨ 3 ≤ a.further.length) ↔ (k = a.first ∨ k ∈ a.further ∨ 3 ≤ a.further.length) := by
    rw [has, or_assoc]
  rw [ActiveFault.add, if_congr cond rfl rfl]
  rfl

theorem recorded_alert (l : Lane) (k : FaultKind) (s : State) :
    (recorded l k s).exch.alerts.lane = (s.exch.alerts.lane || s.faults.recs[l].active.isNone) ∧ (recorded l k s).till = s.till := by
  refine ⟨?_, by rw [recorded_rest]; rfl⟩
  unfold recorded
  split
  next none' =>
    rw [(giveFault_solvent _ _ _ _ _).alert, none']
    exact (Bool.or_true _).symm
  next a is =>
    dsimp only
    rw [is]
    have kept : s.exch.alerts.lane = (s.exch.alerts.lane || (some a).isNone) := (Bool.or_false _).symm
    split
    · exact kept
    · rw [(giveFault_solvent _ _ _ _ _).alert]
      exact kept

theorem recorded_lane {l : Lane} (k : FaultKind) {s : State} (unparked : ∀ p, s.lanes[l].state ≠ .parked p) : (recorded l k s).lanes[l] =
    { s.lanes[l] with act := { s.lanes[l].act with faults := min 4294967295 (s.lanes[l].act.faults + 1) } } := by
  rw [recorded_rest]
  show (countFault l s).lanes[l] = _
  rw [countFault_eq unparked, State.onLane_same]

theorem foldl_insert_perm (js q : List Job) : (js.foldl (fun q j => insertJob j.requeue q) q).Perm (q ++ js.map Job.requeue) := by
  have one : ∀ (j : Job) (q : List Job), (insertJob j q).Perm (j :: q) := fun j q => by
    induction q with
    | nil => exact List.Perm.refl _
    | cons x xs ih =>
      unfold insertJob
      split
      · exact List.Perm.refl _
      · exact (ih.cons x).trans (List.Perm.swap j x xs)
  induction js generalizing q with
  | nil => rw [List.map_nil, List.append_nil]; exact List.Perm.refl _
  | cons j js ih =>
    rw [List.foldl_cons, List.map_cons]
    exact (ih _).trans ((List.Perm.append_right _ (one _ _)).trans List.perm_middle.symm)

end Sys2Proof.Machine
end

section
/-! Settling HoldingFaultHoldsLane (R130, R136, R137): the lane that moves to HOLDING. -/

namespace Sys2Proof.Machine

/-- The lane with one more fault counted (R94). -/
def LaneRec.faulted (r : LaneRec) : LaneRec := { r with act := { r.act with faults := min 4294967295 (r.act.faults + 1) } }

/-- The link of a lane that moves to HOLDING: a FLUSH is requested if a job was out (R110). -/
def LaneRec.heldLink (st : Settings) (r : LaneRec) : LinkEngine :=
  if r.out = [] then r.link else (flushLane st (flushLimit r.sentJobs) r).link

theorem LaneRec.held_eq (st : Settings) (was : Bool) (r : LaneRec) : r.held st was = { r.heldOut with
    link := r.heldLink st
    patience := if was then r.patience else if st.patience = 0 then none else some st.patience } := by
  unfold LaneRec.held LaneRec.heldLink
  by_cases none' : r.out = []
  · rw [if_pos none', if_pos none']
    cases was <;> rfl
  · rw [if_neg none', if_neg none', flushLane_of (r := r) (r' := r.heldOut) rfl rfl]
    cases was <;> rfl

theorem Settling.faulted {r : LaneRec} (h : Settling r) : Settling r.faulted := ⟨h.jobs, h.apart⟩

theorem moves_unparked {s : State} {l : Lane} (moves : s.lanes[l].state = .starting ∨ Working s l) : ∀ p, s.lanes[l].state ≠ .parked p :=
  fun p c => by rcases moves with h | h | h <;> rw [c] at h <;> exact (nomatch h)

/-- The state after the desk's part of a move to HOLDING. -/
def deskHeld (l : Lane) (k : FaultKind) (s : State) : State := heldDesk l k (inDoubtOf s.lanes[l].out) (recorded l k s)

/-- A holding fault of a lane that moves to HOLDING (R130). -/
theorem raiseHolding_moved {l : Lane} (k : FaultKind) {s : State} (moves : s.lanes[l].state = .starting ∨ Working s l)
    (h : Settling s.lanes[l]) : raiseHolding l k s = { deskHeld l k s with
      stock := { s.stock with
        mags := s.stock.mags.upd l (Option.map (Loaded.lowered ((serialsOf s.lanes[l].sentJobs).map Prod.snd)))
        doubts := s.stock.doubts ++ (inDoubtOf s.lanes[l].out).filterMap fun j => j.serial.map fun n => j.doubtEntry l k n }
      images := (inDoubtOf s.lanes[l].out).foldl (fun im j => im.upd j.buffer fun _ => none) s.images
      office := { s.office with
        flight := withoutSerials (serialsOf s.lanes[l].sentJobs) (withoutSerials (serialsOf (inDoubtOf s.lanes[l].out)) s.office.flight) }
      lanes := s.lanes.upd l fun r => r.faulted.held s.office.settings (stalled s l) } := by
  have row : (recorded l k s).lanes[l] = s.lanes[l].faulted := recorded_lane k (moves_unparked moves)
  have moves' : (recorded l k s).lanes[l].state = .starting ∨ Working (recorded l k s) l := by
    unfold Working
    rw [row]
    exact moves
  have settling : Settling (recorded l k s).lanes[l] := by rw [row]; exact h.faulted
  have stock : (recorded l k s).stock = s.stock := by rw [recorded_rest]; rfl
  have images : (recorded l k s).images = s.images := by rw [recorded_rest]; rfl
  have office : (recorded l k s).office = s.office := by rw [recorded_rest]; rfl
  have lanes : (recorded l k s).lanes = s.lanes.upd l LaneRec.faulted := by
    rw [recorded_rest]
    show (countFault l s).lanes = _
    rw [countFault_eq (moves_unparked moves)]
    rfl
  obtain ⟨d, isD⟩ : ∃ d, deskHeld l k s = d := ⟨_, rfl⟩
  have desk : d = (recorded l k s).withDesk d := by
    rw [← isD]
    exact (heldDesk_desk l k _).rest _
  have stockD : d.stock = s.stock := by rw [desk]; exact stock
  have imagesD : d.images = s.images := by rw [desk]; exact images
  have officeD : d.office = s.office := by rw [desk]; exact office
  have lanesD : d.lanes = s.lanes.upd l LaneRec.faulted := by rw [desk]; exact lanes
  have rowD : d.lanes[l] = s.lanes[l].faulted := by rw [lanesD, Table.upd_same]
  have edged : ∀ F : LaneRec → LaneRec, d.lanes.upd l F = s.lanes.upd l fun r => F r.faulted := fun F => by
    rw [lanesD]
    exact upd_twice _ _ _ _
  have held := heldBench_eq (stalled s l) l k (s := d) (by rw [rowD]; exact h.faulted)
  rw [rowD, stockD, imagesD, officeD, edged] at held
  have out : (recorded l k s).lanes[l].out = s.lanes[l].out := by rw [row]; rfl
  rw [raiseHolding_eq, holdLane_eq k moves' settling, stalled_recorded, out, show heldDesk l k (inDoubtOf s.lanes[l].out) (recorded l k s) = d from isD, isD]
  exact held

/-- A holding fault of a lane that is HOLDING already, OFF or PARKED (R136). -/
theorem raiseHolding_stays {l : Lane} (k : FaultKind) {s : State} (stays : ¬(s.lanes[l].state = .starting ∨ Working s l)) :
    raiseHolding l k s = recorded l k s := by
  have state : (recorded l k s).lanes[l].state = s.lanes[l].state := by
    rw [recorded_rest]
    show (s.lanes.upd l _)[l].state = _
    rw [Table.upd_same]
    split <;> rfl
  rw [raiseHolding_eq, holdLane, State.lane, state]
  unfold Working at stays
  split
  next h => exact absurd (.inl h) stays
  next h => exact absurd (.inr (.inl h)) stays
  next h => exact absurd (.inr (.inr h)) stays
  next => rfl

end Sys2Proof.Machine
end

section
/-! HoldingFaultHoldsLane settled. -/

namespace Sys2Proof.Machine

theorem mem_serialsOf {js : List Job} {k : StockKind} {n : Nat} : (k, n) ∈ serialsOf js ↔ ∃ j ∈ js, j.kind = k ∧ j.serial = some n := by
  simp only [serialsOf, List.mem_filterMap, Option.map_eq_some_iff, Prod.mk.injEq]
  constructor
  · rintro ⟨j, mem, m, serial, kind, rfl⟩
    exact ⟨j, mem, kind, serial⟩
  · rintro ⟨j, mem, kind, serial⟩
    exact ⟨j, mem, n, serial, kind, rfl⟩

/-- A list of jobs out, each SENT or in doubt, gives the flight entries that go. -/
theorem withoutSerials_out {r : LaneRec} (h : Settling r) (es : List FlightEntry) :
    withoutSerials (serialsOf r.sentJobs) (withoutSerials (serialsOf (inDoubtOf r.out)) es) =
      es.filter fun e => !(r.out.any fun j => decide (j.kind = e.kind ∧ j.serial = some e.serial)) := by
  rw [withoutSerials, withoutSerials, List.filter_filter]
  refine List.filter_congr fun e _ => ?_
  rw [Bool.eq_iff_iff]
  simp only [Bool.and_eq_true, Bool.not_eq_true', decide_eq_false_iff_not, mem_serialsOf, List.any_eq_false, decide_eq_true_eq]
  constructor
  · rintro ⟨sent, doubt⟩ j mem same
    rcases h.jobs j mem with state | ⟨state, -⟩
    · exact sent ⟨j, List.mem_filter.2 ⟨mem, decide_eq_true state⟩, same⟩
    · exact doubt ⟨j, List.mem_filter.2 ⟨mem, decide_eq_true state⟩, same⟩
  · intro all
    exact ⟨fun ⟨j, mem, same⟩ => all j (List.mem_filter.1 mem).1 same, fun ⟨j, mem, same⟩ => all j (List.mem_filter.1 mem).1 same⟩

theorem serialsOf_snd (js : List Job) : (serialsOf js).map Prod.snd = js.filterMap Job.serial := by
  rw [serialsOf, List.map_filterMap]
  refine List.filterMap_congr fun j _ => ?_
  cases j.serial <;> rfl

theorem ofWindow_inDoubt (w : Window) (js : List Job) :
    ofWindow w (inDoubtOf js) = js.filter fun j => decide ((j.state = .fed ∨ j.state = .printed) ∧ j.window = w) := by
  rw [ofWindow, inDoubtOf, List.filter_filter]
  refine List.filter_congr fun j _ => ?_
  rw [Bool.eq_iff_iff]
  simp only [Bool.and_eq_true, decide_eq_true_eq]
  exact And.comm

/-- The desk's part of the move leaves the fault records as the fault made them. -/
theorem deskHeld_faults (l : Lane) (k : FaultKind) (s : State) : (deskHeld l k s).faults = (recorded l k s).faults := by
  rw [deskHeld, (heldDesk_desk l k _).rest]
  rfl

/-- What else a move to HOLDING leaves as it was. -/
theorem deskHeld_rest (l : Lane) (k : FaultKind) (s : State) : deskHeld l k s = { s with
    stock := (deskHeld l k s).stock, images := (deskHeld l k s).images, lanes := (deskHeld l k s).lanes
    faults := (deskHeld l k s).faults, till := (deskHeld l k s).till, journal := (deskHeld l k s).journal
    office := (deskHeld l k s).office, exch := (deskHeld l k s).exch, host := (deskHeld l k s).host } := by
  have desk : deskHeld l k s = (recorded l k s).withDesk (deskHeld l k s) := (heldDesk_desk l k _).rest _
  obtain ⟨d, isD⟩ : ∃ d, deskHeld l k s = d := ⟨_, rfl⟩
  rw [isD] at desk ⊢
  rw [desk, recorded_rest]
  rfl

/-- What a holding fault leaves as it was in every case. -/
theorem raiseHolding_rest {l : Lane} {k : FaultKind} {s : State} (settling : Settling s.lanes[l]) : raiseHolding l k s = { s with
      stock := (raiseHolding l k s).stock, images := (raiseHolding l k s).images, lanes := (raiseHolding l k s).lanes
      faults := (raiseHolding l k s).faults, till := (raiseHolding l k s).till, journal := (raiseHolding l k s).journal
      office := (raiseHolding l k s).office, exch := (raiseHolding l k s).exch, host := (raiseHolding l k s).host } := by
  by_cases moves : s.lanes[l].state = .starting ∨ Working s l
  · rw [raiseHolding_moved k moves settling]
    conv_lhs => rw [deskHeld_rest]
  · rw [raiseHolding_stays k moves]
    obtain ⟨r, isR⟩ : ∃ r, recorded l k s = r := ⟨_, rfl⟩
    have rest : r = _ := isR.symm.trans (recorded_rest l k s)
    rw [isR] at rest ⊢
    rw [rest]
    rfl

/-- The record and the alert after a holding fault (R136, R137). -/
theorem raiseHolding_record {l : Lane} (k : FaultKind) {s : State} (settling : Settling s.lanes[l]) :
    (raiseHolding l k s).faults = (recorded l k s).faults ∧
      (raiseHolding l k s).exch.alerts.lane = (s.exch.alerts.lane || s.faults.recs[l].active.isNone) := by
  have alert := (recorded_alert l k s).1
  by_cases moves : s.lanes[l].state = .starting ∨ Working s l
  · rw [raiseHolding_moved k moves settling]
    exact ⟨deskHeld_faults l k s, (heldDesk_till l k settling.serials (recorded l k s) (0 : Window)).2.2.trans alert⟩
  · rw [raiseHolding_stays k moves]
    exact ⟨rfl, alert⟩

/-- Settles O45: the record first; then either the lane stays as it is, or the move to HOLDING at the desk and at the bench. -/
theorem holdingFaultHoldsLane : Obligations.HoldingFaultHoldsLane := by
  intro s l k jobs apart
  have settling : Settling s.lanes[l] := ⟨jobs, apart⟩
  have within := Within.raiseHolding l k s
  obtain ⟨faults, alert⟩ := raiseHolding_record k settling
  refine ⟨_, rfl, raiseHolding_rest settling, within.lanes, within.records, ?_, alert, fun holding => ?_, fun moves => ?_⟩
  · rw [faults, recorded_active]
    cases s.faults.recs[l].active with
    | none => rfl
    | some a => exact congrArg some (ActiveFault.add_eq a k)
  · have stays : ¬(s.lanes[l].state = .starting ∨ Working s l) := by
      unfold Working
      rw [holding]
      rintro (c | c | c) <;> exact (nomatch c)
    rw [raiseHolding_stays k stays]
    refine ⟨by rw [recorded_rest]; rfl, by rw [recorded_rest]; rfl, by rw [recorded_rest]; rfl, by rw [recorded_rest]; rfl, ?_⟩
    exact recorded_lane k fun p c => by rw [holding] at c; exact (nomatch c)
  · rw [raiseHolding_moved k moves settling]
    have row : ∀ F : LaneRec → LaneRec, (s.lanes.upd l F)[l] = F s.lanes[l] := Table.upd_same _ _
    dsimp only
    rw [row, LaneRec.held_eq]
    refine ⟨rfl, rfl, rfl, rfl, foldl_insert_perm _ _, rfl, rfl, rfl, fun m other => Table.upd_ne _ _ _ _ other, ?_, fun w => ?_, ?_⟩
    · rw [Table.upd_same, serialsOf_snd]
      rfl
    · obtain ⟨suspense, live, -⟩ := heldDesk_till l k settling.serials (recorded l k s) w
      rw [(recorded_alert l k s).2, ofWindow_inDoubt] at suspense live
      rw [List.countP_eq_length_filter]
      exact ⟨suspense, live⟩
    · rw [withoutSerials_out settling]

end Sys2Proof.Machine
end

section
/-! HoldingFaultIsJournalled: entries given and answers produced one after another. -/

namespace Sys2Proof.Machine

/-- What shows at the desk after entries have been given and answers, each to a slot of its own, have been produced (R46, R165). -/
structure Announced (es : List EntryBody) (as : List (SlotNo × Answer)) (s t : State) : Prop where
  stands   : SameJournal (giveAll es s) t
  answered : ∀ i a, (i, a) ∈ as → s.exch.state = .running → AnsweredSlot t i a
  pending  : t.exch.pendingAns = if s.exch.state = .running then s.exch.pendingAns else s.exch.pendingAns ++ as
  slots    : ∀ k, k ∉ as.map Prod.fst → SlotKept s t k
  tags     : t.exch.tags = s.exch.tags
  regs     : SameRegisters s.exch t.exch
  snapshot : t.host.snapshot = s.host.snapshot
  quiet    : t.host.busIn = none

namespace Announced

variable {s t u : State} {es fs : List EntryBody} {as bs : List (SlotNo × Answer)}

theorem refl (quiet : s.host.busIn = none) : Announced [] [] s s :=
  ⟨SameJournal.refl s, fun _ _ h => (nomatch h), by rw [List.append_nil, ite_self], fun _ _ => ⟨rfl, rfl, rfl⟩, rfl, SameRegisters.refl _, rfl, quiet⟩

theorem gives (h : Announced es as s t) : Gives es s t := ⟨h.stands.journal, h.stands.ring, h.stands.alerts⟩

/-- The exchange state stands. -/
theorem state (quiet : s.host.busIn = none) (h : Announced es as s t) : t.exch.state = s.exch.state := by
  rw [h.stands.state, (giveAll_journalled quiet es).exch]

/-- One after another, the slots of the answers apart. -/
theorem trans (quiet : s.host.busIn = none) (h : Announced es as s t) (g : Announced fs bs t u)
    (apart : ∀ i ∈ as.map Prod.fst, i ∉ bs.map Prod.fst) : Announced (es ++ fs) (as ++ bs) s u := by
  have state := h.state quiet
  have later := giveAll_same h.stands ((giveAll_journalled quiet es).quiet quiet) h.quiet fs
  refine ⟨?_, fun i a mem running => ?_, ?_, fun k free => ?_, g.tags.trans h.tags, h.regs.trans g.regs, g.snapshot.trans h.snapshot, g.quiet⟩
  · rw [giveAll_append]
    exact ⟨g.stands.journal.trans later.journal, g.stands.ring.trans later.ring, g.stands.alerts.trans later.alerts,
      g.stands.state.trans later.state, g.stands.base.trans later.base, g.stands.offset.trans later.offset,
      g.stands.day.trans later.day, g.stands.clock.trans later.clock⟩
  · rcases List.mem_append.1 mem with first | second
    · obtain ⟨slot, mark, context⟩ := h.answered i a first running
      obtain ⟨slot', mark', context'⟩ := g.slots i (apart i (List.mem_map_of_mem first))
      exact ⟨slot'.trans slot, mark'.trans mark, context'.trans context⟩
    · exact g.answered i a second (state.trans running)
  · rw [g.pending, h.pending, state]
    split
    · rfl
    · exact List.append_assoc _ _ _
  · rw [List.map_append, List.mem_append, not_or] at free
    exact SlotKept.trans (h.slots k free.1) (g.slots k free.2)

/-- An entry given. -/
theorem give (quiet : s.host.busIn = none) (b : EntryBody) : Announced [b] [] s (give b s) := by
  have journalled := give_journalled quiet b
  obtain ⟨u, is⟩ : ∃ u, Machine.give b s = u := ⟨_, rfl⟩
  have stands : SameJournal (giveAll [b] s) u := by rw [← is]; exact SameJournal.refl _
  rw [is] at journalled ⊢
  refine ⟨stands, fun _ _ h => (nomatch h), ?_, fun k _ => ⟨?_, ?_, ?_⟩, ?_, ?_, ?_, journalled.quiet quiet⟩
  · rw [List.append_nil, ite_self, journalled.exch]
  · rw [journalled.host]
  · rw [journalled.exch]
  · rw [journalled.exch]
  · rw [journalled.exch]
  · rw [journalled.exch]
    constructor <;> rfl
  · rw [journalled.host]

/-- An answer produced. -/
theorem answer (quiet : s.host.busIn = none) (i : SlotNo) (a : Answer) : Announced [] [(i, a)] s (Machine.answered i a s) := by
  have produced := answered_produced i a s
  obtain ⟨u, is⟩ : ∃ u, Machine.answered i a s = u := ⟨_, rfl⟩
  have running : s.exch.state = .running → AnsweredSlot u i a ∧ (∀ j, j ≠ i → SlotKept s u j) ∧ ExchangeKept s.exch u.exch := fun h => by
    rw [← is]; exact answered_slot h i a
  have held : s.exch.state ≠ .running → u.exch.pendingAns = s.exch.pendingAns ++ [(i, a)] ∧ ∀ j, SlotKept s u j := fun h => by
    rw [← is]; exact answered_pending h i a
  rw [is] at produced ⊢
  refine ⟨⟨?_, produced.ring, produced.alerts, produced.state, produced.regs.areaBase, produced.regs.latchedOffset, ?_, ?_⟩,
    fun k b mem state => ?_, ?_, fun k other => ?_, produced.tags, produced.regs, produced.snapshot, produced.quiet.trans quiet⟩
  · rw [produced.rest]
    rfl
  · rw [produced.rest]
    rfl
  · rw [produced.rest]
    rfl
  · cases List.mem_singleton.1 mem
    exact (running state).1
  · split
    next h => exact (running h).2.2.pendingAns
    next h => exact (held h).1
  · by_cases h : s.exch.state = .running
    · exact (running h).2.1 k fun same => other (List.mem_singleton.2 same)
    · exact (held h).2 k

/-- The desk as it is seen from a state that agrees with the first, and after one that agrees with the last. -/
theorem of_desk {s' t' : State} (h : Announced es as s t) (start : SameJournal s' s) (quiet : s.host.busIn = none) (quiet' : s'.host.busIn = none)
    (exch : s.exch = s'.exch) (slots : s.host.slots = s'.host.slots) (snapshot : s.host.snapshot = s'.host.snapshot)
    (stands : SameJournal t t') (exch' : t'.exch = t.exch) (host' : t'.host = t.host) : Announced es as s' t' where
  stands := by
    have same := giveAll_same start quiet' quiet es
    exact ⟨(stands.journal.trans h.stands.journal).trans same.journal, (stands.ring.trans h.stands.ring).trans same.ring,
      (stands.alerts.trans h.stands.alerts).trans same.alerts, (stands.state.trans h.stands.state).trans same.state,
      (stands.base.trans h.stands.base).trans same.base, (stands.offset.trans h.stands.offset).trans same.offset,
      (stands.day.trans h.stands.day).trans same.day, (stands.clock.trans h.stands.clock).trans same.clock⟩
  answered := fun i a mem running => by
    obtain ⟨slot, mark, context⟩ := h.answered i a mem (by rw [exch]; exact running)
    exact ⟨by rw [host']; exact slot, by rw [exch']; exact mark, by rw [exch']; exact context⟩
  pending := by rw [exch', h.pending, exch]
  slots := fun k free => by
    obtain ⟨slot, mark, context⟩ := h.slots k free
    exact ⟨by rw [host', slot, slots], by rw [exch', mark, exch], by rw [exch', context, exch]⟩
  tags := by rw [exch', h.tags, exch]
  regs := by rw [exch', ← exch]; exact h.regs
  snapshot := by rw [host', h.snapshot, snapshot]
  quiet := by rw [host']; exact h.quiet

end Announced

/-! ### The jobs in doubt -/

/-- A job's IN_DOUBT answer cannot be what its window's pending cash-up waits for (log entry 19). -/
def HoldsCashUp (s : State) (j : Job) : Prop := 0 < j.total ∨ s.till[j.window].cashUp = none ∨ s.till[j.window].state ≠ .closing

/-- The IN_DOUBT entry of a job, and the answer to its ISSUE. -/
def doubtEntries (l : Lane) (k : FaultKind) (js : List Job) : List EntryBody := js.filterMap fun j => j.serial.map fun n => doubtBody l k j n

def doubtAnswer (clock : BitVec 32) (l : Lane) (k : FaultKind) (j : Job) : SlotNo × Answer :=
  (j.slot, ⟨.inDoubt, 13, j.tag, clock, .issue j.serial j.kind l j.pAdult j.pChild j.total j.attempt j.spoilt (some (.fault k))⟩)

/-- The drawer with a job's charge in suspense. -/
def Drawer.doubted (j : Job) (d : Drawer) : Drawer := (d.suspend j.total).liveDown

theorem doubtDesk_eq {s : State} (quiet : s.host.busIn = none) (l : Lane) (k : FaultKind) {j : Job} {n : Nat} (serial : j.serial = some n)
    (holds : HoldsCashUp s j) : doubtDesk l k s j = answered j.slot (doubtAnswer s.office.clock l k j).2
      (give (doubtBody l k j n) (s.onDrawer j.window (Drawer.doubted j))) := by
  obtain ⟨u, isU⟩ : ∃ u, give (doubtBody l k j n) (s.onDrawer j.window (Drawer.doubted j)) = u := ⟨_, rfl⟩
  have journalled := give_journalled (s := s.onDrawer j.window (Drawer.doubted j)) quiet (doubtBody l k j n)
  rw [isU] at journalled
  have quietU : u.host.busIn = none := journalled.quiet quiet
  have clock : u.office.clock = s.office.clock := by rw [journalled.rest]; rfl
  have same : issueAnswer u l j .inDoubt (some n) (some (.fault k)) = (doubtAnswer s.office.clock l k j).2 := by
    rw [issueAnswer, doubtAnswer, serial, clock]
    rfl
  obtain ⟨v, isV⟩ : ∃ v, answered j.slot (doubtAnswer s.office.clock l k j).2 u = v := ⟨_, rfl⟩
  have drawer : v.till[j.window] = Drawer.doubted j s.till[j.window] := by
    rw [← isV, (answered_produced j.slot _ u).rest]
    show u.till[j.window] = _
    rw [journalled.rest]
    exact Table.upd_same _ _ _
  have tested : testCashUp j.window v = v := by
    rcases holds with positive | none' | open'
    · refine testCashUp_unsettled ?_
      rw [drawer, Drawer.settled, decide_eq_false_iff_not]
      rintro ⟨-, -, zero⟩
      have : s.till[j.window].suspense + j.total = 0 := zero
      omega
    · exact testCashUp_none (by rw [drawer]; exact none')
    · refine testCashUp_unsettled ?_
      rw [drawer, Drawer.settled, decide_eq_false_iff_not]
      exact fun c => open' c.1
  unfold doubtDesk
  rw [serial]
  show testCashUp j.window (answerIssue l j .inDoubt (some n) (some (.fault k)) (give (doubtBody l k j n) (s.onDrawer j.window (Drawer.doubted j)))) = _
  rw [isU, answerIssue_eq quietU, same, isV, tested]

theorem doubtDesk_announced {s : State} (quiet : s.host.busIn = none) (l : Lane) (k : FaultKind) {j : Job} (serial : j.serial ≠ none)
    (holds : HoldsCashUp s j) : Announced (doubtEntries l k [j]) [doubtAnswer s.office.clock l k j] s (doubtDesk l k s j) := by
  obtain ⟨n, is⟩ := Option.ne_none_iff_exists'.1 serial
  have entries : doubtEntries l k [j] = [doubtBody l k j n] := by
    rw [doubtEntries, List.filterMap_cons, is]
    rfl
  have given := Announced.give (s := s.onDrawer j.window (Drawer.doubted j)) quiet (doubtBody l k j n)
  have both := given.trans (s := s.onDrawer j.window (Drawer.doubted j)) quiet (Announced.answer given.quiet j.slot (doubtAnswer s.office.clock l k j).2) fun _ h => (nomatch h)
  rw [entries, doubtDesk_eq quiet l k is holds]
  exact both.of_desk ⟨rfl, rfl, rfl, rfl, rfl, rfl, rfl, rfl⟩ quiet quiet rfl rfl rfl (SameJournal.refl _) rfl rfl

theorem doubtDesk_holds {s : State} (quiet : s.host.busIn = none) (l : Lane) (k : FaultKind) {j : Job} (serial : j.serial ≠ none)
    (holds : HoldsCashUp s j) {i : Job} (h : HoldsCashUp s i) : HoldsCashUp (doubtDesk l k s j) i := by
  obtain ⟨n, is⟩ := Option.ne_none_iff_exists'.1 serial
  have till : (doubtDesk l k s j).till = s.till.upd j.window (Drawer.doubted j) := by
    rw [doubtDesk_eq quiet l k is holds, (answered_produced j.slot _ _).rest]
    show (give _ _).till = _
    rw [give_rest]
    rfl
  have kept : (doubtDesk l k s j).till[i.window].cashUp = s.till[i.window].cashUp ∧
      (doubtDesk l k s j).till[i.window].state = s.till[i.window].state := by
    rw [till, Table.upd_get]
    split <;> exact ⟨rfl, rfl⟩
  unfold HoldsCashUp
  rw [kept.1, kept.2]
  exact h

/-- The jobs in doubt one after another, each in a slot of its own. -/
theorem foldl_doubtDesk_announced (l : Lane) (k : FaultKind) {js : List Job} {s : State} (quiet : s.host.busIn = none)
    (serials : ∀ j ∈ js, j.serial ≠ none) (holds : ∀ j ∈ js, HoldsCashUp s j) (apart : (js.map Job.slot).Nodup) :
    Announced (doubtEntries l k js) (js.map (doubtAnswer s.office.clock l k)) s (js.foldl (doubtDesk l k) s) := by
  induction js generalizing s with
  | nil => exact Announced.refl quiet
  | cons j js ih =>
    have serial := serials j List.mem_cons_self
    have first := doubtDesk_announced quiet l k serial (holds j List.mem_cons_self)
    have clock : (doubtDesk l k s j).office.clock = s.office.clock := by rw [(doubtDesk_desk l k j).office]
    have rest := ih (s := doubtDesk l k s j) first.quiet (fun i mem => serials i (List.mem_cons_of_mem _ mem))
      (fun i mem => doubtDesk_holds quiet l k serial (holds j List.mem_cons_self) (holds i (List.mem_cons_of_mem _ mem)))
      (List.nodup_cons.1 (show (j.slot :: js.map Job.slot).Nodup from apart)).2
    rw [clock] at rest
    have entries : doubtEntries l k (j :: js) = doubtEntries l k [j] ++ doubtEntries l k js :=
      List.filterMap_append (l := [j]) (l' := js)
    rw [entries]
    refine first.trans quiet rest fun i mem later => ?_
    obtain rfl := List.mem_singleton.1 mem
    rw [List.map_map] at later
    exact (List.nodup_cons.1 (show (j.slot :: js.map Job.slot).Nodup from apart)).1 later

end Sys2Proof.Machine
end

section
/-! HoldingFaultIsJournalled (R67, R68, R130, R136). -/

namespace Sys2Proof.Machine

/-- The FAULT entry of a holding fault, unless the record holds the kind (R136). -/
def faultEntries (l : Lane) (k : FaultKind) (s : State) : List EntryBody :=
  match s.faults.recs[l].active with
  | none => [.fault l k false 0]
  | some a => if k = a.first ∨ k ∈ a.further then [] else [.fault l k false (min 255 (a.repeats + 1))]

/-- The state with LANE_ALERT as a fault of the lane leaves it (R136). -/
def laneAlerted (l : Lane) (s : State) : State :=
  { s with exch := { s.exch with alerts := { s.exch.alerts with lane := s.exch.alerts.lane || s.faults.recs[l].active.isNone } } }

theorem giveFault_given {l : Lane} {s : State} (free : s.faults.recs[l].deferred = none) (line : s.journal.overflow = [])
    (few : s.journal.holding.length < 256) (k : FaultKind) (n : Nat) : giveFault l k false n s = give (.fault l k false n) s := by
  have room : canQueue s = true := (canQueue_iff _).2 ⟨line, few⟩
  rw [giveFault, free, Option.isSome_none, if_neg Bool.false_ne_true, room, Bool.or_true, if_pos rfl]

/-- The entry given from a state that agrees with another at the desk. -/
theorem Announced.give_from {s t : State} (quiet : s.host.busIn = none) (journal : t.journal = s.journal) (exch : t.exch = s.exch)
    (host : t.host = s.host) (office : t.office = s.office) (b : EntryBody) : Announced [b] [] s (Machine.give b t) :=
  (Announced.give (s := t) (by rw [host]; exact quiet) b).of_desk
    ⟨journal, by rw [host], by rw [exch], by rw [exch], by rw [exch], by rw [exch], by rw [office], by rw [office]⟩
    (by rw [host]; exact quiet) quiet exch (by rw [host]) (by rw [host]) (SameJournal.refl _) rfl rfl

/-- The record of a holding fault at the desk. -/
theorem recorded_announced {l : Lane} {s : State} (quiet : s.host.busIn = none) (free : s.faults.recs[l].deferred = none)
    (line : s.journal.overflow = []) (few : s.journal.holding.length < 256) (k : FaultKind) :
    Announced (faultEntries l k s) [] (laneAlerted l s) (recorded l k s) := by
  have kept : ∀ f : FaultRec → FaultRec, (∀ r, (f r).deferred = r.deferred) → (s.faults.recs.upd l f)[l].deferred = none := fun f h => by
    rw [Table.upd_same, h]
    exact free
  unfold faultEntries recorded
  cases is : s.faults.recs[l].active with
  | none =>
    dsimp only
    obtain ⟨t, isT⟩ : ∃ t, ((onRecord l (fun r => { r with active := some ⟨k, s.office.clock, [], 0⟩ }) (countFault l s)).onAlerts
      fun a => { a with lane := true }) = t := ⟨_, rfl⟩
    have exch : t.exch = (laneAlerted l s).exch := by
      rw [laneAlerted, is, ← isT]
      dsimp only [Option.isNone_none]
      rw [Bool.or_true]
      rfl
    rw [isT, giveFault_given (by rw [← isT]; exact kept (fun r => { r with active := some ⟨k, s.office.clock, [], 0⟩ }) fun _ => rfl)
      (by rw [← isT]; exact line) (by rw [← isT]; exact few)]
    exact Announced.give_from (s := laneAlerted l s) quiet (by rw [← isT]; rfl) exch (by rw [← isT]; rfl) (by rw [← isT]; rfl) _
  | some a =>
    dsimp only
    obtain ⟨t, isT⟩ : ∃ t, onRecord l (fun r => { r with active := some (a.add k) }) (countFault l s) = t := ⟨_, rfl⟩
    have exch : t.exch = (laneAlerted l s).exch := by
      rw [laneAlerted, is, ← isT]
      dsimp only [Option.isNone_some]
      rw [Bool.or_false]
      rfl
    have has : a.has k = true ↔ k = a.first ∨ k ∈ a.further := by
      rw [ActiveFault.has, Bool.or_eq_true, decide_eq_true_eq, List.contains_iff_mem]
    rw [isT]
    by_cases holds : k = a.first ∨ k ∈ a.further
    · rw [if_pos (has.2 holds), if_pos holds]
      exact (Announced.refl (s := laneAlerted l s) quiet).of_desk (SameJournal.refl _) quiet quiet rfl rfl rfl
        ⟨by rw [← isT]; rfl, by rw [← isT]; rfl, by rw [exch], by rw [exch], by rw [exch], by rw [exch], by rw [← isT]; rfl, by rw [← isT]; rfl⟩
        exch (by rw [← isT]; rfl)
    · have repeats : (a.add k).repeats = min 255 (a.repeats + 1) := by rw [ActiveFault.add_eq]
      rw [if_neg fun c => holds (has.1 c), if_neg holds, repeats,
        giveFault_given (by rw [← isT]; exact kept (fun r => { r with active := some (a.add k) }) fun _ => rfl)
          (by rw [← isT]; exact line) (by rw [← isT]; exact few)]
      exact Announced.give_from (s := laneAlerted l s) quiet (by rw [← isT]; rfl) exch (by rw [← isT]; rfl) (by rw [← isT]; rfl) _

/-- The move to HOLDING at the desk. -/
theorem heldDesk_announced (l : Lane) (k : FaultKind) {js : List Job} {s : State} (quiet : s.host.busIn = none)
    (serials : ∀ j ∈ js, j.serial ≠ none) (holds : ∀ j ∈ js, HoldsCashUp s j) (apart : (js.map Job.slot).Nodup) :
    Announced (.lane l .holding .fault :: doubtEntries l k js) (js.map (doubtAnswer s.office.clock l k)) s (heldDesk l k js s) := by
  obtain ⟨u, isU⟩ : ∃ u, give (.lane l .holding .fault) s = u := ⟨_, rfl⟩
  have given := Announced.give quiet (.lane l .holding .fault)
  have till : u.till = s.till := by rw [← isU, give_rest]
  have office : u.office = s.office := by rw [← isU, give_rest]
  rw [isU] at given
  have rest := foldl_doubtDesk_announced l k given.quiet serials (fun j mem => by unfold HoldsCashUp; rw [till]; exact holds j mem) apart
  rw [office] at rest
  unfold heldDesk
  rw [isU]
  exact given.trans quiet rest fun _ h => (nomatch h)

theorem foldl_freed (js : List Job) (im : Table 48 (Option Image)) (b : Buffer) :
    (js.foldl (fun im j => im.upd j.buffer fun _ => none) im)[b] = if b ∈ js.map Job.buffer then none else im[b] := by
  induction js generalizing im with
  | nil => rfl
  | cons j js ih =>
    rw [List.foldl_cons, ih, Table.upd_get]
    simp only [List.map_cons, List.mem_cons]
    by_cases later : b ∈ js.map Job.buffer
    · rw [if_pos later, if_pos (.inr later)]
    · rw [if_neg later]
      by_cases here : b = j.buffer
      · rw [if_pos here, if_pos (.inl here)]
      · rw [if_neg here, if_neg fun c => c.elim here later]

/-- The move of a lane to HOLDING at the desk, its record first. -/
theorem raiseHolding_announced {l : Lane} (k : FaultKind) {s : State} (quiet : s.host.busIn = none) (free : s.faults.recs[l].deferred = none)
    (line : s.journal.overflow = []) (few : s.journal.holding.length < 256) (moves : s.lanes[l].state = .starting ∨ Working s l)
    (settling : Settling s.lanes[l]) (apart : ((inDoubtOf s.lanes[l].out).map Job.slot).Nodup)
    (holds : ∀ j ∈ inDoubtOf s.lanes[l].out, HoldsCashUp s j) :
    Announced (faultEntries l k s ++ .lane l .holding .fault :: doubtEntries l k (inDoubtOf s.lanes[l].out))
      ((inDoubtOf s.lanes[l].out).map (doubtAnswer s.office.clock l k)) (laneAlerted l s) (raiseHolding l k s) := by
  have first := recorded_announced quiet free line few k
  have office : (recorded l k s).office = s.office := by rw [recorded_rest]; rfl
  have held := heldDesk_announced l k first.quiet settling.serials
    (fun j mem => by unfold HoldsCashUp; rw [(recorded_alert l k s).2]; exact holds j mem) apart
  rw [office] at held
  have both := first.trans (s := laneAlerted l s) quiet held fun _ h => (nomatch h)
  have officeD : (deskHeld l k s).office = s.office := by
    rw [deskHeld, (heldDesk_desk l k _).office]
    exact office
  rw [raiseHolding_moved k moves settling]
  exact both.of_desk (SameJournal.refl _) quiet quiet rfl rfl rfl
    ⟨rfl, rfl, rfl, rfl, rfl, rfl, (congrArg (·.day) officeD).symm, (congrArg (·.clock) officeD).symm⟩ rfl rfl

/-- Settles O46: the record and the move at the desk, entry by entry and answer by answer; the bench as in HoldingFaultHoldsLane. -/
theorem holdingFaultIsJournalled : Obligations.HoldingFaultIsJournalled := by
  intro s s' l k doubtful sent faultEntry quiet free line few isS' isEntry
  have alerted : s' = laneAlerted l s := isS'
  have entries : faultEntry = faultEntries l k s := isEntry
  refine ⟨fun holding => ?_, fun moves jobs buffers slots isDoubtful isSent pays => ?_⟩
  · have stays : ¬(s.lanes[l].state = .starting ∨ Working s l) := by
      unfold Working
      rw [holding]
      rintro (c | c | c) <;> exact (nomatch c)
    rw [raiseHolding_stays k stays, alerted, entries]
    exact (recorded_announced quiet free line few k).gives
  · have settling : Settling s.lanes[l] := ⟨jobs, buffers⟩
    have doubt : doubtful = inDoubtOf s.lanes[l].out := isDoubtful
    have sents : sent = s.lanes[l].sentJobs := isSent
    have apart : ((inDoubtOf s.lanes[l].out).map Job.slot).Nodup := slots.sublist (List.filter_sublist.map _)
    have told := raiseHolding_announced k quiet free line few moves settling apart (by rw [← doubt]; exact pays)
    rw [← entries, ← alerted, ← doubt] at told
    have answers : ∀ j ∈ doubtful, (j.slot, (doubtAnswer s.office.clock l k j).2) ∈ doubtful.map (doubtAnswer s.office.clock l k) :=
      fun j mem => List.mem_map_of_mem mem
    have state : s'.exch.state = s.exch.state := by rw [alerted]; rfl
    have firsts : (doubtful.map (doubtAnswer s.office.clock l k)).map Prod.fst = doubtful.map Job.slot := by
      rw [List.map_map]
      rfl
    have lane : (raiseHolding l k s).lanes[l] = s.lanes[l].faulted.held s.office.settings (stalled s l) := by
      rw [raiseHolding_moved k moves settling]
      exact Table.upd_same _ _ _
    have images : (raiseHolding l k s).images = doubtful.foldl (fun im j => im.upd j.buffer fun _ => none) s.images := by
      rw [raiseHolding_moved k moves settling, doubt]
    obtain ⟨t, isT⟩ : ∃ t, raiseHolding l k s = t := ⟨_, rfl⟩
    rw [isT] at told lane images
    have queue : t.lanes[l].queue = sent.foldl (fun q j => insertJob j.requeue q) s.lanes[l].queue := by
      rw [lane, LaneRec.held_eq, sents]
      rfl
    refine ⟨t, isT, ?_, fun j mem running => told.answered _ _ (answers j mem) (state.trans running), ?_, fun i other => ?_, ?_, ?_, ?_,
      fun b => ?_, queue, fun ordered => ?_, ?_⟩
    · rw [List.append_assoc]
      exact told.gives
    · rw [told.pending, alerted]
      rfl
    · have kept := told.slots i (by rw [firsts]; exact other)
      rw [alerted] at kept
      exact ⟨kept.slot, kept.mark, kept.context⟩
    · rw [told.tags, alerted]
      rfl
    · have regs := told.regs
      rw [alerted] at regs
      exact ⟨regs.areaBase, regs.enable, regs.answerNotice, regs.journalNotice, regs.alertNotice, regs.period, regs.latchedCount,
        regs.latchedOffset⟩
    · rw [told.snapshot, alerted]
      rfl
    · rw [images, foldl_freed]
    · rw [queue, foldl_requeue ordered]
    · rw [lane, LaneRec.held_eq, sents]
      show s.lanes[l].faulted.heldLink s.office.settings = _
      unfold LaneRec.heldLink
      rw [flushLane_of (r := s.lanes[l]) (r' := s.lanes[l].faulted) rfl rfl]
      rfl

end Sys2Proof.Machine
end

section
/-! A step that opens the context of a slot that a sweep offers (O20). The forms of O19 and O20 do not say that a sweep is in
progress only while the exchange runs, nor that a sweep that waits for an order offered has made its six steps. In a state that
breaks both, step 5 answers the slot offered, and its answer, which the halted exchange cannot write, is held in a context. -/

namespace Sys2Proof.Machine

/-- A sweep before its fifth step that offers slot 0, POSTED by a source above 12. -/
def offeringSweep : Sweep := { Sweep.fresh with step := 5, headers := Sweep.fresh.headers.upd 0 fun _ => ⟨1, 13, 0, 0⟩, offered := some 0 }

/-- The part after a reset, but for a halted exchange with a sweep in progress. -/
def haltedSweep : State := { State.reset with exch := { ExchangeController.reset with state := .halted, sweep := some offeringSweep } }

theorem haltedSweep_creditsForm : CreditsForm haltedSweep where
  lanes := reset_creditsForm.lanes
  down := fun c => absurd rfl c
  buffers := reset_creditsForm.buffers
  images := reset_creditsForm.images

theorem haltedSweep_slotsForm : SlotsForm haltedSweep where
  single := by
    have none' : heldSlots haltedSweep = [] := reset_heldSlots
    rw [none']
    exact List.nodup_nil
  context := fun i mem => by
    have none' : heldSlots haltedSweep = [] := reset_heldSlots
    rw [none'] at mem
    exact (nomatch mem)
  offered := fun w i is same => by
    obtain rfl : offeringSweep = w := Option.some.inj is
    obtain rfl : 0 = i := Option.some.inj same
    exact Vector.getElem_replicate ..

/-- The sweep's fifth step is under way, and its number has moved on. -/
def fifthStep : State := stepped haltedSweep

theorem postedHeader_fifthStep (i : SlotNo) : postedHeader fifthStep i = if i = 0 then some ⟨1, 13, 0, 0⟩ else none := by
  have contexts : fifthStep.exch.contexts[i] = none := Vector.getElem_replicate ..
  have header : heldHeader fifthStep i = some (if i = 0 then ⟨1, 13, 0, 0⟩ else Header.zero) := by
    show some (Table.upd Sweep.fresh.headers 0 _)[i] = _
    rw [Table.upd_get]
    congr 1
    exact if_congr Iff.rfl rfl (Vector.getElem_replicate ..)
  rw [postedHeader_eq, header, contexts]
  split <;> rfl

/-- The slot offered, answered BAD_FORM into a context. -/
def answeredOffer : State := answerDirect 0 ⟨1, 13, 0, 0⟩ none .badForm fifthStep

theorem postedHeader_answeredOffer (i : SlotNo) : postedHeader answeredOffer i = none := by
  have header : heldHeader answeredOffer i = heldHeader fifthStep i := rfl
  have contexts : answeredOffer.exch.contexts[i] = if i = 0 then some ⟨0, 13, 0, none⟩ else none := by
    show (fifthStep.exch.contexts.upd 0 fun _ => some ⟨0, 13, 0, none⟩)[i] = _
    rw [Table.upd_get]
    exact if_congr Iff.rfl rfl (Vector.getElem_replicate ..)
  have before := postedHeader_fifthStep i
  rw [postedHeader_eq] at before ⊢
  rw [header, contexts]
  by_cases first : i = 0
  · rw [if_pos first]
    cases heldHeader fifthStep i with
    | none => rfl
    | some h => exact if_neg (by rw [decide_eq_true_eq]; exact fun c => (nomatch c.2))
  · rw [if_neg first] at before ⊢
    have same : fifthStep.exch.contexts[i] = none := Vector.getElem_replicate ..
    rw [same] at before
    exact before

theorem sweepStale_fifthStep : sweepStale fifthStep = answeredOffer := by
  have stale : (List.finRange 13).foldl (fun s src => answerStale src s) fifthStep = fifthStep := by
    refine foldl_fixed (f := fun s src => answerStale src s) (fun src => answerStale_none fun i => ?_) _
    unfold slotBehind
    rw [postedHeader_fifthStep]
    split
    · have source : headerSource ⟨1, 13, 0, 0⟩ = none := rfl
      rw [Option.any_some, source, decide_eq_false (fun c : none = some src => (nomatch c)), Bool.false_and]
    · rfl
  have first : answerBadSource 0 fifthStep = answeredOffer := by
    unfold answerBadSource
    rw [postedHeader_fifthStep, if_pos rfl]
    rfl
  have others : ∀ i, answerBadSource i answeredOffer = answeredOffer := fun i => by
    unfold answerBadSource
    rw [postedHeader_answeredOffer]
  unfold sweepStale forSlots
  rw [stale, List.finRange_succ, List.foldl_cons, first]
  exact foldl_fixed (f := fun s i => answerBadSource i s) others _

/-- Refutes O20, by a state that no run reaches: the exchange is HALTED, a sweep is in progress at step 5 and already offers
slot 0, which a source above 12 has POSTED. The step answers that slot BAD_FORM; the answer is held pending in a context, and
the sweep still offers the slot. -/
theorem not_stepKeepsSlots : ¬ Obligations.StepKeepsSlots := by
  unfold Obligations.StepKeepsSlots
  intro h
  obtain ⟨command, is⟩ : ∃ c, c = Instr.sweep 1 0 (Vector.replicate 64 Header.zero) ⟨none, none⟩ := ⟨_, rfl⟩
  have credits := haltedSweep_creditsForm
  have slots := haltedSweep_slotsForm
  have next : step { haltedSweep with pending := [command] } = .next answeredOffer := by
    rw [stepRunsFrontCommand.1 command [] _ rfl, is]
    show exec (.sweep 1 0 (Vector.replicate 64 Header.zero) ⟨none, none⟩) haltedSweep = _
    rw [exec_sweep_step rfl, sweepStep_five (w := offeringSweep) rfl rfl, ← sweepStale_fifthStep]
    rfl
  have kept := h { haltedSweep with pending := [command] } answeredOffer ⟨credits.lanes, credits.down, credits.buffers, credits.images⟩
    ⟨slots.single, slots.context, slots.offered⟩ next
  have open' : answeredOffer.exch.contexts[(0 : SlotNo)] = some ⟨0, 13, 0, none⟩ := Table.upd_same _ _ _
  exact (nomatch open'.symm.trans (kept.offered { offeringSweep with step := 6 } 0 rfl rfl))

end Sys2Proof.Machine
end

section
/-! The jobs of the part lane by lane, and what the forms that every step keeps look at (R84 to R88). -/

namespace Sys2Proof.Machine

/-! ### The jobs of one lane among those of the part -/

/-- The jobs of a lane, queued and out. -/
def laneJobs (r : LaneRec) : List Job := r.queue ++ r.out

/-- The jobs of two states that differ in one lane alone. -/
theorem allJobs_split {s t : State} {l : Lane} (others : OtherLanes l s t) :
    ∃ rest, (allJobs s).Perm (laneJobs s.lanes[l] ++ rest) ∧ (allJobs t).Perm (laneJobs t.lanes[l] ++ rest) := by
  have lanes : (List.finRange 8).Perm (l :: (List.finRange 8).erase l) := List.perm_cons_erase (List.mem_finRange l)
  have same : ((List.finRange 8).erase l).flatMap (fun m => t.lanes[m].queue ++ t.lanes[m].out) =
      ((List.finRange 8).erase l).flatMap fun m => s.lanes[m].queue ++ s.lanes[m].out :=
    List.flatMap_congr fun m mem => by
      rw [others m ((List.nodup_finRange 8).mem_erase_iff.1 mem).1]
  refine ⟨((List.finRange 8).erase l).flatMap fun m => s.lanes[m].queue ++ s.lanes[m].out, ?_, ?_⟩
  · exact lanes.flatMap_right _
  · rw [← same]
    exact lanes.flatMap_right _

theorem mem_allJobs {s : State} {j : Job} : j ∈ allJobs s ↔ ∃ l : Lane, j ∈ laneJobs s.lanes[l] := by
  simp only [allJobs, laneJobs, List.mem_flatMap, List.mem_finRange, true_and]

/-- The jobs of a lane have buffers of their own. -/
theorem CreditsForm.apart {s : State} (h : CreditsForm s) (l : Lane) : ((laneJobs s.lanes[l]).map Job.buffer).Nodup := by
  obtain ⟨rest, perm, -⟩ := allJobs_split (s := s) (t := s) (l := l) fun _ _ => rfl
  have nodup := (perm.map Job.buffer).nodup_iff.1 h.buffers
  rw [List.map_append] at nodup
  exact nodup.of_append_left

theorem CreditsForm.out_apart {s : State} (h : CreditsForm s) (l : Lane) : (s.lanes[l].out.map Job.buffer).Nodup := by
  have apart := h.apart l
  rw [laneJobs, List.map_append] at apart
  exact apart.of_append_right

/-- The buffers of the part's jobs after a change of one lane from which jobs may go. -/
theorem allJobs_buffers {s t : State} {l : Lane} (others : OtherLanes l s t) {gone : List Buffer}
    (jobs : ((laneJobs s.lanes[l]).map Job.buffer).Perm ((laneJobs t.lanes[l]).map Job.buffer ++ gone)) :
    ((allJobs s).map Job.buffer).Perm ((allJobs t).map Job.buffer ++ gone) := by
  obtain ⟨rest, before, after⟩ := allJobs_split others
  refine (before.map Job.buffer).trans ?_
  rw [List.map_append]
  refine (jobs.append_right _).trans (List.Perm.trans ?_ ((after.map Job.buffer).symm.append_right gone))
  rw [List.map_append, List.append_assoc, List.append_assoc]
  exact List.perm_append_comm.append_left _

/-- The credits' form after a change of one lane from which jobs may go, and with them their images. -/
theorem CreditsForm.of_lane {s t : State} {l : Lane} (h : CreditsForm s) (up : s.office.startUp = none) (up' : t.office.startUp = none)
    (others : OtherLanes l s t) (form : CreditForm t.lanes[l]) {gone : List Buffer}
    (jobs : ((laneJobs s.lanes[l]).map Job.buffer).Perm ((laneJobs t.lanes[l]).map Job.buffer ++ gone))
    (images : ∀ b : Buffer, t.images[b] = none → s.images[b] = none ∨ b ∈ gone) : CreditsForm t := by
  have bufs := allJobs_buffers others jobs
  have apart := bufs.nodup_iff.1 h.buffers
  refine ⟨fun _ m => ?_, fun c => absurd up' c, apart.of_append_left, fun j mem empty => ?_⟩
  · by_cases same : m = l
    · rw [same]
      exact form
    · rw [others m same]
      exact h.lanes up m
  · have buffer := List.mem_map_of_mem (f := Job.buffer) mem
    rcases images j.buffer empty with none' | freed
    · obtain ⟨i, old, same⟩ := List.mem_map.1 (bufs.mem_iff.2 (List.mem_append_left _ buffer))
      exact h.images i old ((congrArg (fun b : Buffer => s.images[b]) same).trans none')
    · exact List.disjoint_of_nodup_append apart buffer freed

/-- The credits' form after a job has joined a lane, its image in a buffer that no job had. -/
theorem CreditsForm.join {s t : State} {l : Lane} (h : CreditsForm s) (up : s.office.startUp = none) (up' : t.office.startUp = none)
    (others : OtherLanes l s t) (form : CreditForm t.lanes[l]) {j : Job} (jobs : (laneJobs t.lanes[l]).Perm (j :: laneJobs s.lanes[l]))
    (fresh : ∀ i ∈ allJobs s, i.buffer ≠ j.buffer) (image : t.images[j.buffer] ≠ none)
    (images : ∀ b : Buffer, b ≠ j.buffer → t.images[b] = s.images[b]) : CreditsForm t := by
  obtain ⟨rest, before, after⟩ := allJobs_split others
  have all : (allJobs t).Perm (j :: allJobs s) := (after.trans (jobs.append_right rest)).trans (before.symm.cons j)
  refine ⟨fun _ m => ?_, fun c => absurd up' c, ?_, fun i mem => ?_⟩
  · by_cases same : m = l
    · rw [same]
      exact form
    · rw [others m same]
      exact h.lanes up m
  · refine (all.map Job.buffer).nodup_iff.2 (List.nodup_cons.2 ⟨fun mem => ?_, h.buffers⟩)
    obtain ⟨i, old, same⟩ := List.mem_map.1 mem
    exact fresh i old same
  · rcases List.mem_cons.1 (all.mem_iff.1 mem) with rfl | old
    · exact image
    · rw [images i.buffer (fresh i old)]
      exact h.images i old

/-! ### Changes that neither credits nor stock look at -/

/-- The job is the same but for its delivery mark, and for PRINTED after FED. -/
structure JobStill (j i : Job) : Prop where
  same   : i = { j with state := i.state, delivery := i.delivery }
  sent   : i.state = .sent ↔ j.state = .sent
  queued : i.state = .queued ↔ j.state = .queued

theorem JobStill.refl (j : Job) : JobStill j j := ⟨rfl, Iff.rfl, Iff.rfl⟩

theorem JobStill.trans {i j k : Job} (h : JobStill i j) (g : JobStill j k) : JobStill i k :=
  ⟨by rw [g.same, h.same], g.sent.trans h.sent, g.queued.trans h.queued⟩

/-- The lane's state, jobs, K and credits stand, and a link start is one that stood or belongs to STARTING. -/
structure LaneStill (r r' : LaneRec) : Prop where
  state    : r'.state = r.state
  queue    : r'.queue = r.queue
  out      : List.Forall₂ JobStill r.out r'.out
  cap      : r'.cap = r.cap
  credits  : r'.credits = r.credits
  starting : (r'.link.phase = .greeting ∨ r'.link.restartDue = true) →
    r.link.phase = .greeting ∨ r.link.restartDue = true ∨ r.state = .starting

theorem LaneStill.refl (r : LaneRec) : LaneStill r r :=
  ⟨rfl, rfl, List.forall₂_same.2 fun _ _ => JobStill.refl _, rfl, rfl, fun h => h.elim .inl fun c => .inr (.inl c)⟩

theorem forall₂_trans {α : Type} {R : α → α → Prop} (step : ∀ a b c, R a b → R b c → R a c) {xs ys zs : List α}
    (h : List.Forall₂ R xs ys) (g : List.Forall₂ R ys zs) : List.Forall₂ R xs zs := by
  induction h generalizing zs with
  | nil => exact g
  | cons first _ ih =>
    cases g with
    | cons second rest => exact .cons (step _ _ _ first second) (ih rest)

theorem LaneStill.trans {r r' r'' : LaneRec} (h : LaneStill r r') (g : LaneStill r' r'') : LaneStill r r'' where
  state := g.state.trans h.state
  queue := g.queue.trans h.queue
  out := forall₂_trans (R := JobStill) (fun _ _ _ first second => JobStill.trans first second) h.out g.out
  cap := g.cap.trans h.cap
  credits := g.credits.trans h.credits
  starting := fun c => by
    rcases g.starting c with phase | due | state
    · exact h.starting (.inl phase)
    · exact h.starting (.inr due)
    · exact .inr (.inr (h.state.symm.trans state))

theorem exists_of_forall₂_mem {α : Type} {R : α → α → Prop} {xs ys : List α} (h : List.Forall₂ R xs ys) {y : α} (mem : y ∈ ys) :
    ∃ x ∈ xs, R x y := by
  induction h with
  | nil => exact absurd mem List.not_mem_nil
  | cons first _ ih =>
    rcases List.mem_cons.1 mem with rfl | later
    · exact ⟨_, List.mem_cons_self, first⟩
    · obtain ⟨x, old, rel⟩ := ih later
      exact ⟨x, List.mem_cons_of_mem _ old, rel⟩

/-- A function of a job that neither its state nor its delivery mark enters reads the same in both lists. -/
theorem map_still {α : Type} {f : Job → α} (h : ∀ j st d, f { j with state := st, delivery := d } = f j) {js is : List Job}
    (still : List.Forall₂ JobStill js is) : is.map f = js.map f := by
  induction still with
  | nil => rfl
  | cons first _ ih => rw [List.map_cons, List.map_cons, ih, first.same, h]

theorem LaneStill.jobs {r r' : LaneRec} (still : LaneStill r r') {α : Type} {f : Job → α}
    (h : ∀ j st d, f { j with state := st, delivery := d } = f j) : (laneJobs r').map f = (laneJobs r).map f := by
  rw [laneJobs, laneJobs, List.map_append, List.map_append, still.queue, map_still h still.out]

theorem CreditForm.still {r r' : LaneRec} (h : CreditForm r) (still : LaneStill r r') : CreditForm r' where
  unlinked := fun c => by
    rw [still.cap]
    exact h.unlinked (by rw [← still.state]; exact c)
  linked := fun c => by
    rw [still.cap]
    exact h.linked (by rw [← still.state]; exact c)
  printing := by
    have none' : r'.out = [] ↔ r.out = [] := by
      rw [← List.length_eq_zero_iff, ← List.length_eq_zero_iff, still.out.length_eq]
    rw [still.state, h.printing, not_iff_not, none']
  absent := fun c => by
    rw [still.credits]
    exact h.absent (by rw [← still.cap]; exact c)
  sum := fun K c => by
    rw [still.credits, ← still.out.length_eq]
    exact h.sum K (by rw [← still.cap]; exact c)
  out := fun i mem => by
    obtain ⟨j, old, same⟩ := exists_of_forall₂_mem still.out mem
    obtain ⟨serial, state⟩ := h.out j old
    rw [same.same]
    exact ⟨serial, fun c => state (same.queued.1 c)⟩
  starting := fun c => by
    rw [still.state]
    rcases still.starting c with phase | due | state
    · exact h.starting (.inl phase)
    · exact h.starting (.inr due)
    · exact state

/-- What the credits and the stock look at stands, but for delivery marks. -/
structure Stays (s t : State) : Prop where
  up     : s.office.startUp = none → t.office.startUp = none
  flight : t.office.flight = s.office.flight
  lanes  : ∀ l : Lane, LaneStill s.lanes[l] t.lanes[l]
  images : t.images = s.images
  stock  : t.stock = { s.stock with kinds := t.stock.kinds }
  table  : t.issue.table = s.issue.table

theorem Stays.trans {s t u : State} (h : Stays s t) (g : Stays t u) : Stays s u where
  up := g.up ∘ h.up
  flight := g.flight.trans h.flight
  lanes := fun l => (h.lanes l).trans (g.lanes l)
  images := g.images.trans h.images
  stock := by rw [g.stock, h.stock]
  table := g.table.trans h.table

theorem Stays.refl (s : State) : Stays s s := ⟨id, rfl, fun _ => LaneStill.refl _, rfl, rfl, rfl⟩

theorem allJobs_still {s t : State} (h : Stays s t) {α : Type} {f : Job → α} (same : ∀ j st d, f { j with state := st, delivery := d } = f j) :
    (allJobs t).map f = (allJobs s).map f := by
  rw [allJobs, allJobs, List.map_flatMap, List.map_flatMap]
  exact List.flatMap_congr fun l _ => (h.lanes l).jobs same

theorem CreditsForm.still {s t : State} (h : CreditsForm s) (up : s.office.startUp = none) (still : Stays s t) : CreditsForm t where
  lanes := fun _ l => (h.lanes up l).still (still.lanes l)
  down := fun c => absurd (still.up up) c
  buffers := by
    rw [allJobs_still still fun _ _ _ => rfl]
    exact h.buffers
  images := fun j mem => by
    have buffer := List.mem_map_of_mem (f := Job.buffer) mem
    rw [allJobs_still still fun _ _ _ => rfl] at buffer
    obtain ⟨i, old, same⟩ := List.mem_map.1 buffer
    rw [still.images]
    exact fun c => h.images i old ((congrArg (fun b : Buffer => s.images[b]) same).trans c)

end Sys2Proof.Machine
end

section
/-! The operations that change nothing the credits and the stock look at. -/

namespace Sys2Proof.Machine

namespace Stays

variable {s t u : State}

theorem ite {p : Prop} [Decidable p] (h : p → Stays s t) (g : ¬ p → Stays s u) : Stays s (if p then t else u) := by
  split
  · exact h ‹_›
  · exact g ‹_›

theorem foldl {α : Type} {f : State → α → State} (h : ∀ s a, Stays s (f s a)) : ∀ (as : List α) (s : State), Stays s (as.foldl f s)
  | [], s => refl s
  | a :: as, s => (h s a).trans (foldl h as (f s a))

/-! ### Changes of one block -/

/-- The office, lanes, images, stock and tickets stand. -/
theorem of_frame (office : t.office = s.office) (lanes : t.lanes = s.lanes) (images : t.images = s.images) (stock : t.stock = s.stock)
    (table : t.issue.table = s.issue.table) : Stays s t :=
  ⟨fun up => by rw [office]; exact up, by rw [office], fun l => by rw [lanes]; exact LaneStill.refl _, images, by rw [stock], table⟩

/-- Work at the desk. -/
theorem desk {f : State → State} (hf : Desk f) (s : State) : Stays s (f s) := by
  rw [hf.rest s]
  exact of_frame rfl rfl rfl rfl rfl

theorem onJournal (s : State) (f : JournalWriter → JournalWriter) : Stays s (s.onJournal f) := of_frame rfl rfl rfl rfl rfl

theorem onFaults (s : State) (f : FaultTable → FaultTable) : Stays s (s.onFaults f) := of_frame rfl rfl rfl rfl rfl

theorem onHost (s : State) (f : HostMem → HostMem) : Stays s (s.onHost f) := of_frame rfl rfl rfl rfl rfl

theorem onExch (s : State) (f : ExchangeController → ExchangeController) : Stays s (s.onExch f) := of_frame rfl rfl rfl rfl rfl

theorem onAlerts (s : State) (f : Alerts → Alerts) : Stays s (s.onAlerts f) := onExch s _

theorem onDrawer (s : State) (w : Window) (f : Drawer → Drawer) : Stays s (s.onDrawer w f) := desk (Desk.onDrawer w f) s

/-- A lane's record changed where nothing of it is looked at. -/
theorem onLane (s : State) (l : Lane) {f : LaneRec → LaneRec} (h : LaneStill s.lanes[l] (f s.lanes[l])) : Stays s (s.onLane l f) :=
  ⟨id, rfl, fun m => by
    show LaneStill s.lanes[m] (s.lanes.upd l f)[m]
    rw [Table.upd_get]
    split
    next here =>
      subst here
      exact h
    · exact LaneStill.refl _, rfl, rfl, rfl⟩

theorem ofRec {r r' : LaneRec} (state : r'.state = r.state) (queue : r'.queue = r.queue) (out : r'.out = r.out) (cap : r'.cap = r.cap)
    (credits : r'.credits = r.credits) (phase : r'.link.phase = .greeting → r.link.phase = .greeting ∨ r.state = .starting)
    (due : r'.link.restartDue = true → r.link.restartDue = true ∨ r.state = .starting) : LaneStill r r' where
  state := state
  queue := queue
  out := by rw [out]; exact (LaneStill.refl r).out
  cap := cap
  credits := credits
  starting := fun c => c.elim (fun c => (phase c).elim .inl fun d => .inr (.inr d)) fun c => .inr (due c)

/-- A change of a lane's record that its state, jobs, credits and phase do not enter. -/
theorem onLaneRest (s : State) (l : Lane) {f : LaneRec → LaneRec} (state : ∀ r, (f r).state = r.state) (queue : ∀ r, (f r).queue = r.queue)
    (out : ∀ r, (f r).out = r.out) (cap : ∀ r, (f r).cap = r.cap) (credits : ∀ r, (f r).credits = r.credits)
    (phase : ∀ r, (f r).link.phase = r.link.phase) (due : ∀ r, (f r).link.restartDue = r.link.restartDue) : Stays s (s.onLane l f) :=
  onLane s l (ofRec (state _) (queue _) (out _) (cap _) (credits _) (fun c => .inl ((phase _).symm.trans c)) fun c => .inl ((due _).symm.trans c))

theorem onLink (s : State) (l : Lane) {f : LinkEngine → LinkEngine} (phase : ∀ k, (f k).phase = k.phase)
    (due : ∀ k, (f k).restartDue = k.restartDue) : Stays s (s.onLink l f) :=
  onLaneRest s l (fun _ => rfl) (fun _ => rfl) (fun _ => rfl) (fun _ => rfl) (fun _ => rfl) (fun _ => phase _) fun _ => due _

theorem onFeed (s : State) (l : Lane) (f : FeedMonitor → FeedMonitor) : Stays s (s.onFeed l f) :=
  onLaneRest s l (fun _ => rfl) (fun _ => rfl) (fun _ => rfl) (fun _ => rfl) (fun _ => rfl) (fun _ => rfl) fun _ => rfl

theorem setPins (l : Lane) (p : Pins) (s : State) : Stays s (setPins l p s) :=
  onLaneRest s l (fun _ => rfl) (fun _ => rfl) (fun _ => rfl) (fun _ => rfl) (fun _ => rfl) (fun _ => rfl) fun _ => rfl

theorem setLines (ps : Lines) (s : State) : Stays s (setLines ps s) := foldl (f := fun s (p : Lane × Pins) => Machine.setPins p.1 p.2 s) (fun s p => setPins p.1 p.2 s) ps s

theorem onAct (s : State) (l : Lane) (f : Activity → Activity) : Stays s (s.onAct l f) := by
  rw [onAct_eq]
  refine onLaneRest s l ?_ ?_ ?_ ?_ ?_ ?_ ?_
  all_goals
    intro r
    rw [acted_eq]

theorem countFault (l : Lane) (s : State) : Stays s (countFault l s) := onAct s l _

theorem countFed (l : Lane) (n : Nat) (s : State) : Stays s (countFed l n s) := onAct s l _

theorem onRecord (l : Lane) (f : FaultRec → FaultRec) (s : State) : Stays s (onRecord l f s) := onFaults s _

/-! ### Accesses and entries -/

theorem access (s : State) : Stays s s.access.1 := by
  unfold State.access
  split
  · exact refl s
  · exact onHost s fun h => { h with busIn := none }
  next n _ => exact onHost s fun h => { h with busIn := some n }

theorem busFault (s : State) : Stays s (busFault s) := of_frame rfl rfl rfl rfl rfl

theorem give (b : EntryBody) (s : State) : Stays s (give b s) := desk (Desk.give b) s

theorem giveFault (l : Lane) (k : FaultKind) (r : Bool) (n : Nat) (s : State) : Stays s (giveFault l k r n s) := by
  rw [giveFault_rest]
  exact of_frame rfl rfl rfl rfl rfl

theorem recorded (l : Lane) (k : FaultKind) (s : State) : Stays s (recorded l k s) := by
  unfold Machine.recorded
  split
  · exact ((countFault l s).trans ((onRecord l _ _).trans (onAlerts _ _))).trans (giveFault l k _ _ _)
  · exact ((countFault l s).trans (onRecord l _ _)).trans (ite (fun _ => refl _) fun _ => giveFault l k _ _ _)

theorem raiseRecovered (l : Lane) (k : FaultKind) (s : State) : Stays s (raiseRecovered l k s) :=
  (countFault l s).trans (giveFault l k _ _ _)

/-! ### The link -/

theorem stallEdge (was : Bool) (l : Lane) (s : State) : Stays s (stallEdge was l s) := by
  unfold Machine.stallEdge
  refine ite (fun _ => ?_) fun _ => ite (fun _ => ?_) fun _ => refl s
  · exact onLaneRest s l (fun _ => rfl) (fun _ => rfl) (fun _ => rfl) (fun _ => rfl) (fun _ => rfl) (fun _ => rfl) fun _ => rfl
  · exact onLaneRest s l (fun _ => rfl) (fun _ => rfl) (fun _ => rfl) (fun _ => rfl) (fun _ => rfl) (fun _ => rfl) fun _ => rfl

/-- The jobs out of a lane changed one by one. -/
theorem onJobs {r r' : LaneRec} {f : Job → Job} (same : r' = { r with out := r.out.map f, link := r'.link })
    (h : ∀ j, JobStill j (f j)) (phase : r'.link.phase = r.link.phase) (due : r'.link.restartDue = r.link.restartDue) : LaneStill r r' where
  state := by rw [same]
  queue := by rw [same]
  out := by
    rw [same]
    exact List.forall₂_map_right_iff.2 (List.forall₂_same.2 fun j _ => h j)
  cap := by rw [same]
  credits := by rw [same]
  starting := fun c => by
    rw [phase, due] at c
    exact c.elim .inl fun d => .inr (.inl d)

theorem onOut (l : Lane) (b : Buffer) {f : Job → Job} (h : ∀ j, JobStill j (f j)) (s : State) : Stays s (onOut l b f s) :=
  onLane s l (onJobs (f := fun j => if j.buffer = b then f j else j) rfl (fun j => by
    split
    · exact h j
    · exact JobStill.refl j) rfl rfl)

theorem beginCarried (l : Lane) (c : Carried) (s : State) : Stays s (beginCarried l c s) := by
  have begun := onLink s l (f := fun k =>
    { k with exchange := some (startExchange (s.lane l).pins s.office.settings.stretch c), poll := none }) (fun _ => rfl) fun _ => rfl
  unfold Machine.beginCarried
  split
  · exact begun.trans (onOut l _ (f := Job.begin) (fun _ => ⟨rfl, Iff.rfl, Iff.rfl⟩) _)
  · exact begun

theorem beginExchange (l : Lane) (f : Frame) (s : State) : Stays s (beginExchange l f s) := beginCarried l _ s

theorem beginPoll (l : Lane) (s : State) : Stays s (beginPoll l s) := beginExchange l _ s

theorem pump (l : Lane) (s : State) : Stays s (pump l s) := by
  unfold Machine.pump
  split
  · split
    · exact refl s
    · exact (onLink s l (f := fun k => { k with waiting := none }) (fun _ => rfl) fun _ => rfl).trans (beginExchange l _ _)
  · exact refl s

theorem dropWaiting (l : Lane) (s : State) : Stays s (dropWaiting l s) := by
  unfold Machine.dropWaiting
  split
  · exact ite (fun _ => onLink s l (fun _ => rfl) fun _ => rfl) fun _ => refl s
  · exact refl s

theorem clearFlush (l : Lane) (s : State) : Stays s (clearFlush l s) :=
  onLaneRest s l (fun _ => rfl) (fun _ => rfl) (fun _ => rfl) (fun _ => rfl) (fun _ => rfl) (fun _ => rfl) fun _ => rfl

theorem linkDown (l : Lane) (s : State) : Stays s (linkDown l s) :=
  Stays.trans (t := s.onLink l fun k =>
    { k with phase := .down, exchange := none, repeatFrame := none, waiting := none, poll := none, restartDue := false })
    (onLane s l (f := fun r => { r with link := { r.link with
        phase := .down, exchange := none, repeatFrame := none, waiting := none, poll := none, restartDue := false } })
      (ofRec rfl rfl rfl rfl rfl (fun c => (nomatch c)) fun c => (nomatch c))) (clearFlush l _)

theorem linkStart {l : Lane} {s : State} (starting : s.lanes[l].state = .starting) : Stays s (linkStart l s) :=
  (Stays.trans (t := s.onLink l fun k =>
    { k with
      phase := .greeting, rate := s.office.settings.rate, ack := none, fails := 0, repeatFrame := none, waiting := none,
      headFault := false, exchange := none, restartDue := false })
    (onLane s l (f := fun r => { r with link := { r.link with
        phase := .greeting, rate := s.office.settings.rate, ack := none, fails := 0, repeatFrame := none, waiting := none,
        headFault := false, exchange := none, restartDue := false } })
      (ofRec rfl rfl rfl rfl rfl (fun _ => .inr starting) fun c => (nomatch c)))
    (clearFlush l _)).trans (beginExchange l _ _)

theorem setStep (l : Lane) (x : XStep) (n : Option Nat) (s : State) : Stays s (setStep l x n s) := onLink s l (fun _ => rfl) fun _ => rfl

theorem delivered (l : Lane) (f : Frame) (s : State) : Stays s (delivered l f s) := by
  unfold Machine.delivered
  split
  · exact ite (fun _ => refl s) fun _ => onOut l _ (f := fun j => { j with delivery := match j.delivery with
      | .carrying _ => .delivered
      | d => d }) (fun _ => ⟨rfl, Iff.rfl, Iff.rfl⟩) s
  · exact onLink s l (fun _ => rfl) fun _ => rfl
  · exact refl s

theorem pollOrWait (l : Lane) (other : Bool) (s : State) : Stays s (pollOrWait l other s) :=
  ite (fun _ => ite (fun _ => beginPoll l s) fun _ => onLink s l (fun _ => rfl) fun _ => rfl) fun _ => refl s

end Stays

end Sys2Proof.Machine
end

section
/-! The credits of a lane through what happens to its jobs out (R79, R88). -/

namespace Sys2Proof.Machine

/-- The credits' form of a lane, with the property of its jobs out left open. -/
structure Credited (P : Job → Prop) (r : LaneRec) : Prop where
  unlinked : (r.state = .off ∨ r.state = .starting ∨ ∃ w, r.state = .parked w) → r.cap = none
  linked   : (r.state = .ready ∨ r.state = .printing) → r.cap ≠ none
  printing : r.state = .printing ↔ r.out ≠ []
  absent   : r.cap = none → r.credits = 0
  sum      : ∀ K, r.cap = some K → 1 ≤ K ∧ K ≤ 4 ∧ r.credits + r.out.length = K
  out      : ∀ j ∈ r.out, P j
  starting : (r.link.phase = .greeting ∨ r.link.restartDue = true) → r.state = .starting

/-- A job out holds a serial and is not QUEUED. -/
def OutJob (j : Job) : Prop := j.serial ≠ none ∧ j.state ≠ .queued

theorem CreditForm.credited {r : LaneRec} (h : CreditForm r) : Credited OutJob r :=
  ⟨h.unlinked, h.linked, h.printing, h.absent, h.sum, h.out, h.starting⟩

theorem Credited.form {r : LaneRec} (h : Credited OutJob r) : CreditForm r :=
  ⟨h.unlinked, h.linked, h.printing, h.absent, h.sum, h.out, h.starting⟩

namespace Credited

variable {P Q : Job → Prop} {r : LaneRec}

/-- A lane that is neither READY nor PRINTING has no job out. -/
theorem out_nil (h : Credited P r) (state : r.state ≠ .printing) : r.out = [] := by
  by_contra some'
  exact state (h.printing.2 some')

/-- A lane in STARTING, READY or PRINTING that is not in its link start is not due for one. -/
theorem not_due (h : Credited P r) (state : r.state ≠ .starting) : r.link.phase ≠ .greeting ∧ r.link.restartDue = false := by
  refine ⟨fun c => state (h.starting (.inl c)), ?_⟩
  cases due : r.link.restartDue with
  | false => rfl
  | true => exact absurd (h.starting (.inr due)) state

/-- A lane that changes its jobs out and credits but neither its state nor K, both READY or PRINTING. -/
theorem of_working {r' : LaneRec} (h : Credited P r) (working : r.state = .ready ∨ r.state = .printing)
    (state : r'.state = if r'.out = [] then .ready else .printing) (cap : r'.cap = r.cap)
    (sum : r'.credits + r'.out.length = r.credits + r.out.length) (out : ∀ j ∈ r'.out, Q j)
    (phase : r'.link.phase = r.link.phase) (due : r'.link.restartDue = r.link.restartDue) : Credited Q r' where
  unlinked := fun c => by
    exfalso
    rw [state] at c
    split at c
    · rcases c with c | c | ⟨w, c⟩ <;> exact (nomatch c)
    · rcases c with c | c | ⟨w, c⟩ <;> exact (nomatch c)
  linked := fun _ => by
    rw [cap]
    exact h.linked working
  printing := by
    rw [state]
    split
    next none' => exact ⟨fun c => (nomatch c), fun c => absurd none' c⟩
    next some' => exact ⟨fun _ => some', fun _ => rfl⟩
  absent := fun c => absurd (cap.symm.trans c) (h.linked working)
  sum := fun K c => by
    rw [sum]
    exact h.sum K (cap.symm.trans c)
  out := out
  starting := fun c => by
    rw [phase, due] at c
    have none' := h.not_due (r := r) fun d => by rw [d] at working; rcases working with c | c <;> exact (nomatch c)
    rcases c with c | c
    · exact absurd c none'.1
    · rw [none'.2] at c
      exact (nomatch c)

end Credited

/-- The jobs of a list with one of them at the front. -/
theorem perm_cons_others {js : List Job} (apart : (js.map Job.buffer).Nodup) {j : Job} (mem : j ∈ js) :
    js.Perm (j :: js.filter fun i => decide (i.buffer ≠ j.buffer)) := by
  induction js with
  | nil => exact absurd mem List.not_mem_nil
  | cons i is ih =>
    have cons : i.buffer ∉ is.map Job.buffer ∧ (is.map Job.buffer).Nodup := List.nodup_cons.1 apart
    rcases List.mem_cons.1 mem with rfl | later
    · have keep : is.filter (fun i => decide (i.buffer ≠ j.buffer)) = is := List.filter_eq_self.2 fun x hx =>
        decide_eq_true fun same => cons.1 (List.mem_map.2 ⟨x, hx, same⟩)
      rw [List.filter_cons_of_neg (by simp), keep]
    · have other : i.buffer ≠ j.buffer := fun same => cons.1 (List.mem_map.2 ⟨j, later, same.symm⟩)
      rw [List.filter_cons_of_pos (by simpa using other)]
      exact ((ih cons.2 later).cons i).trans (List.Perm.swap j i _)

theorem length_others {js : List Job} (apart : (js.map Job.buffer).Nodup) {j : Job} (mem : j ∈ js) :
    (js.filter fun i => decide (i.buffer ≠ j.buffer)).length + 1 = js.length := by
  rw [(perm_cons_others apart mem).length_eq]
  rfl

namespace Credited

variable {P Q : Job → Prop} {r : LaneRec}

/-- A job leaves the jobs out. -/
theorem left (h : Credited P r) (working : r.state = .ready ∨ r.state = .printing) (apart : (r.out.map Job.buffer).Nodup) {j : Job}
    (mem : j ∈ r.out) : Credited P (r.left j.buffer) := by
  have printing : r.state = .printing := h.printing.2 (List.ne_nil_of_mem mem)
  refine h.of_working working ?_ rfl ?_ (fun i out => h.out i (List.mem_filter.1 out).1) rfl rfl
  · rw [left_working working, printing]
    rfl
  · show r.credits + 1 + (r.out.filter _).length = _
    have count := length_others apart mem
    omega

theorem left_stays (working : r.state = .ready ∨ r.state = .printing) (b : Buffer) :
    (r.left b).state = .ready ∨ (r.left b).state = .printing := by
  rw [left_working working]
  split
  · exact .inl rfl
  · exact working

/-- A change that leaves the state, the jobs out, the credits and the phase. -/
theorem of_same {r' : LaneRec} (h : Credited P r) (state : r'.state = r.state) (out : r'.out = r.out) (cap : r'.cap = r.cap)
    (credits : r'.credits = r.credits) (phase : r'.link.phase = r.link.phase) (due : r'.link.restartDue = r.link.restartDue) :
    Credited P r' :=
  ⟨by rw [state, cap]; exact h.unlinked, by rw [state, cap]; exact h.linked, by rw [state, out]; exact h.printing,
    by rw [cap, credits]; exact h.absent, by rw [cap, credits, out]; exact h.sum, by rw [out]; exact h.out,
    by rw [phase, due, state]; exact h.starting⟩

/-- A FLUSH requested touches neither phase nor the restart that is due. -/
theorem flushLane_phase (st : Settings) (n : Nat) (r : LaneRec) :
    (flushLane st n r).link.phase = r.link.phase ∧ (flushLane st n r).link.restartDue = r.link.restartDue := by
  unfold flushLane
  split
  · dsimp only
    split <;> exact ⟨rfl, rfl⟩
  · exact ⟨rfl, rfl⟩

/-- The jobs that are SENT and the others are all the jobs out. -/
theorem unsent_length (r : LaneRec) : (r.out.filter fun j => decide (j.state ≠ .sent)).length + r.sentJobs.length = r.out.length := by
  have count := List.length_eq_length_filter_add (l := r.out) fun j => decide (j.state = .sent)
  have unsent : (r.out.filter fun j => decide (j.state ≠ .sent)) = r.out.filter fun j => !decide (j.state = .sent) :=
    List.filter_congr fun j _ => decide_not
  rw [unsent]
  show _ + (r.out.filter _).length = _
  omega

/-- The SENT jobs return to the queue, and a FLUSH is awaited. -/
theorem repaired (h : Credited P r) (working : r.state = .ready ∨ r.state = .printing) (st : Settings) (also : List Buffer)
    (rest : ∀ j ∈ r.out, j.state ≠ .sent → Q j) : Credited Q (r.repaired st also) := by
  rw [repaired_working working]
  obtain ⟨q, isQ⟩ : ∃ q : LaneRec, ({ r.recalled with
    repairRefs := r.repairRefs ++ also ++ r.sentJobs.map Job.buffer
    state := if r.recalled.out = [] then .ready else r.state } : LaneRec) = q := ⟨_, rfl⟩
  have form : Credited Q q := by
    rw [← isQ]
    refine h.of_working working ?_ rfl ?_ (fun i out => ?_) rfl rfl
    · dsimp only
      split
      · rfl
      next some' =>
        refine h.printing.2 fun c => some' ?_
        show r.out.filter _ = []
        rw [c]
        rfl
    · show r.credits + r.sentJobs.length + (r.out.filter _).length = _
      have count := unsent_length r
      omega
    · obtain ⟨mem, unsent⟩ := List.mem_filter.1 out
      exact rest i mem (of_decide_eq_true unsent)
  rw [isQ, flushLane_link]
  exact form.of_same rfl rfl rfl rfl (flushLane_phase _ _ q).1 (flushLane_phase _ _ q).2

/-- The lane HOLDING, no job out. -/
theorem held (h : Credited P r)
    (free : r.link.phase ≠ .greeting ∧ r.link.restartDue = false) (st : Settings) (was : Bool) : Credited Q (r.held st was) := by
  have link : (r.heldLink st).phase = r.link.phase ∧ (r.heldLink st).restartDue = r.link.restartDue := by
    unfold LaneRec.heldLink
    split
    · exact ⟨rfl, rfl⟩
    · exact flushLane_phase _ _ r
  rw [LaneRec.held_eq]
  refine ⟨fun c => ?_, fun c => ?_, ⟨fun c => (nomatch c), fun c => absurd rfl c⟩, fun c => ?_, fun K c => ?_, fun j mem => (nomatch mem), fun c => ?_⟩
  · rcases c with c | c | ⟨w, c⟩ <;> exact (nomatch c)
  · rcases c with c | c <;> exact (nomatch c)
  · have none' : r.out = [] := h.out_nil fun d => absurd c (h.linked (.inr d))
    show r.credits + r.out.length = 0
    rw [none', h.absent c]
    rfl
  · obtain ⟨low, high, total⟩ := h.sum K c
    exact ⟨low, high, total⟩
  · rcases c with c | c
    · exact absurd (link.1.symm.trans c) free.1
    · rw [link.2.symm.trans c] at free
      exact (nomatch free.2)

end Credited

end Sys2Proof.Machine
end

section
/-! What happens to the jobs of a lane: the credits' form of the part through each operation. -/

namespace Sys2Proof.Machine

/-! ### Where the jobs of a lane lie -/

theorem insertJob_perm (j : Job) (q : List Job) : (insertJob j q).Perm (j :: q) := by
  induction q with
  | nil => exact List.Perm.refl _
  | cons x xs ih =>
    unfold insertJob
    split
    · exact List.Perm.refl _
    · exact (ih.cons x).trans (List.Perm.swap j x xs)

theorem map_requeue_buffer (js : List Job) : (js.map Job.requeue).map Job.buffer = js.map Job.buffer := by
  rw [List.map_map]
  rfl

/-- The jobs out, the SENT ones first. -/
theorem out_perm (r : LaneRec) : r.out.Perm (r.sentJobs ++ r.out.filter fun j => decide (j.state ≠ .sent)) := by
  have split := List.filter_append_perm (fun j : Job => decide (j.state = .sent)) r.out
  have unsent : (r.out.filter fun j => decide (j.state ≠ .sent)) = r.out.filter fun j => !decide (j.state = .sent) :=
    List.filter_congr fun j _ => decide_not
  rw [unsent]
  exact split.symm

/-- A recall leaves every job of the lane where it lies. -/
theorem recalled_buffers (r : LaneRec) : ((laneJobs r).map Job.buffer).Perm ((laneJobs r.recalled).map Job.buffer) := by
  have queue := (foldl_insert_perm r.sentJobs r.queue).map Job.buffer
  rw [List.map_append, map_requeue_buffer] at queue
  rw [laneJobs, laneJobs, List.map_append, List.map_append]
  refine List.Perm.trans ?_ (queue.symm.append_right _)
  rw [List.append_assoc]
  refine List.Perm.append_left _ ?_
  have out := (out_perm r).map Job.buffer
  rw [List.map_append] at out
  exact out

theorem repaired_jobs (st : Settings) (also : List Buffer) (r : LaneRec) : laneJobs (r.repaired st also) = laneJobs r.recalled := by
  unfold LaneRec.repaired LaneRec.rest
  rw [flushLane_link]
  split <;> rfl

theorem repaired_buffers (st : Settings) (also : List Buffer) (r : LaneRec) :
    ((laneJobs r).map Job.buffer).Perm ((laneJobs (r.repaired st also)).map Job.buffer) := by
  rw [repaired_jobs]
  exact recalled_buffers r

/-- A job leaves the jobs out. -/
theorem left_buffers {r : LaneRec} (apart : (r.out.map Job.buffer).Nodup) {i j : Job} (mem : i ∈ r.out) (same : i.buffer = j.buffer) :
    ((laneJobs r).map Job.buffer).Perm ((laneJobs (r.left j.buffer)).map Job.buffer ++ [j.buffer]) := by
  have out := (perm_cons_others apart mem).append_left r.queue
  have cons := (out.trans List.perm_middle).map Job.buffer
  rw [← same]
  exact cons.trans (List.perm_append_comm (l₁ := [i.buffer]))

/-- A spoilt job goes back to the queue, or leaves the lane. -/
theorem retried_buffers {r : LaneRec} (apart : (r.out.map Job.buffer).Nodup) {i j : Job} (mem : i ∈ r.out) (same : i.buffer = j.buffer)
    (lost : List Nat) : ((laneJobs r).map Job.buffer).Perm
      ((laneJobs ((r.left j.buffer).retried j lost)).map Job.buffer ++ if j.again then [] else [j.buffer]) := by
  have left := left_buffers apart mem same
  unfold LaneRec.retried
  by_cases again : j.again = true
  · rw [if_pos again, if_pos again, List.append_nil]
    have back := ((insertJob_perm { (j.spoiltBy lost).requeue with attempt := 2 } r.queue).append_right (r.left j.buffer).out).map Job.buffer
    exact (left.trans List.perm_append_comm).trans back.symm
  · rw [if_neg again, if_neg again]
    exact left

/-! ### Stock and tickets, which the credits do not enter -/

theorem CreditsForm.of_frame {s t : State} (h : CreditsForm s) (startUp : t.office.startUp = s.office.startUp) (lanes : t.lanes = s.lanes)
    (images : t.images = s.images) (exch : s.office.startUp ≠ none → t.exch.sweep = s.exch.sweep ∧ t.exch.state = s.exch.state) : CreditsForm t where
  lanes := by rw [startUp, lanes]; exact h.lanes
  down := fun c => by
    rw [startUp] at c
    obtain ⟨sweep, state⟩ := exch c
    rw [sweep, state, lanes]
    exact h.down c
  buffers := by rw [allJobs, lanes]; exact h.buffers
  images := by rw [allJobs, lanes, images]; exact h.images

/-! ### The operations that move jobs -/

variable {s : State} {l : Lane}

/-- A change of a lane's record that keeps its jobs. -/
theorem CreditsForm.turned (h : CreditsForm s) (up : s.office.startUp = none) {f : LaneRec → LaneRec}
    (queue : (f s.lanes[l]).queue = s.lanes[l].queue) (out : (f s.lanes[l]).out = s.lanes[l].out)
    (form : CreditForm s.lanes[l] → CreditForm (f s.lanes[l])) : CreditsForm (s.onLane l f) := by
  have row : (s.onLane l f).lanes[l] = f s.lanes[l] := State.onLane_same _ _ _
  refine h.of_lane (t := s.onLane l f) (l := l) up up (LaneOnly.onLane l f s).others (by rw [row]; exact form (h.lanes up l)) (gone := []) ?_ fun b none' => .inl none'
  rw [row, laneJobs, laneJobs, queue, out, List.append_nil]

theorem CreditsForm.send (h : CreditsForm s) (up : s.office.startUp = none) (can : canSend s l = true) : CreditsForm (sendFront l s) := by
  obtain ⟨working, credits, -, -, -, -, j, q, m, queue, mag, -, -⟩ := (canSend_iff s l).1 can
  have form := h.lanes up l
  rw [sendFront_eq queue mag]
  obtain ⟨f, isF⟩ : ∃ f, imageFrame j.buffer (sentImage s j m.next) = f := ⟨_, rfl⟩
  rw [isF]
  have row : ((sentStock l j m s).onLane l (LaneRec.sent j q m.next f)).lanes[l] = s.lanes[l].sent j q m.next f := State.onLane_same _ _ _
  refine h.of_lane (t := (sentStock l j m s).onLane l (LaneRec.sent j q m.next f)) (l := l) up up
    (LaneOnly.onLane l _ (sentStock l j m s)).others ?_ (gone := []) ?_ fun b none' => .inl ?_
  · rw [row]
    refine Credited.form ?_
    refine form.credited.of_working working ?_ rfl ?_ (fun i mem => ?_) rfl rfl
    · exact (if_neg (List.append_ne_nil_of_right_ne_nil _ (List.cons_ne_nil _ _))).symm
    · show s.lanes[l].credits - 1 + (s.lanes[l].out ++ [j.send m.next]).length = _
      rw [List.length_append, List.length_singleton]
      omega
    · rcases List.mem_append.1 mem with old | new
      · exact form.out i old
      · obtain rfl := List.mem_singleton.1 new
        exact ⟨Option.some_ne_none _, fun c => (nomatch c)⟩
  · rw [row, laneJobs, laneJobs, queue, List.append_nil]
    show (j.buffer :: ((q ++ s.lanes[l].out).map Job.buffer)).Perm ((q ++ (s.lanes[l].out ++ [j.send m.next])).map Job.buffer)
    rw [← List.append_assoc, List.map_append (l₂ := [j.send m.next])]
    exact List.perm_append_comm (l₁ := [j.buffer])
  · by_cases here : b = j.buffer
    · exfalso
      subst here
      have filled : ((sentStock l j m s).onLane l (LaneRec.sent j q m.next f)).images[j.buffer] = some (sentImage s j m.next) :=
        Vector.getElem_set_self ..
      rw [filled] at none'
      exact (nomatch none')
    · have other : ((sentStock l j m s).onLane l (LaneRec.sent j q m.next f)).images[b] = s.images[b] :=
        Vector.getElem_set_ne j.buffer.isLt b.isLt fun c => here (Fin.ext c.symm)
      rw [← other]
      exact none'

/-- A job out that is not SENT is in doubt at a holding fault. -/
theorem inDoubtOf_eq {js : List Job} (out : ∀ j ∈ js, OutJob j) : inDoubtOf js = js.filter fun j => decide (j.state ≠ .sent) := by
  refine List.filter_congr fun j mem => decide_eq_decide.2 ⟨fun h c => ?_, fun h => ?_⟩
  · rw [c] at h
    rcases h with d | d <;> exact (nomatch d)
  · obtain ⟨-, queued⟩ := out j mem
    cases state : j.state with
    | queued => exact absurd state queued
    | sent => exact absurd state h
    | fed => exact .inl rfl
    | printed => exact .inr rfl

theorem CreditForm.settling {r : LaneRec} (h : CreditForm r) (apart : (r.out.map Job.buffer).Nodup) : Settling r where
  jobs := fun j mem => by
    obtain ⟨serial, queued⟩ := h.out j mem
    cases state : j.state with
    | queued => exact absurd state queued
    | sent => exact .inl rfl
    | fed => exact .inr ⟨.inl rfl, serial⟩
    | printed => exact .inr ⟨.inr rfl, serial⟩
  apart := apart

/-- The buffers of a lane that moves to HOLDING. -/
theorem held_buffers {r : LaneRec} (out : ∀ j ∈ r.out, OutJob j) (st : Settings) (was : Bool) : ((laneJobs r).map Job.buffer).Perm
    ((laneJobs (r.faulted.held st was)).map Job.buffer ++ (inDoubtOf r.out).map Job.buffer) := by
  rw [inDoubtOf_eq out, LaneRec.held_eq]
  refine (recalled_buffers r).trans ?_
  rw [laneJobs, List.map_append]
  show List.Perm _ ((r.recalled.queue ++ []).map Job.buffer ++ _)
  rw [List.append_nil]
  exact List.Perm.refl _

/-- The engine of the lane is not in, or due for, a link start that a holding fault would break (R103, R108). -/
def Holdable (s : State) (l : Lane) : Prop :=
  s.lanes[l].state = .starting → s.lanes[l].link.phase ≠ .greeting ∧ s.lanes[l].link.restartDue = false

theorem CreditsForm.hold (h : CreditsForm s) (up : s.office.startUp = none) (k : FaultKind)
    (moves : s.lanes[l].state = .starting ∨ Working s l) (free : Holdable s l) : CreditsForm (raiseHolding l k s) := by
  have form := h.lanes up l
  have settling := form.settling (h.out_apart l)
  have others : OtherLanes l s (raiseHolding l k s) := (Within.raiseHolding l k s).lanes
  have office : (raiseHolding l k s).office.startUp = none := by
    rw [(Within.raiseHolding l k s).office]
    exact up
  have clear : s.lanes[l].link.phase ≠ .greeting ∧ s.lanes[l].link.restartDue = false := by
    by_cases starting : s.lanes[l].state = .starting
    · exact free starting
    · exact form.credited.not_due starting
  rw [raiseHolding_moved k moves settling] at others office ⊢
  have row : (s.lanes.upd l fun r => r.faulted.held s.office.settings (stalled s l))[l] =
      s.lanes[l].faulted.held s.office.settings (stalled s l) := Table.upd_same _ _ _
  refine h.of_lane (l := l) up office others ?_ (gone := (inDoubtOf s.lanes[l].out).map Job.buffer) ?_ fun b none' => ?_
  · dsimp only
    rw [row]
    have faulted : Credited OutJob s.lanes[l].faulted := form.credited.of_same rfl rfl rfl rfl rfl rfl
    exact (faulted.held clear _ _).form
  · dsimp only
    rw [row]
    exact held_buffers form.out _ _
  · have freed := foldl_freed (inDoubtOf s.lanes[l].out) s.images b
    by_cases mem : b ∈ (inDoubtOf s.lanes[l].out).map Job.buffer
    · exact .inr mem
    · rw [if_neg mem] at freed
      exact .inl (freed.symm.trans none')

/-- Freeing one buffer empties no other. -/
theorem freed_one {im : Table 48 (Option (List ImageField))} {b c : Buffer} (empty : (im.upd b fun _ => none)[c] = none) :
    im[c] = none ∨ c = b := by
  rw [Table.upd_get] at empty
  by_cases same : c = b
  · exact .inr same
  · rw [if_neg same] at empty
    exact .inl empty

theorem CreditsForm.issued (h : CreditsForm s) (up : s.office.startUp = none) (working : Working s l) {j : Job} (mem : j ∈ s.lanes[l].out)
    (n : Nat) : CreditsForm (issuedBench l j n (issuedDesk l j n s)) := by
  have desk := (issuedDesk_desk l j n).rest s
  obtain ⟨d, isD⟩ : ∃ d, issuedDesk l j n s = d := ⟨_, rfl⟩
  rw [isD] at desk ⊢
  have lanes : (issuedBench l j n d).lanes = s.lanes.upd l (LaneRec.left j.buffer) := by
    rw [issuedBench_lanes, desk]
    rfl
  have images : (issuedBench l j n d).images = s.images.upd j.buffer fun _ => none := by
    rw [desk]
    unfold issuedBench
    rw [leaveOut_eq]
    rfl
  have office : (issuedBench l j n d).office.startUp = none := by
    rw [desk]
    exact up
  have row : (issuedBench l j n d).lanes[l] = s.lanes[l].left j.buffer := by rw [lanes, Table.upd_same]
  refine h.of_lane (l := l) up office (fun m other => by rw [lanes]; exact Table.upd_ne _ _ _ _ other) ?_ (gone := [j.buffer]) ?_ fun b none' => ?_
  · rw [row]
    exact ((h.lanes up l).credited.left working (h.out_apart l) mem).form
  · rw [row]
    exact left_buffers (h.out_apart l) mem rfl
  · rw [images] at none'
    exact (freed_one none').imp id fun same => by rw [same]; exact List.mem_singleton_self _

end Sys2Proof.Machine
end

section
/-! Spoilt jobs, sequence repairs, fed jobs, and jobs that join a lane: the credits' form. -/

namespace Sys2Proof.Machine

variable {s : State} {l : Lane}

theorem CreditsForm.repaired (h : CreditsForm s) (up : s.office.startUp = none) (working : Working s l) (also : List Buffer) :
    CreditsForm (sequenceRepair l also s) := by
  have within := Within.sequenceRepair l also s
  have row : (sequenceRepair l also s).lanes[l] = s.lanes[l].repaired s.office.settings also := by
    rw [sequenceRepair_eq]
    exact Table.upd_same _ _ _
  have images : (sequenceRepair l also s).images = s.images := by rw [sequenceRepair_eq]
  refine h.of_lane (l := l) up (by rw [within.office]; exact up) within.lanes ?_ (gone := []) ?_ fun b none' => .inl (by rw [← images]; exact none')
  · rw [row]
    exact ((h.lanes up l).credited.repaired working _ _ fun j mem _ => (h.lanes up l).out j mem).form
  · rw [row, List.append_nil]
    exact repaired_buffers _ _ _

theorem spoiltOne_same (r : LaneRec) : r.spoiltOne = { r with act := r.spoiltOne.act } := by
  unfold LaneRec.spoiltOne
  rw [acted_eq]

theorem Credited.retried {P : Job → Prop} {r : LaneRec} (h : Credited P r) (j : Job) (lost : List Nat) : Credited P (r.retried j lost) :=
  h.of_same rfl rfl rfl rfl rfl rfl

/-- A spoilt job's image goes unless it is retried. -/
theorem spoilt_images {j : Job} {im : Table 48 (Option (List ImageField))} {b : Buffer}
    (empty : (if j.again then im else im.upd j.buffer fun _ => none)[b] = none) :
    im[b] = none ∨ b ∈ (if j.again then [] else [j.buffer]) := by
  split at empty
  next again => exact .inl empty
  next ends =>
    refine (freed_one empty).imp id fun same => ?_
    rw [if_neg ends, same]
    exact List.mem_singleton_self _

/-- A job spoilt on a lane, once the serials it loses have been counted. -/
theorem CreditsForm.spoilt (h : CreditsForm s) (up : s.office.startUp = none) (working : Working s l) {j : Job} (mem : j ∈ s.lanes[l].out)
    (n : Nat) (c : SpoilCause) (lost : List Nat) :
    CreditsForm (spoiltBench l j lost (spoilHeld l j.kind n (spoiltDesk l j c lost s))) := by
  have desk := (spoiltDesk_desk l j c lost).rest s
  obtain ⟨d, isD⟩ : ∃ d, spoiltDesk l j c lost s = d := ⟨_, rfl⟩
  rw [isD] at desk ⊢
  obtain ⟨t, isT⟩ : ∃ t, spoiltBench l j lost (spoilHeld l j.kind n d) = t := ⟨_, rfl⟩
  have lanes : t.lanes = s.lanes.upd l fun r => (r.spoiltOne.left j.buffer).retried j lost := by
    rw [← isT, spoiltBench_eq, spoilHeld_eq, desk]
    exact upd_twice s.lanes l LaneRec.spoiltOne fun r => (r.left j.buffer).retried j lost
  have images : t.images = if j.again then s.images else s.images.upd j.buffer fun _ => none := by
    rw [← isT, spoiltBench_eq, spoilHeld_eq, desk]
    rfl
  have office : t.office.startUp = none := by
    rw [← isT, spoiltBench_eq, spoilHeld_eq, desk]
    exact up
  have row : t.lanes[l] = (s.lanes[l].spoiltOne.left j.buffer).retried j lost := by rw [lanes, Table.upd_same]
  have out : s.lanes[l].spoiltOne.out = s.lanes[l].out := by rw [spoiltOne_same]
  have jobs : laneJobs s.lanes[l].spoiltOne = laneJobs s.lanes[l] := by rw [spoiltOne_same]; rfl
  have one : Credited OutJob s.lanes[l].spoiltOne := by
    rw [spoiltOne_same]
    exact (h.lanes up l).credited.of_same rfl rfl rfl rfl rfl rfl
  have state : s.lanes[l].spoiltOne.state = s.lanes[l].state := by rw [spoiltOne_same]
  rw [isT]
  refine h.of_lane (l := l) up office (fun m other => by rw [lanes]; exact Table.upd_ne _ _ _ _ other) ?_
    (gone := if j.again then [] else [j.buffer]) ?_ fun b none' => ?_
  · rw [row]
    exact ((one.left (by rw [state]; exact working) (by rw [out]; exact h.out_apart l) (by rw [out]; exact mem)).retried j lost).form
  · rw [row, ← jobs]
    exact retried_buffers (by rw [out]; exact h.out_apart l) (by rw [out]; exact mem) rfl lost
  · rw [images] at none'
    exact spoilt_images none'

/-! ### A double feed (R124) -/

/-- The record but for serials that SENT jobs have lost. -/
def Struck (r r' : LaneRec) : Prop := ∃ f : Job → Job, r' = { r with out := r.out.map f, act := r'.act } ∧
  ∀ q ∈ r.out, f q = q ∨ q.state = .sent ∧ f q = { q with serial := none }

theorem Struck.jobs {r r' : LaneRec} (h : Struck r r') : (laneJobs r').map Job.buffer = (laneJobs r).map Job.buffer := by
  obtain ⟨f, is, strikes⟩ := h
  rw [is, laneJobs, laneJobs, List.map_append, List.map_append, List.map_map]
  congr 1
  refine List.map_congr_left fun q mem => ?_
  rcases strikes q mem with same | ⟨-, same⟩
  · rw [Function.comp_apply, same]
  · rw [Function.comp_apply, same]

theorem Struck.buffers {r r' : LaneRec} (h : Struck r r') : r'.out.map Job.buffer = r.out.map Job.buffer := by
  obtain ⟨f, is, strikes⟩ := h
  rw [is, List.map_map]
  refine List.map_congr_left fun q mem => ?_
  rcases strikes q mem with same | ⟨-, same⟩
  · rw [Function.comp_apply, same]
  · rw [Function.comp_apply, same]

theorem Struck.credited {r r' : LaneRec} (h : Struck r r') (form : Credited OutJob r) : Credited (fun i => i.state ≠ .sent → OutJob i) r' := by
  obtain ⟨f, is, strikes⟩ := h
  have nil : r.out.map f = [] ↔ r.out = [] := List.map_eq_nil_iff
  have length : (r.out.map f).length = r.out.length := List.length_map _
  rw [is]
  refine ⟨form.unlinked, form.linked, by rw [form.printing, ne_eq, ne_eq, nil], form.absent, fun K c => by rw [length]; exact form.sum K c,
    fun i mem unsent => ?_, form.starting⟩
  obtain ⟨q, old, rfl⟩ := List.mem_map.1 mem
  rcases strikes q old with same | ⟨sent, same⟩
  · rw [same]
    exact form.out q old
  · rw [same] at unsent
    exact absurd sent unsent

theorem Struck.mem {r r' : LaneRec} (h : Struck r r') {j : Job} (mem : j ∈ r.out) : ∃ i ∈ r'.out, i.buffer = j.buffer := by
  obtain ⟨f, is, strikes⟩ := h
  refine ⟨f j, ?_, ?_⟩
  · rw [is]
    exact List.mem_map_of_mem mem
  · rcases strikes j mem with same | ⟨-, same⟩
    · rw [same]
    · rw [same]

theorem countSpoilt_lane (l : Lane) (k : StockKind) (s : State) : (countSpoilt l k s).lanes[l] = s.lanes[l].spoiltOne :=
  State.onLane_same _ _ _

/-- The second blank of a double feed takes at most a serial from a SENT job. -/
theorem secondBlank_struck (apart : (s.lanes[l].out.map Job.buffer).Nodup) (j : Job) (n : Nat) :
    Struck s.lanes[l] (secondBlank l j n s).1.lanes[l] ∧ (secondBlank l j n s).1.images = s.images := by
  unfold secondBlank
  split
  next q found =>
    have mem := List.mem_of_find?_eq_some found
    have holds : decide (q.state = .sent ∧ q.buffer ≠ j.buffer ∧ q.serial = some (n + 1)) = true :=
      List.find?_some (p := fun q : Job => decide (q.state = .sent ∧ q.buffer ≠ j.buffer ∧ q.serial = some (n + 1))) found
    have sent : q.state = .sent := (of_decide_eq_true holds).1
    rw [spoilHeld_eq]
    refine ⟨⟨fun i => if i.buffer = q.buffer then { i with serial := none } else i, ?_, fun i out => ?_⟩, rfl⟩
    · have row : ((onOut l q.buffer (fun q => { q with serial := none }) s).lanes.upd l LaneRec.spoiltOne)[l] =
          ({ s.lanes[l] with out := s.lanes[l].out.map fun i => if i.buffer = q.buffer then { i with serial := none } else i } : LaneRec).spoiltOne := by
        rw [Table.upd_same, onOut, State.onLane_same]
      dsimp only
      rw [row]
      exact spoiltOne_same _
    · by_cases same : i.buffer = q.buffer
      · obtain rfl := List.inj_on_of_nodup_map apart out mem same
        exact .inr ⟨sent, if_pos rfl⟩
      · exact .inl (if_neg same)
  · split
    · unfold spoilNext
      split
      · exact ⟨⟨id, by rw [List.map_id], fun _ _ => .inl rfl⟩, rfl⟩
      · split
        · refine ⟨⟨id, ?_, fun _ _ => .inl rfl⟩, rfl⟩
          rw [countSpoilt_lane, List.map_id]
          exact spoiltOne_same _
        · exact ⟨⟨id, by rw [List.map_id], fun _ _ => .inl rfl⟩, rfl⟩
    · exact ⟨⟨id, by rw [List.map_id], fun _ _ => .inl rfl⟩, rfl⟩

/-- A double feed, its entries and its answer first (R124, R127). -/
def doubledState (l : Lane) (j : Job) (n : Nat) (lost : List Nat) (s : State) : State :=
  sequenceRepair l [j.buffer] (spoiltBench l j lost (secondBlank l j n (spoilHeld l j.kind n (spoiltDesk l j .doubleFeed lost s))).1)

theorem CreditsForm.doubled (h : CreditsForm s) (up : s.office.startUp = none) (working : Working s l) {j : Job} (mem : j ∈ s.lanes[l].out)
    (n : Nat) (lost : List Nat) : CreditsForm (doubledState l j n lost s) := by
  have desk := (spoiltDesk_desk l j .doubleFeed lost).rest s
  obtain ⟨d, isD⟩ : ∃ d, spoiltDesk l j .doubleFeed lost s = d := ⟨_, rfl⟩
  rw [isD] at desk
  obtain ⟨u, isU⟩ : ∃ u, spoilHeld l j.kind n d = u := ⟨_, rfl⟩
  have rowU : u.lanes[l] = s.lanes[l].spoiltOne := by
    rw [← isU, spoilHeld_eq, desk]
    exact Table.upd_same _ _ _
  have outU : u.lanes[l].out = s.lanes[l].out := by rw [rowU, spoiltOne_same]
  have jobsU : laneJobs u.lanes[l] = laneJobs s.lanes[l] := by rw [rowU, spoiltOne_same]; rfl
  have stateU : u.lanes[l].state = s.lanes[l].state := by rw [rowU, spoiltOne_same]
  have apartU : (u.lanes[l].out.map Job.buffer).Nodup := by rw [outU]; exact h.out_apart l
  have formU : Credited OutJob u.lanes[l] := by
    rw [rowU, spoiltOne_same]
    exact (h.lanes up l).credited.of_same rfl rfl rfl rfl rfl rfl
  have imagesU : u.images = s.images := by
    rw [← isU, spoilHeld_eq, desk]
    rfl
  have withinU : Within l d u := by
    rw [← isU]
    exact Within.spoilHeld l _ _ _
  obtain ⟨struck, imagesV⟩ := secondBlank_struck apartU j n
  have withinV : Within l u (secondBlank l j n u).1 := Within.secondBlank l j n u
  obtain ⟨v, isV⟩ : ∃ v, (secondBlank l j n u).1 = v := ⟨_, rfl⟩
  rw [isV] at struck imagesV withinV
  have stateV : v.lanes[l].state = .ready ∨ v.lanes[l].state = .printing := by
    obtain ⟨f, is, -⟩ := struck
    rw [is]
    show u.lanes[l].state = .ready ∨ u.lanes[l].state = .printing
    rw [stateU]
    exact working
  have apartV : (v.lanes[l].out.map Job.buffer).Nodup := by rw [struck.buffers]; exact apartU
  obtain ⟨i, memV, sameV⟩ := struck.mem (j := j) (by rw [outU]; exact mem)
  obtain ⟨w, isW⟩ : ∃ w, spoiltBench l j lost v = w := ⟨_, rfl⟩
  have withinW : Within l v w := by
    rw [← isW, spoiltBench_eq]
    exact ⟨id, rfl, fun m other => Table.upd_ne _ _ _ _ other, fun _ _ => rfl, fun w is => ⟨w, is, rfl⟩⟩
  have rowW : w.lanes[l] = (v.lanes[l].left j.buffer).retried j lost := by
    rw [← isW, spoiltBench_eq]
    exact Table.upd_same _ _ _
  have imagesW : w.images = if j.again then v.images else v.images.upd j.buffer fun _ => none := by
    rw [← isW, spoiltBench_eq]
  have formW : Credited (fun i => i.state ≠ .sent → OutJob i) w.lanes[l] := by
    rw [rowW, ← sameV]
    exact ((struck.credited formU).left stateV apartV memV).retried j lost
  have stateW : w.lanes[l].state = .ready ∨ w.lanes[l].state = .printing := by
    rw [rowW]
    exact Credited.left_stays stateV j.buffer
  have isT : doubledState l j n lost s = sequenceRepair l [j.buffer] w := by
    rw [doubledState, isD, isU, isV, isW]
  have withinT : Within l w (sequenceRepair l [j.buffer] w) := Within.sequenceRepair l _ w
  have within : Within l d (sequenceRepair l [j.buffer] w) := ((withinU.trans withinV).trans withinW).trans withinT
  have others : OtherLanes l s (sequenceRepair l [j.buffer] w) := fun m other => by
    rw [within.lanes m other, desk]
    rfl
  have office : (sequenceRepair l [j.buffer] w).office.startUp = none := by
    rw [within.office, desk]
    exact up
  have rowT : (sequenceRepair l [j.buffer] w).lanes[l] = w.lanes[l].repaired w.office.settings [j.buffer] := by
    rw [sequenceRepair_eq]
    exact Table.upd_same _ _ _
  have imagesT : (sequenceRepair l [j.buffer] w).images = w.images := by rw [sequenceRepair_eq]
  rw [isT]
  refine h.of_lane (l := l) up office others ?_ (gone := if j.again then [] else [j.buffer]) ?_ fun b none' => ?_
  · rw [rowT]
    exact (formW.repaired stateW _ _ fun i out unsent => formW.out i out unsent).form
  · rw [rowT]
    refine List.Perm.trans ?_ ((repaired_buffers _ _ w.lanes[l]).append_right _)
    rw [rowW, ← jobsU, ← struck.jobs]
    exact retried_buffers apartV memV sameV lost
  · rw [imagesT, imagesW, imagesV, imagesU] at none'
    exact spoilt_images none'

end Sys2Proof.Machine
end

section
/-! The elementary changes that the commands are made of outside a start-up period, and the credits' form through them. -/

namespace Sys2Proof.Machine

variable {s : State} {l : Lane}

/-! ### Jobs that are fed, that join and that move -/

theorem CreditsForm.fed (h : CreditsForm s) (up : s.office.startUp = none) (j : Job) : CreditsForm (feedJob l j s) := by
  have row : (feedJob l j s).lanes[l] = { s.lanes[l] with
      out := s.lanes[l].out.map fun i => if i.buffer = j.buffer then { i with state := .fed } else i } := State.onLane_same _ _ _
  have form := (h.lanes up l).credited
  have nil : (s.lanes[l].out.map fun i => if i.buffer = j.buffer then { i with state := .fed } else i) = [] ↔ s.lanes[l].out = [] :=
    List.map_eq_nil_iff
  refine h.of_lane (t := feedJob l j s) (l := l) up up (LaneOnly.onOut l _ _ s).others ?_ (gone := []) ?_ fun b none' => .inl none'
  · rw [row]
    refine ⟨form.unlinked, form.linked, by rw [form.printing, ne_eq, ne_eq, nil], form.absent, fun K c => by
      rw [List.length_map]; exact form.sum K c, fun i mem => ?_, form.starting⟩
    obtain ⟨q, old, rfl⟩ := List.mem_map.1 mem
    split
    · exact ⟨(form.out q old).1, fun c => (nomatch c)⟩
    · exact form.out q old
  · rw [row, List.append_nil, laneJobs, laneJobs, List.map_append, List.map_append, List.map_map]
    refine List.Perm.append_left _ (List.Perm.of_eq (List.map_congr_left fun i _ => ?_))
    rw [Function.comp_apply]
    split <;> rfl

/-- The lane with a job at the back of its queue (R85). -/
def LaneRec.joinedBy (l : Lane) (j : Job) (r : LaneRec) : LaneRec :=
  { r with queue := r.queue ++ [{ j with lane := l, joinNo := r.joinNo }], joinNo := r.joinNo + 1 }

theorem joinedBy_credits {r : LaneRec} (h : CreditForm r) (l : Lane) (j : Job) : CreditForm (r.joinedBy l j) :=
  Credited.form (Credited.of_same (r' := r.joinedBy l j) h.credited rfl rfl rfl rfl rfl rfl)

theorem CreditsForm.joins {t : State} (h : CreditsForm s) (up : s.office.startUp = none) {l : Lane} {j : Job}
    (fresh : ∀ i ∈ allJobs s, i.buffer ≠ j.buffer) (office : t.office = s.office) (lanes : t.lanes = s.lanes.upd l (LaneRec.joinedBy l j))
    (image : t.images[j.buffer] ≠ none) (images : ∀ b : Buffer, b ≠ j.buffer → t.images[b] = s.images[b]) : CreditsForm t := by
  have row : t.lanes[l] = s.lanes[l].joinedBy l j := by rw [lanes, Table.upd_same]
  have others : OtherLanes l s t := fun m other => by rw [lanes]; exact Table.upd_ne _ _ _ _ other
  have jobs : (laneJobs t.lanes[l]).Perm ({ j with lane := l, joinNo := s.lanes[l].joinNo } :: laneJobs s.lanes[l]) := by
    rw [row, laneJobs, laneJobs]
    show (s.lanes[l].queue ++ [_] ++ s.lanes[l].out).Perm _
    rw [List.append_assoc]
    exact List.perm_middle
  refine h.join up (by rw [office]; exact up) others ?_ (j := { j with lane := l, joinNo := s.lanes[l].joinNo }) jobs fresh image images
  rw [row]
  exact joinedBy_credits (h.lanes up l) l j

theorem CreditsForm.free (h : CreditsForm s) {b : Buffer} (empty : s.images[b] = none) : ∀ i ∈ allJobs s, i.buffer ≠ b := fun i mem same =>
  h.images i mem ((congrArg (fun b : Buffer => s.images[b]) same).trans empty)

/-- A job taken from a queue. -/
def LaneRec.without (b : Buffer) (r : LaneRec) : LaneRec := { r with queue := r.queue.filter fun q => decide (q.buffer ≠ b) }

theorem without_buffers {r : LaneRec} (apart : ((laneJobs r).map Job.buffer).Nodup) {j : Job} (mem : j ∈ r.queue) :
    ((laneJobs r).map Job.buffer).Perm ((laneJobs (r.without j.buffer)).map Job.buffer ++ [j.buffer]) := by
  rw [laneJobs, List.map_append] at apart
  have queue := (perm_cons_others apart.of_append_left mem).append_right r.out
  exact (queue.map Job.buffer).trans (List.perm_append_comm (l₁ := [j.buffer]))

/-- The state after a job's move to another lane, before the sending test (R92). -/
def movedState (l a : Lane) (j : Job) (b : Buffer) (s : State) : State :=
  ((rehome j b s).onLane l (LaneRec.without j.buffer)).onLane a (LaneRec.joinedBy a { j with buffer := b })

theorem rehome_images (j : Job) (b : Buffer) (s : State) : rehome j b s = { s with images :=
    if b = j.buffer then s.images else (s.images.upd b fun _ => s.images[j.buffer]).upd j.buffer fun _ => none } := by
  unfold rehome
  split
  · rfl
  · rfl

theorem CreditsForm.moved (h : CreditsForm s) (up : s.office.startUp = none) {a : Lane} {j : Job} {b : Buffer}
    (mem : j ∈ s.lanes[l].queue) (buffer : b = j.buffer ∨ s.images[b] = none) : CreditsForm (movedState l a j b s) := by
  have job : j ∈ allJobs s := mem_allJobs.2 ⟨l, List.mem_append_left _ mem⟩
  have image := h.images j job
  obtain ⟨im, isIm⟩ : ∃ im : Table 48 (Option (List ImageField)), (if b = j.buffer then s.images else s.images.upd j.buffer fun _ => none) = im :=
    ⟨_, rfl⟩
  obtain ⟨u, isU⟩ : ∃ u : State, ({ s with images := im } : State).onLane l (LaneRec.without j.buffer) = u := ⟨_, rfl⟩
  have lanesU : u.lanes = s.lanes.upd l (LaneRec.without j.buffer) := by rw [← isU]; rfl
  have rowU : u.lanes[l] = s.lanes[l].without j.buffer := by rw [lanesU, Table.upd_same]
  have othersU : OtherLanes l s u := fun m ne => by rw [lanesU]; exact Table.upd_ne _ _ _ _ ne
  have imagesU : u.images = im := by rw [← isU]; rfl
  have officeU : u.office = s.office := by rw [← isU]; rfl
  have bufs : ((laneJobs s.lanes[l]).map Job.buffer).Perm ((laneJobs u.lanes[l]).map Job.buffer ++ [j.buffer]) := by
    rw [rowU]
    exact without_buffers (h.apart l) mem
  have formU : CreditsForm u := by
    refine h.of_lane up (by rw [officeU]; exact up) othersU ?_ (gone := [j.buffer]) bufs fun c none' => ?_
    · rw [rowU]
      exact Credited.form (Credited.of_same (r' := s.lanes[l].without j.buffer) (h.lanes up l).credited rfl rfl rfl rfl rfl rfl)
    · rw [imagesU, ← isIm] at none'
      split at none'
      · exact .inl none'
      · exact (freed_one none').imp id fun same => by rw [same]; exact List.mem_singleton_self _
  have gone : ∀ i ∈ allJobs u, i.buffer ≠ j.buffer := by
    have all := allJobs_buffers othersU bufs
    have apart := all.nodup_iff.1 h.buffers
    exact fun i old same => List.disjoint_of_nodup_append apart (List.mem_map_of_mem old) (List.mem_singleton.2 same)
  have images : (movedState l a j b s).images =
      if b = j.buffer then s.images else (s.images.upd b fun _ => s.images[j.buffer]).upd j.buffer fun _ => none := by
    rw [movedState, rehome_images]
    rfl
  have lanes : (movedState l a j b s).lanes = u.lanes.upd a (LaneRec.joinedBy a { j with buffer := b }) := by
    rw [movedState, rehome_images, lanesU]
    rfl
  have office : (movedState l a j b s).office = u.office := by
    rw [movedState, rehome_images, officeU]
    rfl
  refine formU.joins (by rw [officeU]; exact up) (l := a) (j := { j with buffer := b }) (fun i old => ?_) office lanes ?_ fun c ne => ?_
  · rcases buffer with same | empty
    · rw [same]
      exact gone i old
    · refine formU.free (b := b) ?_ i old
      rw [imagesU, ← isIm]
      split
      · exact empty
      · rw [Table.upd_get]
        split
        · rfl
        · exact empty
  · show (movedState l a j b s).images[b] ≠ none
    rw [images]
    by_cases same : b = j.buffer
    · rw [if_pos same]
      exact fun c => image ((congrArg (fun b : Buffer => s.images[b]) same).symm.trans c)
    · rw [if_neg same, Table.upd_ne _ _ _ _ same, Table.upd_same]
      exact image
  · have ne' : c ≠ b := ne
    rw [images, imagesU, ← isIm]
    split
    · rfl
    · rw [Table.upd_get, Table.upd_ne _ _ _ _ ne', Table.upd_get]

end Sys2Proof.Machine
end

section
/-! The elementary changes that every command outside a start-up period is a chain of. -/

namespace Sys2Proof.Machine

/-- The elementary changes of the Stock Register and the Issue Table, with the checks under which the orders make them. -/
inductive StockChange : State → State → Prop
  /-- A run received (R10). -/
  | received (s : State) {k : StockKind} {f c : Nat} {rs : List Run} (some' : 1 ≤ c) (apart : overlaps s k f c = false)
      (merges : mergeRun k f c s.stock.runs = some rs) :
      StockChange s ((s.onStock fun r => { r with runs := rs }).onCounters k fun n => n.addReceived c)
  /-- A magazine loaded (R12). -/
  | loaded (s : State) {l : Lane} {k : StockKind} {f c : Nat} {r : Run} (some' : 1 ≤ c) (out : s.lanes[l].out = [])
      (empty : s.stock.mags[l] = none) (run : runHolding k f c s.stock.runs = some r) :
      StockChange s ((s.onStock fun r => { r with runs := takeRange k f c r.runs }).setMag l (some (loadedWith k f c)))
  /-- A magazine unloaded (R13). -/
  | unloaded (s : State) {l : Lane} {m : Loaded} {rs : List Run} (out : s.lanes[l].out = []) (mag : s.stock.mags[l] = some m)
      (merges : returnedRuns m s.stock.runs = some rs) : StockChange s ((s.onStock fun r => { r with runs := rs }).setMag l none)
  /-- A magazine realigned (R18). -/
  | passed (s : State) {l : Lane} {m : Loaded} {r : Nat} (out : s.lanes[l].out = []) (mag : s.stock.mags[l] = some m) (low : m.next ≤ r)
      (high : r ≤ m.last + 1) : StockChange s (s.onStock (passOver l m r))
  /-- A blank in doubt declared (R143). -/
  | declared (s : State) {d : DoubtEntry} (oc : DeclOutcome) (mem : d ∈ s.stock.doubts) : StockChange s (declareEffect d oc (dropDoubt d s))
  /-- A ticket voided (R72). -/
  | voided (s : State) {k : StockKind} {n : Nat} {e : IssueEntry} (found : entryOf s k n = some e) (sold : e.state = .issued) :
      StockChange s ((setEntry e.kind e.serial .voided s).onCounters e.kind Counters.void)
  /-- A ticket refunded (R73). -/
  | refunded (s : State) (k : StockKind) (n : Nat) (w : Window) (amount : Nat) : StockChange s (setEntry k n (.refunded w amount) s)
  /-- Tickets that leave the Issue Table (R60, R172). -/
  | evicted (s : State) {table : List IssueEntry} {reserved : Nat} (fewer : table.Sublist s.issue.table) :
      StockChange s (s.onIssue fun i => { i with table := table, reserved := reserved })

/-- The elementary changes outside a start-up period. -/
inductive Move : State → State → Prop
  | still {s t : State} (h : Stays s t) : Move s t
  | turned (s : State) (l : Lane) {f : LaneRec → LaneRec} (queue : (f s.lanes[l]).queue = s.lanes[l].queue)
      (out : (f s.lanes[l]).out = s.lanes[l].out) (form : CreditForm s.lanes[l] → CreditForm (f s.lanes[l])) : Move s (s.onLane l f)
  | sent (s : State) {l : Lane} (can : canSend s l = true) : Move s (sendFront l s)
  | held (s : State) {l : Lane} (k : FaultKind) (moves : s.lanes[l].state = .starting ∨ Working s l) (free : Holdable s l) :
      Move s (raiseHolding l k s)
  | issued (s : State) {l : Lane} {j : Job} {n : Nat} (working : Working s l) (head : s.lanes[l].out.head? = some j)
      (serial : j.serial = some n) : Move s (issuedBench l j n (issuedDesk l j n s))
  | spoilt (s : State) {l : Lane} {j : Job} {n : Nat} (c : SpoilCause) (working : Working s l) (head : s.lanes[l].out.head? = some j)
      (serial : j.serial = some n) : Move s (spoiltBench l j [n] (spoilHeld l j.kind n (spoiltDesk l j c [n] s)))
  | doubled (s : State) {l : Lane} {j : Job} {n : Nat} {lost : List Nat} (working : Working s l) (awaits : awaitingMark s l = some j)
      (serial : j.serial = some n) (both : lost = n :: (secondBlank l j n (firstBlank l j n s)).2) :
      Move s (doubledState l j n lost (countFed l 2 s))
  | repaired (s : State) {l : Lane} (also : List Buffer) (working : Working s l) : Move s (sequenceRepair l also s)
  | nextSpoilt (s : State) {l : Lane} (none' : awaitingMark s l = none) : Move s (spoilNext l s)
  | fed (s : State) {l : Lane} {j : Job} (awaits : awaitingMark s l = some j) : Move s (feedJob l j s)
  | joined (s : State) (l : Lane) {j : Job} (im : List ImageField) (queued : j.state = .queued) (empty : s.images[j.buffer] = none) :
      Move s ((s.setImage j.buffer (some im)).onLane l (LaneRec.joinedBy l j))
  | moved (s : State) {l : Lane} (a : Lane) {j : Job} {b : Buffer} (mem : j ∈ s.lanes[l].queue)
      (buffer : b = j.buffer ∨ s.images[b] = none) : Move s (movedState l a j b s)
  | stock {s t : State} (h : StockChange s t) : Move s t

/-- Elementary changes one after another. -/
inductive Chain : State → State → Prop
  | refl (s : State) : Chain s s
  | step {s t u : State} (first : Move s t) (rest : Chain t u) : Chain s u

theorem Chain.trans {s t u : State} (h : Chain s t) (g : Chain t u) : Chain s u := by
  induction h with
  | refl s => exact g
  | step first _ ih => exact .step first (ih g)

/-! ### The credits' form through every elementary change -/

/-- What a change of the Stock Register and the Issue Table leaves. -/
structure Shelved (s t : State) : Prop where
  lanes  : t.lanes = s.lanes
  images : t.images = s.images
  office : t.office = s.office

theorem StockChange.shelved {s t : State} (h : StockChange s t) : Shelved s t := by
  cases h with
  | @declared d oc mem => cases oc <;> exact ⟨rfl, rfl, rfl⟩
  | received | loaded | unloaded | passed | voided | refunded | evicted => exact ⟨rfl, rfl, rfl⟩

theorem applyWithdraw_desk (w : Window) (s : State) : ∃ f, Desk f ∧ applyWithdraw w s = f s := by
  unfold applyWithdraw
  dsimp only
  generalize s.till[w].shift = shift
  split
  · exact ⟨fun s => s.onDrawer w Drawer.withdraw, Desk.onDrawer w Drawer.withdraw, rfl⟩
  next p _ =>
    exact ⟨fun s => (answer p.slot kindCashUp p.tag .withdrawn (.withdrawn shift) s).onDrawer w Drawer.withdraw,
      (Desk.onDrawer w Drawer.withdraw).comp (Desk.answer p.slot kindCashUp p.tag .withdrawn (.withdrawn shift)), rfl⟩

/-- A blank spoilt at next changes of the lanes a counter alone. -/
theorem spoilNext_lane (l : Lane) (s : State) : (spoilNext l s).images = s.images ∧
    ((spoilNext l s).lanes[l] = s.lanes[l] ∨ (spoilNext l s).lanes[l] = s.lanes[l].spoiltOne) := by
  unfold spoilNext
  split
  · exact ⟨rfl, .inl rfl⟩
  next m _ =>
    split
    · exact ⟨rfl, .inr (countSpoilt_lane l m.kind _)⟩
    · exact ⟨rfl, .inl rfl⟩

theorem CreditsForm.nextSpoilt {s : State} (h : CreditsForm s) (up : s.office.startUp = none) (l : Lane) : CreditsForm (spoilNext l s) := by
  have within := Within.spoilNext l s
  obtain ⟨images, lane⟩ := spoilNext_lane l s
  obtain ⟨d, is⟩ : ∃ d, spoilNext l s = d := ⟨_, rfl⟩
  rw [is] at within images lane ⊢
  have buffers : (laneJobs s.lanes[l]).map Job.buffer = (laneJobs d.lanes[l]).map Job.buffer := by
    rcases lane with same | same
    · rw [same]
    · rw [same, spoiltOne_same]; rfl
  have form : CreditForm d.lanes[l] := by
    rcases lane with same | same
    · rw [same]
      exact h.lanes up l
    · rw [same, spoiltOne_same]
      exact ((h.lanes up l).credited.of_same (r' := { s.lanes[l] with act := s.lanes[l].spoiltOne.act }) rfl rfl rfl rfl rfl rfl).form
  refine h.of_lane (t := d) (l := l) up (by rw [within.office]; exact up) within.lanes form (gone := []) (by rw [buffers, List.append_nil]) ?_
  intro b empty
  rw [images] at empty
  exact .inl empty

theorem issued_office (l : Lane) (j : Job) (n : Nat) (s : State) :
    (issuedBench l j n (issuedDesk l j n s)).office.startUp = s.office.startUp := by
  rw [issuedBench, leaveOut_eq]
  show (issuedDesk l j n s).office.startUp = s.office.startUp
  rw [(issuedDesk_desk l j n).office]

theorem spoilt_office (l : Lane) (j : Job) (c : SpoilCause) (lost : List Nat) (n : Nat) (s : State) :
    (spoiltBench l j lost (spoilHeld l j.kind n (spoiltDesk l j c lost s))).office.startUp = s.office.startUp := by
  rw [spoiltBench_eq]
  show (spoilHeld l j.kind n (spoiltDesk l j c lost s)).office.startUp = s.office.startUp
  rw [(Within.spoilHeld l j.kind n (spoiltDesk l j c lost s)).office, (spoiltDesk_desk l j c lost).office]

theorem doubled_office (l : Lane) (j : Job) (lost : List Nat) (n : Nat) (s : State) :
    (doubledState l j n lost s).office.startUp = s.office.startUp := by
  rw [doubledState, (Within.sequenceRepair l _ _).office, spoiltBench_eq]
  show (secondBlank l j n (spoilHeld l j.kind n (spoiltDesk l j .doubleFeed lost s))).1.office.startUp = s.office.startUp
  rw [(Within.secondBlank l j n _).office]
  show (spoilHeld l j.kind n (spoiltDesk l j .doubleFeed lost s)).office.startUp = s.office.startUp
  rw [(Within.spoilHeld l _ _ _).office, (spoiltDesk_desk l j .doubleFeed lost).office]

theorem moved_office (l a : Lane) (j : Job) (b : Buffer) (s : State) : (movedState l a j b s).office = s.office := by
  rw [movedState, rehome_images]
  rfl

theorem Working.still {s t : State} {l : Lane} (h : Working s l) (still : LaneStill s.lanes[l] t.lanes[l]) : Working t l := by
  unfold Working at h ⊢
  rw [still.state]
  exact h

theorem CreditsForm.joined {s : State} (h : CreditsForm s) (up : s.office.startUp = none) (l : Lane) {j : Job} (im : List ImageField)
    (empty : s.images[j.buffer] = none) : CreditsForm ((s.setImage j.buffer (some im)).onLane l (LaneRec.joinedBy l j)) := by
  refine h.joins (t := (s.setImage j.buffer (some im)).onLane l (LaneRec.joinedBy l j)) up (h.free empty) rfl rfl ?_ fun b other => ?_
  · exact fun c => absurd ((Vector.getElem_set_self ..).symm.trans c) (Option.some_ne_none _)
  · exact Vector.getElem_set_ne j.buffer.isLt b.isLt fun c => other (Fin.ext c.symm)

/-- No elementary change begins a start-up period. -/
theorem Move.up {s t : State} (move : Move s t) (up : s.office.startUp = none) : t.office.startUp = none := by
  cases move with
  | still still => exact still.up up
  | turned => exact up
  | @sent l can => exact (congrArg OfficeControl.startUp (Within.sendFront l s).office).trans up
  | @held l k => exact (congrArg OfficeControl.startUp (Within.raiseHolding l k s).office).trans up
  | @issued l j n => exact (issued_office l j n s).trans up
  | @spoilt l j n c => exact (spoilt_office l j c [n] n s).trans up
  | @doubled l j n lost => exact (doubled_office l j lost n (countFed l 2 s)).trans up
  | @repaired l also => exact (congrArg OfficeControl.startUp (Within.sequenceRepair l also s).office).trans up
  | @nextSpoilt l => exact (congrArg OfficeControl.startUp (Within.spoilNext l s).office).trans up
  | fed => exact up
  | joined => exact up
  | @moved l a j b => exact (congrArg OfficeControl.startUp (moved_office l a j b s)).trans up
  | stock change => exact (congrArg OfficeControl.startUp change.shelved.office).trans up

theorem Move.credits {s t : State} (move : Move s t) (up : s.office.startUp = none) (h : CreditsForm s) :
    CreditsForm t := by
  cases move with
  | still still => exact h.still up still
  | @turned l f queue out form => exact h.turned up queue out form
  | @sent l can => exact h.send up can
  | @held l k moves free => exact h.hold up k moves free
  | @issued l j n working head serial => exact h.issued up working (List.mem_of_mem_head? head) n
  | @spoilt l j n c working head serial => exact h.spoilt up working (List.mem_of_mem_head? head) n c [n]
  | @doubled l j n lost working awaits serial both =>
    have still := (Stays.countFed l 2 s).lanes l
    refine (h.still up (Stays.countFed l 2 s)).doubled up (working.still still) ?_ n lost
    rw [countFed_eq (working_unparked working), State.onLane_same]
    exact List.mem_of_find?_eq_some awaits
  | @repaired l also working => exact h.repaired up working also
  | @nextSpoilt l none' => exact h.nextSpoilt up l
  | @fed l j awaits => exact h.fed up j
  | @joined l j im queued empty => exact h.joined up l im empty
  | @moved l a j b mem buffer => exact h.moved up mem buffer
  | stock change =>
    have shelved := change.shelved
    exact h.of_frame (by rw [shelved.office]) shelved.lanes shelved.images fun c => absurd up c

theorem Chain.credits {s t : State} (chain : Chain s t) (up : s.office.startUp = none) (h : CreditsForm s) :
    t.office.startUp = none ∧ CreditsForm t := by
  induction chain with
  | refl s => exact ⟨up, h⟩
  | step first _ ih => exact ih (first.up up) (first.credits up h)

end Sys2Proof.Machine
end

section
/-! What the lanes do, outside a start-up period, as chains of elementary changes. -/

namespace Sys2Proof.Machine

/-- Outside a start-up period, and in a state with the credits' form, what is done is a chain of elementary changes. -/
def Makes (s t : State) : Prop := s.office.startUp = none → CreditsForm s → Chain s t

namespace Makes

variable {s t u : State}

theorem refl (s : State) : Makes s s := fun _ _ => .refl s

theorem trans (h : Makes s t) (g : Makes t u) : Makes s u := fun up form =>
  (h up form).trans (g ((h up form).credits up form).1 ((h up form).credits up form).2)

theorem move (h : Move s t) : Makes s t := fun _ _ => .step h (.refl t)

theorem stays (h : Stays s t) : Makes s t := move (.still h)

/-- A chain that depends on what stands before it. -/
theorem of (h : s.office.startUp = none → CreditsForm s → Makes s t) : Makes s t := fun up form => h up form up form

theorem ite {p : Prop} [Decidable p] (h : p → Makes s t) (g : ¬ p → Makes s u) : Makes s (if p then t else u) := by
  split
  next c => exact h c
  next c => exact g c

theorem foldl {α : Type} {f : State → α → State} (h : ∀ s a, Makes s (f s a)) : ∀ (as : List α) (s : State), Makes s (as.foldl f s)
  | [], s => refl s
  | a :: as, s => (h s a).trans (foldl h as (f s a))

theorem withStall (l : Lane) {f : State → State} (s : State) (h : Makes s (f s)) : Makes s (withStall l f s) :=
  h.trans (stays (Stays.stallEdge _ l _))

/-! ### Holding faults and sends -/

/-- A holding fault of a lane that is not in its link start. -/
theorem raiseHolding (l : Lane) (k : FaultKind) (s : State) (free : Holdable s l) : Makes s (raiseHolding l k s) := by
  by_cases moves : s.lanes[l].state = .starting ∨ Working s l
  · exact move (.held s k moves free)
  · rw [raiseHolding_stays k moves]
    exact stays (Stays.recorded l k s)

theorem trySend (l : Lane) (s : State) : Makes s (trySend l s) :=
  ite (fun can => (withStall l s (move (.sent s can))).trans (stays (Stays.pump l _))) fun _ => refl s

theorem followUp (l : Lane) (other : Bool) (s : State) : Makes s (followUp l other s) :=
  ((stays ((Stays.dropWaiting l s).trans (Stays.pump l _))).trans (trySend l _)).trans (stays (Stays.pollOrWait l other _))

theorem afterExchange (l : Lane) (other : Bool) (f : Frame) (s : State) : Makes s (afterExchange l other f s) := by
  have ended : Makes s (s.onLink l fun k => { k with exchange := none }) := stays (Stays.onLink s l (fun _ => rfl) fun _ => rfl)
  simp only [Machine.afterExchange]
  split
  · exact ite (fun _ => ended.trans (stays (Stays.beginExchange l _ _))) fun _ => ended.trans (followUp l _ _)
  · exact ended.trans (followUp l _ _)

/-! ### The ends of a job -/

theorem endIssued {l : Lane} {j : Job} {n : Nat} (working : Working s l) (head : s.lanes[l].out.head? = some j)
    (serial : j.serial = some n) : Makes s (endIssued l j n s) := by
  rw [endIssued_eq]
  exact (move (.issued s working head serial)).trans (stays (Stays.desk (Desk.testCashUp j.window) _))

theorem spoiltTest (j : Job) (s : State) : Makes s (spoiltTest j s) :=
  ite (fun _ => refl s) fun _ => stays (Stays.desk (Desk.testCashUp j.window) s)

/-! ### Reports on a working lane -/

theorem protocol (l : Lane) (s : State) (free : Holdable s l) : Makes s (protocol l s) := raiseHolding l .protocol s free

end Makes

theorem holdable_of_awake {s : State} {l : Lane} (awake : s.lanes[l].state ≠ .starting) : Holdable s l := fun starting => absurd starting awake

theorem awake_of_working {s : State} {l : Lane} (working : Working s l) : s.lanes[l].state ≠ .starting := fun starting => by
  rcases working with is | is <;> exact (nomatch starting.symm.trans is)

theorem held_state (st : Settings) (was : Bool) (r : LaneRec) : (r.held st was).state = .holding := by
  have flush : ∀ n r, (flushLane st n r).state = r.state := fun n r => by
    unfold flushLane
    split
    · split <;> rfl
    · rfl
  unfold LaneRec.held LaneRec.edged
  split
  · rfl
  · exact flush _ _

/-- A holding fault moves no lane to STARTING. -/
theorem raiseHolding_awake {s : State} {l : Lane} (up : s.office.startUp = none) (form : CreditsForm s) (k : FaultKind)
    (awake : s.lanes[l].state ≠ .starting) : (raiseHolding l k s).lanes[l].state ≠ .starting := by
  by_cases moves : s.lanes[l].state = .starting ∨ Working s l
  · rw [raiseHolding_moved k moves ((form.lanes up l).settling (form.out_apart l))]
    show (s.lanes.upd l fun r => r.faulted.held s.office.settings (stalled s l))[l].state ≠ .starting
    rw [Table.upd_same]
    rw [held_state]
    decide
  · rw [raiseHolding_stays k moves, ((Stays.recorded l k s).lanes l).state]
    exact awake

theorem left_awake {r : LaneRec} (awake : r.state ≠ .starting) (b : Buffer) : (r.left b).state ≠ .starting := by
  unfold LaneRec.left
  dsimp only
  split
  · exact fun c => (nomatch c)
  · exact awake

theorem endIssued_awake {s : State} {l : Lane} (awake : s.lanes[l].state ≠ .starting) (j : Job) (n : Nat) :
    (endIssued l j n s).lanes[l].state ≠ .starting := by
  rw [endIssued_eq, (Desk.testCashUp j.window).rest]
  show (issuedBench l j n (issuedDesk l j n s)).lanes[l].state ≠ .starting
  rw [issuedBench_lanes, (issuedDesk_desk l j n).rest, Table.upd_same]
  exact left_awake awake j.buffer

theorem forall₂_map {α : Type} {R : α → α → Prop} {f : α → α} : ∀ {xs : List α}, (∀ x ∈ xs, R x (f x)) → List.Forall₂ R xs (xs.map f)
  | [], _ => .nil
  | x :: _, h => .cons (h x List.mem_cons_self) (forall₂_map fun y mem => h y (List.mem_cons_of_mem x mem))

/-- The next report's holding fault finds the lane in no link start. -/
theorem oldestAccepted_head {s : State} {l : Lane} {ref : Byte} {j : Job} (names : named (oldestAccepted s l) ref = some j) :
    s.lanes[l].out.head? = some j := by
  unfold named at names
  have is : oldestAccepted s l = some j := (Option.filter_eq_some_iff.1 names).1
  unfold oldestAccepted State.lane at is
  cases out : s.lanes[l].out with
  | nil =>
    rw [out] at is
    exact (nomatch is)
  | cons i rest =>
    rw [out] at is
    dsimp only at is
    split at is
    · exact is
    · exact (nomatch is)

namespace Makes

variable {s t u : State}

theorem actAccepted (l : Lane) (ref : Byte) (s : State) (working : Working s l) : Makes s (actAccepted l ref s) := by
  have free := holdable_of_awake (awake_of_working working)
  unfold Machine.actAccepted
  split
  · exact protocol l s free
  next j _ =>
    exact stays (Stays.onOut l j.buffer (f := fun j => { j with delivery := .accepted }) (fun _ => ⟨rfl, Iff.rfl, Iff.rfl⟩) s)

theorem actPrinted (l : Lane) (ref : Byte) (s : State) (working : Working s l) : Makes s (actPrinted l ref s) := of fun up form => by
  have free := holdable_of_awake (awake_of_working working)
  unfold Machine.actPrinted
  split
  · exact protocol l s free
  next j names =>
    split
    next fed =>
      refine stays (Stays.onLane s l (f := fun r => { r with
        out := r.out.map fun i => if i.buffer = j.buffer then { i with state := .printed } else i }) ?_)
      refine ⟨rfl, rfl, forall₂_map fun i mem => ?_, rfl, rfl, fun c => c.elim .inl fun c => .inr (.inl c)⟩
      split
      next same =>
        obtain rfl : i = j := List.inj_on_of_nodup_map (form.out_apart l) mem (List.mem_of_mem_head? (oldestAccepted_head names)) same
        exact ⟨rfl, ⟨fun c => (nomatch c), fun c => (nomatch fed.symm.trans c)⟩, ⟨fun c => (nomatch c), fun c => (nomatch fed.symm.trans c)⟩⟩
      · exact JobStill.refl i
    · exact raiseHolding l _ s free
    · exact protocol l s free

theorem actEjected (l : Lane) (ref : Byte) (s : State) (working : Working s l) : Makes s (actEjected l ref s) := of fun up form => by
  have free := holdable_of_awake (awake_of_working working)
  simp only [Machine.actEjected]
  split
  · exact protocol l s free
  next j names =>
    split
    · exact protocol l s free
    next n serial =>
      have ends := endIssued working (oldestAccepted_head names) serial
      have awake := endIssued_awake (awake_of_working working) j n
      obtain ⟨d, is⟩ : ∃ d, Machine.endIssued l j n s = d := ⟨_, rfl⟩
      rw [is] at ends awake ⊢
      have cleared : Makes d (d.onLink l fun k => { k with headFault := false }) := stays (Stays.onLink d l (fun _ => rfl) fun _ => rfl)
      refine ite (fun _ => (ends.trans cleared).trans (raiseHolding l _ _ (holdable_of_awake ?_))) fun _ => ends.trans cleared
      rw [State.onLink, State.onLane_same]
      exact awake

/-- HEAD_FAULT leaves a lane that is not in its link start so. -/
theorem headFault (l : Lane) (s : State) (awake : s.lanes[l].state ≠ .starting) : Makes s (headFault l s) :=
by
  unfold Machine.headFault
  split
  · exact raiseHolding l _ s (holdable_of_awake awake)
  · exact stays ((Stays.onLink s l (f := fun k => { k with headFault := true }) (fun _ => rfl) fun _ => rfl).trans
      (Stays.raiseRecovered l _ _))

theorem headFault_awake {l : Lane} (up : s.office.startUp = none) (form : CreditsForm s) (awake : s.lanes[l].state ≠ .starting) :
    (Machine.headFault l s).lanes[l].state ≠ .starting := by
  unfold Machine.headFault
  split
  · exact raiseHolding_awake up form _ awake
  · have still := (Stays.onLink s l (f := fun k => { k with headFault := true }) (fun _ => rfl) fun _ => rfl).trans
      (Stays.raiseRecovered l .headFault _)
    rw [(still.lanes l).state]
    exact awake

theorem actSpoiled (l : Lane) (ref : Byte) (s : State) (working : Working s l) : Makes s (actSpoiled l ref s) := of fun up form => by
  have free := holdable_of_awake (awake_of_working working)
  simp only [Machine.actSpoiled]
  split
  · exact protocol l s free
  next j names =>
    split
    · exact protocol l s free
    next n serial =>
      have ends : Makes s (Machine.spoiltTest j (spoiltBench l j [n] (spoilHeld l j.kind n (spoiltDesk l j .headFault [n] s)))) :=
        (move (.spoilt s .headFault working (oldestAccepted_head names) serial)).trans (spoiltTest j _)
      have spoilt := spoilt_eq (Bench.spoilHeld l j.kind n) l j .headFault [n] s
      have awake : (Machine.spoiltTest j (spoiltBench l j [n] (spoilHeld l j.kind n (spoiltDesk l j .headFault [n] s)))).lanes[l].state ≠
          .starting := by
        rw [spoiltTest_lanes, spoiltBench_eq]
        rw [spoilHeld_eq]
        show (Table.upd (Table.upd _ l LaneRec.spoiltOne) l fun r => (LaneRec.left j.buffer r).retried j [n])[l].state ≠ LaneState.starting
        rw [Table.upd_same, Table.upd_same]
        refine left_awake (r := LaneRec.spoiltOne _) ?_ j.buffer
        rw [spoiltOne_same, (spoiltDesk_desk l j .headFault [n]).rest]
        exact awake_of_working working
      rw [← spoilt] at ends awake
      have same : retryOrEnd l (j.addSpoilt n) (leaveOut l j.buffer (give (spoiltEntry j.kind n l (some j.window) .headFault)
          ((spoilHeld l j.kind n s).onDrawer j.window Drawer.countSpoilt))) =
          retryOrEnd l (j.spoiltBy [n]) (leaveOut l j.buffer (lostDesk l j .headFault [n] (spoilHeld l j.kind n s))) := rfl
      rw [same]
      obtain ⟨d, is⟩ : ∃ d, retryOrEnd l (j.spoiltBy [n]) (leaveOut l j.buffer (lostDesk l j .headFault [n] (spoilHeld l j.kind n s))) = d :=
        ⟨_, rfl⟩
      rw [is] at ends awake ⊢
      obtain ⟨up', form'⟩ := (ends up form).credits up form
      have faulted := headFault l d awake
      exact ite (fun _ => (ends.trans faulted).trans (raiseHolding l _ _ (holdable_of_awake (headFault_awake up' form' awake)))) fun _ =>
        ends.trans faulted

theorem actFlushed (l : Lane) (c : Byte) (s : State) (working : Working s l) : Makes s (actFlushed l c s) := by
  have awake := awake_of_working working
  have cleared : Makes s (clearFlush l s) := stays (Stays.clearFlush l s)
  unfold Machine.actFlushed
  split
  · exact protocol l s (holdable_of_awake awake)
  · refine ite (fun _ => cleared.trans (trySend l _)) fun _ => cleared.trans (protocol l _ (holdable_of_awake ?_))
    rw [clearFlush, State.onLane_same]
    exact awake

theorem actOutOfStock (l : Lane) (s : State) (awake : s.lanes[l].state ≠ .starting) : Makes s (actOutOfStock l s) :=
  ite (fun _ => refl s) fun _ => raiseHolding l _ s (holdable_of_awake awake)

theorem actWorking (l : Lane) (r : Report) (s : State) (working : Working s l) : Makes s (actWorking l r s) := by
  have awake := awake_of_working working
  unfold Machine.actWorking
  split
  · exact ite (fun _ => refl s) fun _ => actAccepted l _ s working
  · exact ite (fun _ => refl s) fun _ => actPrinted l _ s working
  · exact ite (fun _ => refl s) fun _ => actEjected l _ s working
  · exact ite (fun _ => refl s) fun _ => actSpoiled l _ s working
  · exact actFlushed l _ s working
  · exact raiseHolding l _ s (holdable_of_awake awake)
  · exact actOutOfStock l s awake
  · exact protocol l s (holdable_of_awake awake)
  · exact refl s

theorem actHolding (l : Lane) (r : Report) (s : State) (holding : s.lanes[l].state = .holding) : Makes s (actHolding l r s) := by
  have awake : s.lanes[l].state ≠ .starting := fun c => (nomatch holding.symm.trans c)
  unfold Machine.actHolding
  split
  · exact stays (Stays.clearFlush l s)
  · exact raiseHolding l _ s (holdable_of_awake awake)
  · exact actOutOfStock l s awake
  all_goals exact refl s

theorem act (l : Lane) (r : Report) (s : State) : Makes s (act l r s) := by
  unfold Machine.act
  split
  next is => exact withStall l s (actWorking l r s (.inl is))
  next is => exact withStall l s (actWorking l r s (.inr is))
  next is => exact actHolding l r s is
  · exact refl s

end Makes

end Sys2Proof.Machine
end

section
/-! The end of an exchange, the Feed Monitor and the timers as chains of elementary changes. -/

namespace Sys2Proof.Machine

namespace Makes

variable {s t u : State}

/-! ### The end of an exchange (R99, R101, R105 to R109) -/

/-- A change of the engine that leaves its phase and the restart that is due. -/
theorem onLink (s : State) (l : Lane) {f : LinkEngine → LinkEngine} (phase : ∀ k, (f k).phase = k.phase)
    (due : ∀ k, (f k).restartDue = k.restartDue) : Makes s (s.onLink l f) := stays (Stays.onLink s l phase due)

theorem setPins (l : Lane) (p : Pins) (s : State) : Makes s (setPins l p s) := stays (Stays.setPins l p s)

theorem raiseDown (l : Lane) (k : FaultKind) (s : State) : Makes s (raiseDown l k s) := by
  refine (stays (Stays.linkDown l s)).trans (raiseHolding l k _ fun _ => ?_)
  rw [linkDown_eq, State.onLane_same]
  exact ⟨fun c => (nomatch c), rfl⟩

theorem failGreeting (l : Lane) (s : State) : Makes s (failGreeting l s) := by
  simp only [Machine.failGreeting]
  have counted := onLink s l (f := fun k => { k with exchange := none, fails := k.fails + 1 }) (fun _ => rfl) fun _ => rfl
  exact ite (fun _ => counted.trans (onLink _ l (fun _ => rfl) fun _ => rfl)) fun _ => counted.trans (raiseDown l _ _)

theorem failRunning (l : Lane) (x : Exchange) (s : State) : Makes s (failRunning l x s) := by
  simp only [Machine.failRunning]
  have counted := onLink s l (f := fun k =>
    { k with exchange := none, fails := k.fails + 1, repeatFrame := some x.carried, poll := some s.office.settings.poll })
    (fun _ => rfl) fun _ => rfl
  exact ite (fun _ => counted) fun _ => counted.trans (raiseDown l _ _)

/-- A link start that is due belongs to a lane in STARTING. -/
theorem linkStart {l : Lane} (due : s.lanes[l].link.restartDue = true) : Makes s (linkStart l s) := of fun up form =>
  stays (Stays.linkStart ((form.lanes up l).starting (.inr due)))

theorem failExchange (l : Lane) (x : Exchange) (s : State) : Makes s (failExchange l x s) := by
  unfold Machine.failExchange
  refine ite (fun due => linkStart due) fun _ => ?_
  split
  · exact failGreeting l s
  · exact failRunning l x s
  · exact refl s

/-- The frame of a good exchange has reached the printer. -/
theorem reached (l : Lane) (f : Frame) (s : State) : Makes s (delivered l f (s.onLink l fun k => { k with fails := 0 })) :=
  (onLink s l (f := fun k => { k with fails := 0 }) (fun _ => rfl) fun _ => rfl).trans (stays (Stays.delivered l f _))

theorem reached_holdable {l : Lane} (f : Frame) (phase : s.lanes[l].link.phase = .running) (due : ¬ s.lanes[l].link.restartDue = true) :
    Holdable (delivered l f (s.onLink l fun k => { k with fails := 0 })) l := fun _ => by
  have same : (delivered l f (s.onLink l fun k => { k with fails := 0 })).lanes[l].link.phase = s.lanes[l].link.phase ∧
      (delivered l f (s.onLink l fun k => { k with fails := 0 })).lanes[l].link.restartDue = s.lanes[l].link.restartDue := by
    rw [delivered_eq, State.onLane_same, State.onLink, State.onLane_same]
    exact ⟨rfl, rfl⟩
  rw [same.1, same.2, phase]
  exact ⟨fun c => (nomatch c), Bool.eq_false_iff.2 due⟩

theorem answerRunning (l : Lane) (x : Exchange) (r : Report) (s : State) (phase : s.lanes[l].link.phase = .running)
    (due : ¬ s.lanes[l].link.restartDue = true) : Makes s (answerRunning l x r s) := of fun up form => by
  have holdable := reached_holdable x.carried.frame phase due
  simp only [Machine.answerRunning]
  refine (reached l x.carried.frame s).trans ?_
  refine ite (fun _ => afterExchange l _ _ _) fun _ => ?_
  split
  · exact ((onLink _ l (f := fun k => { k with ack := r.seq.map fun q => decide (q = 1) }) (fun _ => rfl) fun _ => rfl).trans
      (act l r _)).trans (afterExchange l _ _ _)
  · exact (protocol l _ holdable).trans (afterExchange l _ _ _)

theorem acceptCapacity (l : Lane) (x : Exchange) (bit : Bool) (k : Nat) (s : State) (phase : s.lanes[l].link.phase = .greeting)
    (due : ¬ s.lanes[l].link.restartDue = true) (few : 1 ≤ k ∧ k ≤ 4) : Makes s (acceptCapacity l x bit k s) := of fun up form => by
  have starting := (form.lanes up l).starting (.inl phase)
  obtain ⟨st, is, two⟩ : ∃ st : LaneState, (st = if s.faults.recs[l].active = none ∧ ∀ d ∈ s.stock.doubts, d.lane ≠ l then .ready else .holding) ∧
      (st = .ready ∨ st = .holding) := ⟨_, rfl, by split; exact .inl rfl; exact .inr rfl⟩
  have own : Machine.setPins l s.lanes[l].pins s = s := State.onLane_id rfl
  have accepts := acceptCapacity_eq x bit k s.lanes[l].pins starting is
  rw [own] at accepts
  rw [accepts]
  refine ((move (.turned s l rfl rfl fun form => ?_)).trans (stays (Stays.give (.lane l st .capacity) _))).trans (afterExchange l true _ _)
  have out : s.lanes[l].out = [] := form.credited.out_nil (by rw [starting]; decide)
  exact {
    unlinked := fun c => by rcases two with rfl | rfl <;> rcases c with c | c | ⟨w, c⟩ <;> exact (nomatch c)
    linked := fun _ => Option.some_ne_none k
    printing := ⟨fun c => by rcases two with rfl | rfl <;> exact (nomatch c), fun c => absurd out c⟩
    absent := fun c => (nomatch c)
    sum := fun K same => by
      obtain rfl : k = K := Option.some.inj same
      refine ⟨few.1, few.2, ?_⟩
      show k + s.lanes[l].out.length = k
      rw [out]
      rfl
    out := fun j mem => by
      exfalso
      have none' : j ∈ s.lanes[l].out := mem
      rw [out] at none'
      exact (nomatch none')
    starting := fun c => by
      exfalso
      rcases c with c | c
      · exact (nomatch c)
      · exact due c }

theorem answerGreet (l : Lane) (x : Exchange) (r : Report) (s : State) (formed : r.wellFormed = true) (phase : s.lanes[l].link.phase = .greeting)
    (due : ¬ s.lanes[l].link.restartDue = true) : Makes s (answerGreet l x r s) := by
  unfold Machine.answerGreet
  split
  next q k w i =>
    refine ite (fun _ => acceptCapacity l x _ _ s phase due ?_) fun _ => failGreeting l s
    obtain ⟨low, high, -⟩ := of_decide_eq_true (Bool.and_eq_true_iff.1 formed).1
    exact ⟨low, high⟩
  · exact failGreeting l s

theorem goodReport (l : Lane) (x : Exchange) (r : Report) (s : State) (formed : r.wellFormed = true) : Makes s (goodReport l x r s) := by
  unfold Machine.goodReport
  refine ite (fun due => linkStart due) fun due => ?_
  split
  next phase => exact answerGreet l x r s formed phase due
  next phase => exact answerRunning l x r s phase due
  · exact refl s

theorem badForm (l : Lane) (x : Exchange) (s : State) : Makes s (badForm l x s) := of fun up form => by
  unfold Machine.badForm
  refine ite (fun due => linkStart due) fun due => ?_
  split
  · exact failGreeting l s
  next phase =>
    exact ((reached l x.carried.frame s).trans (protocol l _ (reached_holdable _ phase due))).trans (afterExchange l _ _ _)
  · exact refl s

theorem judged (l : Lane) (x : Exchange) (r : Report) (s : State) :
    Makes s (if r.wellFormed then Machine.goodReport l x r s else Machine.badForm l x s) :=
  ite (fun formed => goodReport l x r s formed) fun _ => badForm l x s

/-! ### The Feed Monitor (R119 to R127) -/

theorem countFed (l : Lane) (n : Nat) (s : State) : Makes s (countFed l n s) := stays (Stays.countFed l n s)

theorem raiseRecovered (l : Lane) (k : FaultKind) (s : State) : Makes s (raiseRecovered l k s) := stays (Stays.raiseRecovered l k s)

theorem doubleFeed {l : Lane} {j : Job} {n : Nat} (working : Working s l) (awaits : awaitingMark s l = some j) (serial : j.serial = some n) :
    Makes s (doubleFeed l j n (Machine.countFed l 2 s)) := by
  obtain ⟨lost, both⟩ : ∃ lost, lost = n :: (secondBlank l j n (firstBlank l j n s)).2 := ⟨_, rfl⟩
  have bench : Bench fun s => (secondBlank l j n (spoilHeld l j.kind n s)).1 := (Bench.secondBlank l j n).comp (Bench.spoilHeld l j.kind n)
  have spoilt := spoilt_eq bench l j .doubleFeed lost (Machine.countFed l 2 s)
  have is : Machine.doubleFeed l j n (Machine.countFed l 2 s) =
      Machine.raiseRecovered l .doubleFeed (Machine.spoiltTest j (doubledState l j n lost (Machine.countFed l 2 s))) := by
    rw [doubledState, (spoiltTest_desk j).commutes (Bench.sequenceRepair l [j.buffer]), ← spoilt, both]
    rfl
  rw [is]
  exact ((move (.doubled s working awaits serial both)).trans (spoiltTest j _)).trans (raiseRecovered l _ _)

end Makes

/-- Delivery marks say nothing of which jobs await a mark. -/
theorem awaitingMark_still {s t : State} {l : Lane} (none' : awaitingMark s l = none) (still : LaneStill s.lanes[l] t.lanes[l]) :
    awaitingMark t l = none := by
  refine List.find?_eq_none.2 fun i mem => ?_
  obtain ⟨j, memJ, same⟩ := exists_of_forall₂_mem still.out mem
  have idle := List.find?_eq_none.1 none' j memJ
  rw [decide_eq_true_eq] at idle ⊢
  exact fun c => idle (same.sent.1 c)

theorem spoilNext_working {s : State} {l : Lane} (working : Working s l) : Working (spoilNext l s) l := by
  unfold Working at working ⊢
  rcases (spoilNext_lane l s).2 with same | same
  · rw [same]
    exact working
  · rw [same, spoiltOne_same]
    exact working

namespace Makes

variable {s t u : State}

theorem spoilNext {l : Lane} (none' : awaitingMark s l = none) : Makes s (spoilNext l s) := move (.nextSpoilt s none')

theorem unexpectedFeed (l : Lane) (s : State) (working : Working s l) (none' : awaitingMark s l = none) : Makes s (unexpectedFeed l s) :=
  of fun up form => by
    have still := (Stays.countFed l 1 s).lanes l
    have repairs : ∀ d, Working d l → Makes d (Machine.raiseRecovered l .unexpectedFeed (sequenceRepair l [] d)) := fun d working =>
      (move (.repaired d [] working)).trans (raiseRecovered l _ _)
    have working' := working.still still
    have none'' := awaitingMark_still none' still
    have counted := countFed l 1 s
    obtain ⟨d, is⟩ : ∃ d, Machine.countFed l 1 s = d := ⟨_, rfl⟩
    simp only [Machine.unexpectedFeed]
    rw [is] at working' none'' counted ⊢
    refine counted.trans ?_
    split
    · exact repairs d working'
    next k n _ =>
      refine of fun up' _ => ?_
      have up'' : (Machine.spoilNext l d).office.startUp = none := by
        rw [(Within.spoilNext l d).office]
        exact up'
      have given := Stays.give (spoiltEntry k n l none .unexpectedFeed) (Machine.spoilNext l d)
      exact ((spoilNext none'').trans (stays given)).trans (repairs _ ((spoilNext_working working').still (given.lanes l)))

theorem feedJob {l : Lane} {j : Job} (awaits : awaitingMark s l = some j) : Makes s (feedJob l j s) := move (.fed s awaits)

theorem jobMark {l : Lane} {j : Job} (c : MarkClass) (working : Working s l) (awaits : awaitingMark s l = some j) :
    Makes s (jobMark l j c s) := of fun up form => by
  have fed : Makes s (Machine.countFed l 1 (Machine.feedJob l j s)) := (feedJob awaits).trans (countFed l 1 _)
  unfold Machine.jobMark
  split
  · exact fed
  · exact fed
  · refine fed.trans (raiseHolding l _ _ (holdable_of_awake ?_))
    rw [((Stays.countFed l 1 (Machine.feedJob l j s)).lanes l).state, Machine.feedJob, onOut, State.onLane_same]
    exact awake_of_working working
  · split
    next n serial => exact doubleFeed working awaits serial
    · exact fed

theorem markEdge (l : Lane) (s : State) : Makes s (markEdge l s) := by
  have captured : Makes s (s.onFeed l FeedMonitor.capture) := stays (Stays.onFeed s l _)
  have row : (s.onFeed l FeedMonitor.capture).lanes[l] = { s.lanes[l] with feed := s.lanes[l].feed.capture } := State.onLane_same _ _ _
  have marks : Working s l → Makes (s.onFeed l FeedMonitor.capture) (markWorking l s.lanes[l].feed (s.onFeed l FeedMonitor.capture)) := by
    intro working
    have working' : Working (s.onFeed l FeedMonitor.capture) l := by
      unfold Working at working ⊢
      rw [row]
      exact working
    unfold markWorking
    split
    next none' => exact unexpectedFeed l _ working' none'
    next j awaits => exact jobMark _ working' awaits
  simp only [Machine.markEdge]
  refine ite (fun _ => ?_) fun _ => refl s
  split
  next is => exact captured.trans (withStall l (f := markWorking l s.lanes[l].feed) _ (marks (.inl is)))
  next is => exact captured.trans (withStall l (f := markWorking l s.lanes[l].feed) _ (marks (.inr is)))
  · exact (captured.trans (countFed l 1 _)).trans (raiseRecovered l _ _)

theorem stepPulse (l : Lane) (s : State) : Makes s (stepPulse l s) := by
  have pulsed : Makes s (s.onFeed l FeedMonitor.pulse) := stays (Stays.onFeed s l _)
  unfold Machine.stepPulse
  refine ite (fun _ => ?_) fun _ => refl s
  unfold missedMarkTest
  refine ite (fun overdue => ?_) fun _ => pulsed
  refine pulsed.trans (raiseHolding l _ _ (holdable_of_awake (awake_of_working ?_)))
  unfold markOverdue at overdue
  have working := (Bool.and_eq_true_iff.1 (Bool.and_eq_true_iff.1 overdue).1).2
  rw [decide_eq_true_eq] at working
  exact working

/-! ### Events of the lines and timers (R92, R102 to R105) -/

theorem abandonAt (l : Lane) (x : XStep) (k : FaultKind) (s : State) : Makes s (abandonAt l x k s) := by
  unfold Machine.abandonAt
  split
  · exact refl s
  · exact raiseDown l k s

theorem setStep (l : Lane) (x : XStep) (n : Option Nat) (s : State) : Makes s (setStep l x n s) := stays (Stays.setStep l x n s)

theorem idleAfter (l : Lane) (n : Nat) (s : State) : Makes s (idleAfter l n s) := by
  simp only [Machine.idleAfter]
  split
  · exact refl s
  · have h : Makes s (s.onLane l fun r => { r with pins := { r.pins with ldiLow := false } }) := by
      refine stays (Stays.onLaneRest s l ?_ ?_ ?_ ?_ ?_ ?_ ?_) <;> exact fun _ => rfl
    exact ite (fun _ => (h.trans (setStep l _ _ _)).trans (raiseRecovered l _ _)) fun _ =>
      ite (fun _ => h.trans (raiseDown l _ _)) fun _ => h

theorem failsAt (l : Lane) (x : XStep) (p : Pins) (s : State) : Makes s (failsAt l x p s) := by
  unfold Machine.failsAt
  split
  · exact refl s
  · exact (setPins l p s).trans (failExchange l _ _)

theorem malformedEnds (l : Lane) (p : Pins) (s : State) : Makes s (malformedEnds l p s) := by
  unfold Machine.malformedEnds
  split
  · exact refl s
  · exact (setPins l p s).trans (badForm l _ _)

theorem busyReleased (l : Lane) (low : Bool) (s : State) : Makes s (busyReleased l low s) := by
  simp only [Machine.busyReleased]
  split
  · exact setPins l _ s
  · exact (setPins l _ s).trans (setStep l _ _ _)

theorem frameEnds (l : Lane) (s : State) : Makes s (frameEnds l s) := by
  unfold Machine.frameEnds
  split
  · exact refl s
  · exact setStep l _ _ s

theorem reportBegins (l : Lane) (s : State) : Makes s (reportBegins l s) := by
  unfold Machine.reportBegins
  split
  · exact refl s
  · exact setStep l _ _ s

theorem beginPoll (l : Lane) (s : State) : Makes s (beginPoll l s) := stays (Stays.beginPoll l s)

theorem carryAgain (l : Lane) (c : Carried) (s : State) : Makes s (carryAgain l c s) := by
  have again : Makes s (beginCarried l c s) := stays (Stays.beginCarried l c s)
  unfold Machine.carryAgain
  split
  · exact ite (fun _ => again) fun _ => beginPoll l s
  · exact again
  · exact beginPoll l s
  · exact beginPoll l s

theorem pollTimer (l : Lane) (pins : Pins) (s : State) : Makes s (pollTimer l pins s) := by
  unfold Machine.pollTimer
  refine ite (fun _ => (setPins l pins s).trans ?_) fun _ => refl s
  obtain ⟨d, is⟩ : ∃ d, Machine.setPins l pins s = d := ⟨_, rfl⟩
  rw [is]
  have expired := onLink d l (f := fun k => { k with poll := none, repeatFrame := none }) (fun _ => rfl) fun _ => rfl
  simp only [pollExpires]
  split
  · exact expired.trans (stays (Stays.beginExchange l _ _))
  · split
    · exact expired.trans (beginPoll l _)
    · exact expired.trans (carryAgain l _ _)
  · exact expired

end Makes

end Sys2Proof.Machine
end

section
/-! A job that joins a lane, and the expiry of the patience timer, as chains of elementary changes. -/

namespace Sys2Proof.Machine

namespace Makes

variable {s t u : State}

theorem withBus (bus : Option Nat) {f : State → State} (s : State) (h : ∀ d, Makes d (f d)) : Makes s (withBus bus f s) :=
  ((stays (Stays.onHost s fun x => { x with busIn := bus })).trans (h _)).trans (stays (Stays.onHost _ fun x => { x with busIn := none }))

theorem reportEnds (l : Lane) (r : Report) (pins : Pins) (bus : Option Nat) (s : State) : Makes s (reportEnds l r pins bus s) := by
  unfold Machine.reportEnds
  split
  · exact refl s
  · exact withBus bus s fun d => (setPins l pins d).trans (judged l _ r _)

theorem setLines (ls : Lines) (s : State) : Makes s (setLines ls s) := stays (Stays.setLines ls s)

/-- A job that has joined a lane, and the sending test (R85, R89). -/
theorem joinLane {l : Lane} {j : Job} (joins : Makes s (t.onLane l (LaneRec.joinedBy l j))) : Makes s (joinLane l j t) := by
  have joined : Makes s (Machine.withStall l (fun s => s.onLane l (LaneRec.joinedBy l j)) t) :=
    joins.trans (stays (Stays.stallEdge _ l _))
  exact (joined.trans (stays (Stays.onAct _ l _))).trans (trySend l _)

end Makes

/-- The queue of a lane that a job has left. -/
theorem considerJob_queue {s : State} {l : Lane} {j : Job} : ∀ q ∈ s.lanes[l].queue, q.buffer ≠ j.buffer → q ∈ (considerJob l s j).lanes[l].queue := by
  intro q mem other
  cases target : moveTarget s l j with
  | none =>
    rw [considerJob_stays (s := s) fun a is => (nomatch target.symm.trans is)]
    exact mem
  | some a =>
    cases given : moveBuffer s a j with
    | none =>
      rw [considerJob_stays (s := s) fun a' is => by rw [target] at is; obtain rfl : a = a' := Option.some.inj is; exact given]
      exact mem
    | some b =>
      obtain ⟨-, -, apart, -⟩ := moveTarget_eq_some.1 target
      rw [considerJob_moves target given]
      have within : OtherLanes a ((rehome j b s).onLane l fun r => { r with queue := r.queue.filter fun q => decide (q.buffer ≠ j.buffer) })
          (joinLane a { j with buffer := b }
            ((rehome j b s).onLane l fun r => { r with queue := r.queue.filter fun q => decide (q.buffer ≠ j.buffer) })) := by
        exact (((Within.withStall a _ (Within.onLane _ a _)).trans (Within.onAct _ a _)).trans (Within.trySend a _)).lanes
      rw [within l fun c => apart c.symm, State.onLane_same, rehome_images]
      exact List.mem_filter.2 ⟨mem, decide_eq_true other⟩

namespace Makes

variable {s t u : State}

theorem considerJob {l : Lane} {j : Job} (mem : j ∈ s.lanes[l].queue) : Makes s (considerJob l s j) := by
  cases target : moveTarget s l j with
  | none =>
    rw [considerJob_stays (s := s) fun a is => (nomatch target.symm.trans is)]
    exact refl s
  | some a =>
    cases given : moveBuffer s a j with
    | none =>
      rw [considerJob_stays (s := s) fun a' is => by rw [target] at is; obtain rfl : a = a' := Option.some.inj is; exact given]
      exact refl s
    | some b =>
      have buffer : b = j.buffer ∨ s.images[b] = none := by
        unfold moveBuffer at given
        split at given
        · exact .inl (Option.some.inj given).symm
        · exact .inr (Option.isNone_iff_eq_none.1 (pickBuffer_free given))
      rw [considerJob_moves target given]
      exact joinLane (t := (rehome j b s).onLane l (LaneRec.without j.buffer)) (move (.moved s a mem buffer))

/-- The jobs of a queue, considered one by one. -/
theorem considerJobs (l : Lane) : ∀ (js : List Job) (s : State), (js.map Job.buffer).Nodup → (∀ j ∈ js, j ∈ s.lanes[l].queue) →
    Makes s (js.foldl (Machine.considerJob l) s)
  | [], s, _, _ => refl s
  | j :: js, s, apart, queued => by
    obtain ⟨first, rest⟩ := List.nodup_cons.1 apart
    refine (considerJob (queued j List.mem_cons_self)).trans (considerJobs l js _ rest fun q mem => ?_)
    exact considerJob_queue q (queued q (List.mem_cons_of_mem j mem)) fun same => first (List.mem_map.2 ⟨q, mem, same⟩)

theorem setPatience (l : Lane) (n : Option Nat) (s : State) : Makes s (s.onLane l fun r => { r with patience := n }) := by
  refine stays (Stays.onLaneRest s l ?_ ?_ ?_ ?_ ?_ ?_ ?_) <;> exact fun _ => rfl

theorem patienceEnds (l : Lane) (s : State) : Makes s (patienceEnds l s) := of fun up form => by
  unfold Machine.patienceEnds
  refine ite (fun _ => ?_) fun _ => refl s
  have stopped := setPatience l none s
  have queue : (s.onLane l fun r => { r with patience := none }).lanes[l].queue = s.lanes[l].queue := by rw [State.onLane_same]
  have considered : Makes s (s.lanes[l].queue.foldl (Machine.considerJob l) (s.onLane l fun r => { r with patience := none })) := by
    refine stopped.trans (considerJobs l _ _ ?_ fun j mem => by rw [queue]; exact mem)
    have apart := form.apart l
    rw [laneJobs, List.map_append] at apart
    exact apart.of_append_left
  obtain ⟨d, is⟩ : ∃ d, s.lanes[l].queue.foldl (Machine.considerJob l) (s.onLane l fun r => { r with patience := none }) = d := ⟨_, rfl⟩
  rw [is] at considered
  rw [State.lane, is]
  exact ite (fun _ => considered.trans (setPatience l _ d)) fun _ => considered

end Makes

end Sys2Proof.Machine
end

section
/-! The changes of the orders as chains of elementary changes. -/

namespace Sys2Proof.Machine

/-- A lane that is not PRINTING, in a state with no K (R76, R80). -/
theorem CreditForm.unlink {r r' : LaneRec} (h : CreditForm r) (idle : r.state ≠ .printing) (out : r'.out = r.out) (cap : r'.cap = none)
    (credits : r'.credits = 0) (state : r'.state ≠ .ready ∧ r'.state ≠ .printing)
    (starting : (r'.link.phase = .greeting ∨ r'.link.restartDue = true) → r'.state = .starting) : CreditForm r' where
  unlinked := fun _ => cap
  linked := fun c => absurd c (not_or.2 state)
  printing := by
    have none' := h.credited.out_nil idle
    exact ⟨fun c => absurd c state.2, fun c => absurd (out.trans none') c⟩
  absent := fun _ => credits
  sum := fun K c => (nomatch cap.symm.trans c)
  out := fun j mem => by
    rw [out, h.credited.out_nil idle] at mem
    exact (nomatch mem)
  starting := starting

namespace Makes

variable {s t u : State} {l : Lane}

/-! ### The lanes (R76, R80, R82, R145) -/

theorem give (b : EntryBody) (s : State) : Makes s (give b s) := stays (Stays.give b s)

theorem beginLinkStart (starting : s.lanes[l].state = .starting) : Makes s (beginLinkStart l s) := by
  unfold Machine.beginLinkStart
  refine ite (fun _ => stays (Stays.onLane s l ?_)) fun _ => stays (Stays.linkStart starting)
  exact Stays.ofRec rfl rfl rfl rfl rfl .inl fun _ => .inr starting

theorem toStarting (why : LaneReason) (idle : s.lanes[l].state = .off ∨ (∃ w, s.lanes[l].state = .parked w) ∨ s.lanes[l].state = .holding) :
    Makes s (toStarting l why s) := of fun up form => by
  have notPrinting : s.lanes[l].state ≠ .printing := fun c => by
    rcases idle with h | ⟨w, h⟩ | h <;> exact (nomatch h.symm.trans c)
  have turned : Makes s (s.onLane l fun r => { r with state := .starting, cap := none, credits := 0 }) :=
    move (.turned s l rfl rfl fun h => h.unlink notPrinting rfl rfl rfl ⟨by exact LaneState.noConfusion, by exact LaneState.noConfusion⟩ fun _ => rfl)
  have up' : (s.onLane l fun r => { r with state := .starting, cap := none, credits := 0 }).office.startUp = none := up
  have still := (Stays.give (.lane l .starting why) (s.onLane l fun r => { r with state := .starting, cap := none, credits := 0 })).lanes l
  unfold Machine.toStarting
  refine (turned.trans (give _ _)).trans (beginLinkStart ?_)
  rw [still.state, State.onLane_same]

theorem park (why : ParkReason) (reason : LaneReason) (idle : s.lanes[l].state ≠ .printing) : Makes s (park l why reason s) := by
  rw [park_eq]
  refine (move (.turned s l rfl rfl fun h => h.unlink idle rfl rfl rfl
    ⟨by exact LaneState.noConfusion, by exact LaneState.noConfusion⟩ fun c => ?_)).trans (give _ _)
  rcases c with c | c <;> exact (nomatch c)

theorem setParkReason (parked : ∃ w, s.lanes[l].state = .parked w) : Makes s (setParkReason l s) := by
  obtain ⟨w, parked⟩ := parked
  refine move (.turned s l rfl rfl fun h => h.unlink (fun c => (nomatch parked.symm.trans c)) rfl ?_ ?_
    ⟨fun c => (nomatch c), fun c => (nomatch c)⟩ fun c => ?_)
  · exact h.unlinked (.inr (.inr ⟨w, parked⟩))
  · exact h.absent (h.unlinked (.inr (.inr ⟨w, parked⟩)))
  · exact (nomatch parked.symm.trans (h.starting c))

/-! ### Office Control (R171, R172) -/

theorem startDayLane (l : Lane) (s : State) : Makes s (startDayLane l s) :=
  ite (fun parked => toStarting .opened (.inr (.inl ⟨_, parked⟩))) fun _ => refl s

theorem parkDayLane (l : Lane) (s : State) : Makes s (parkDayLane l s) := by
  unfold Machine.parkDayLane
  split
  next is => exact park _ _ fun c => (nomatch is.symm.trans c)
  next is => exact park _ _ fun c => (nomatch is.symm.trans c)
  · exact refl s

theorem forLanes {f : Lane → State → State} (h : ∀ l s, Makes s (f l s)) (s : State) : Makes s (forLanes f s) :=
  foldl (f := fun s l => f l s) (fun s l => h l s) _ s

theorem applyOfficeOpen (b : OpenBody) (rate : LinkRate) (s : State) : Makes s (applyOfficeOpen b rate s) := by
  have opened : Makes s ((s.onOffice fun o =>
      { o with day := b.day, settings := appliedSettings b rate, clock := 0, opened := true }).onStock fun r => { r with kinds := b.kinds }) :=
    stays ⟨id, rfl, fun _ => LaneStill.refl _, rfl, rfl, rfl⟩
  exact (opened.trans (give _ _)).trans (forLanes startDayLane _)

theorem applyDayClose (s : State) : Makes s (applyDayClose s) := by
  have emptied : Makes s (s.onIssue fun i => { i with table := [] }) := move (.stock (.evicted s (List.nil_sublist _)))
  have counted : ∀ s : State, Makes s { s with lanes := s.lanes.map fun r => { r with act := Activity.zero } } := fun s =>
    stays ⟨id, rfl, fun l => by
      have row : (s.lanes.map fun r => { r with act := Activity.zero })[l] = { s.lanes[l] with act := Activity.zero } := Vector.getElem_map ..
      show LaneStill s.lanes[l] (s.lanes.map fun r => { r with act := Activity.zero })[l]
      rw [row]
      exact Stays.ofRec rfl rfl rfl rfl rfl .inl .inl, rfl, rfl, rfl⟩
  have closed : ∀ s : State, Makes s ((s.onOffice fun o => { o with opened := false }).onExch fun x => { x with tags := Vector.replicate 13 0 }) :=
    fun s => stays ⟨id, rfl, fun _ => LaneStill.refl _, rfl, rfl, rfl⟩
  exact (((emptied.trans (counted _)).trans (forLanes parkDayLane _)).trans (give _ _)).trans (closed _)

/-! ### The Stock Register (R10, R12, R13) -/

theorem applyReceive {k : StockKind} {f c : Nat} {rs : List Run} (some' : 1 ≤ c) (apart : overlaps s k f c = false)
    (merges : mergeRun k f c s.stock.runs = some rs) : Makes s (applyReceive k f c rs s) :=
  (move (.stock (.received s some' apart merges))).trans (give _ _)

theorem applyLoad {k : StockKind} {f c : Nat} {r : Run} (some' : 1 ≤ c) (lane : loadable s.lanes[l] = true) (empty : s.stock.mags[l] = none)
    (run : runHolding k f c s.stock.runs = some r) : Makes s (applyLoad l k f c s) := of fun up form => by
  have out : s.lanes[l].out = [] := by
    unfold loadable at lane
    split at lane
    next is => exact (form.lanes up l).credited.out_nil fun c => (nomatch is.symm.trans c)
    next is => exact (form.lanes up l).credited.out_nil fun c => (nomatch is.symm.trans c)
    · exact List.isEmpty_iff.1 lane
    · exact absurd lane Bool.false_ne_true
  unfold Machine.applyLoad
  refine (withStall l s ?_).trans (trySend l _)
  exact (move (.stock (.loaded s some' out empty run))).trans (give _ _)

theorem applyUnload {m : Loaded} {rs : List Run} (out : s.lanes[l].out = []) (mag : s.stock.mags[l] = some m)
    (merges : returnedRuns m s.stock.runs = some rs) : Makes s (applyUnload l m rs s) := by
  unfold Machine.applyUnload
  exact withStall l s ((move (.stock (.unloaded s out mag merges))).trans (give _ _))

/-! ### The Till Unit (R149, R154, R159) -/

theorem onDrawer (s : State) (w : Window) {f : Drawer → Drawer} :
    Makes s (s.onDrawer w f) := stays (Stays.onDrawer s w f)

theorem applyShiftOpen (w : Window) (clerk float : Nat) (home : Lane) (alt : Option Lane) (s : State) :
    Makes s (applyShiftOpen w clerk float home alt s) := by
  have opened := onDrawer s w (f := fun d => d.openShift clerk float home alt s.office.clock)
  exact opened.trans (give (.shiftOpen w clerk (nextShift s.till[w].shift) float) _)

theorem applyWithdraw (w : Window) (s : State) : Makes s (applyWithdraw w s) := by
  obtain ⟨f, desk, is⟩ := applyWithdraw_desk w s
  rw [is]
  exact stays (Stays.desk desk s)

/-! ### The Issue Controller (R60, R62, R72, R73) -/

theorem applyVoid {k : StockKind} {n : Nat} {e : IssueEntry} (w : Window) (found : entryOf s k n = some e) (sold : e.state = .issued) :
    Makes s (applyVoid w e s) := by
  have voided : Makes s ((setEntry e.kind e.serial .voided s).onCounters e.kind Counters.void) := move (.stock (.voided s found sold))
  have posted := onDrawer ((setEntry e.kind e.serial .voided s).onCounters e.kind Counters.void) w
    (f := fun d => (d.addVoid e.tender e.charged).countVoided)
  exact (voided.trans posted).trans (give (.voided e.kind e.serial w e.charged) _)

theorem applyRefund (w : Window) (e : IssueEntry) (reason amount : Nat) (s : State) : Makes s (applyRefund w e reason amount s) := by
  have refunded : Makes s (setEntry e.kind e.serial (.refunded w amount) s) := move (.stock (.refunded s e.kind e.serial w amount))
  have posted := onDrawer (setEntry e.kind e.serial (.refunded w amount) s) w (f := fun d => d.addRefund e.tender amount)
  exact (refunded.trans posted).trans (give (.refunded e.kind e.serial w e.tender amount reason) _)

theorem applyIssue (o : OrderHdr) (tag : Tag) (w : Window) (f : IssueFields) (fig : Figures) (items : List Text) {b : Buffer}
    (buffer : pickBuffer s l = some b) : Makes s (applyIssue o tag w l f fig items b s) := by
  have empty : s.images[b] = none := Option.isNone_iff_eq_none.1 (pickBuffer_free buffer)
  have reserved : Makes s (reserve s) := by
    refine move (.stock (.evicted s (?_ : List.Sublist _ _)))
    split
    · exact List.eraseP_sublist
    · exact List.Sublist.refl _
  unfold Machine.applyIssue
  refine joinLane ?_
  obtain ⟨d, is⟩ : ∃ d, reserve s = d := ⟨_, rfl⟩
  have images : d.images = s.images := by rw [← is]; rfl
  rw [is] at reserved ⊢
  rw [← images] at empty
  have joined := move (.joined d l (j := newJob o tag w d.till[w].shift l f fig b) (compose (imageData d w f fig items) d.issue.layouts[f.layout]) rfl empty)
  exact (reserved.trans joined).trans (onDrawer _ w (f := Drawer.liveUp))

end Makes

end Sys2Proof.Machine
end

section
/-! CASH-UP, FAULT CLEAR, and every accepted order, as chains of elementary changes. -/

namespace Sys2Proof.Machine

namespace Makes

variable {s t u : State} {l : Lane}

/-! ### CASH-UP (R154, R158) -/

theorem applyCashUp_eq (w : Window) (p : PendingCashUp) (s : State) : Machine.applyCashUp w p s =
    if (s.till[w].beginCashUp p).settled then
      (Machine.give (cashUpEntry w (s.till[w].beginCashUp p) s.office.settings.tolerance p.declared)
        (s.onDrawer w fun d => d.beginCashUp p)).onDrawer w Drawer.close
    else s.onDrawer w fun d => d.beginCashUp p := by
  have row : (s.onDrawer w fun d => d.beginCashUp p).till[w] = s.till[w].beginCashUp p := Table.upd_same _ _ _
  unfold Machine.applyCashUp
  dsimp only
  rw [row]
  rfl

theorem applyCashUp (w : Window) (p : PendingCashUp) (s : State) : Makes s (applyCashUp w p s) := by
  have begun := onDrawer s w (f := fun d => d.beginCashUp p)
  rw [applyCashUp_eq]
  exact ite (fun _ => (begun.trans (give _ _)).trans (onDrawer _ w (f := Drawer.close))) fun _ => begun

/-! ### FAULT CLEAR (R142 to R145) -/

theorem declareOne (l : Lane) (s : State) (n : Nat) (oc : DeclOutcome) : Makes s (declareOne l s n oc) := by
  unfold Machine.declareOne
  split
  · exact refl s
  next d found =>
    have declared : Makes s (declareEffect d oc (dropDoubt d s)) := move (.stock (.declared s oc (List.mem_of_find?_eq_some found)))
    exact (declared.trans (give _ _)).trans (stays (Stays.desk (Desk.testCashUp d.window) _))

theorem declareAll (l : Lane) (ds : List Declaration) (s : State) : Makes s (declareAll l ds s) := by
  unfold Machine.declareAll
  refine foldl (fun s d => ?_) ds s
  split
  · exact refl s
  · exact declareOne l s _ _

theorem applyRealign (l : Lane) (r : Option Nat)
    (range : ∀ n, r = some n → s.lanes[l].out = [] ∧ ∀ m, s.stock.mags[l] = some m → m.next ≤ n ∧ n ≤ m.last + 1) :
    Makes s (applyRealign l r s) := by
  unfold Machine.applyRealign
  split
  · exact refl s
  next n =>
    obtain ⟨out, within⟩ := range n rfl
    refine Makes.trans (t := realign l n s) ?_ (stays (Stays.onFeed _ l _))
    unfold realign
    split
    · exact refl s
    next m mag =>
      obtain ⟨low, high⟩ := within m mag
      refine ite (fun _ => ?_) fun _ => refl s
      have passed : Makes s ((s.onCounters m.kind fun c => c.addLost (n - m.next)).setMag l (some { m with next := n })) :=
        move (.stock (.passed s out mag low high))
      exact passed.trans (give _ _)

theorem applyResume (l : Lane) (s : State) (holding : s.lanes[l].state = .holding) : Makes s (applyResume l s) := of fun up form => by
  have cleared : Makes s (onRecord l (fun r => { r with active := none }) s) := stays (Stays.onRecord l _ s)
  obtain ⟨d, is, lanes⟩ : ∃ d, onRecord l (fun r => { r with active := none }) s = d ∧ d.lanes = s.lanes := ⟨_, rfl, rfl⟩
  unfold Machine.applyResume
  rw [is] at cleared ⊢
  obtain ⟨e, isE⟩ : ∃ e, (if noActive d then d.onAlerts fun a => { a with lane := false } else d) = e := ⟨_, rfl⟩
  have alerted : Makes d e := by
    rw [← isE]
    exact ite (fun _ => stays (Stays.onAlerts d _)) fun _ => refl d
  have lanesE : e.lanes = s.lanes := by
    rw [← isE, ← lanes]
    split <;> rfl
  dsimp only
  rw [isE]
  refine ((cleared.trans alerted).trans (give _ _)).trans (toStarting .cleared (.inr (.inr ?_)))
  rw [(Desk.give (.faultCleared l)).rest]
  show e.lanes[l].state = .holding
  rw [lanesE]
  exact holding

end Makes

/-- What a declaration leaves. -/
theorem declareOne_lanes (l : Lane) (s : State) (n : Nat) (oc : DeclOutcome) :
    (declareOne l s n oc).lanes = s.lanes ∧ (declareOne l s n oc).stock.mags = s.stock.mags := by
  unfold declareOne
  split
  · exact ⟨rfl, rfl⟩
  next d _ =>
    rw [(Desk.testCashUp d.window).rest, (Desk.give (.resolved d.kind d.serial oc)).rest]
    cases oc <;> exact ⟨rfl, rfl⟩

theorem declareAll_lanes (l : Lane) (ds : List Declaration) (s : State) :
    (declareAll l ds s).lanes = s.lanes ∧ (declareAll l ds s).stock.mags = s.stock.mags := by
  unfold declareAll
  induction ds generalizing s with
  | nil => exact ⟨rfl, rfl⟩
  | cons d ds ih =>
    rw [List.foldl_cons]
    refine ⟨(ih _).1.trans ?_, (ih _).2.trans ?_⟩
    · split
      · rfl
      · exact (declareOne_lanes l s _ _).1
    · split
      · rfl
      · exact (declareOne_lanes l s _ _).2

theorem applyRealign_state (l : Lane) (r : Option Nat) (s : State) : (applyRealign l r s).lanes[l].state = s.lanes[l].state := by
  unfold applyRealign
  split
  · rfl
  next n =>
    rw [State.onFeed, State.onLane_same]
    show (realign l n s).lanes[l].state = _
    unfold realign
    split
    · rfl
    next m _ =>
      split
      · rw [(Desk.give (.lost m.kind m.next (n - m.next) l)).rest]
        rfl
      · rfl

/-- The checks of FAULT CLEAR on a realign. -/
theorem clearRefusal_realign {l : Lane} {b : ClearBody} {s : State} (passes : clearRefusal l b s = none) {n : Nat} (is : b.realign = some n) :
    ¬ (s.lanes[l].state = .ready ∨ s.lanes[l].state = .printing) ∧ ∀ m, s.stock.mags[l] = some m → m.next ≤ n ∧ n ≤ m.last + 1 := by
  unfold clearRefusal at passes
  rw [is] at passes
  dsimp only at passes
  split_ifs at passes
  unfold realignRefusal at passes
  split_ifs at passes with _ idle _
  refine ⟨idle, fun m mag => ?_⟩
  rw [State.mag, mag] at passes
  dsimp only at passes
  split at passes
  next range => exact range
  · exact (nomatch passes)

namespace Makes

variable {s t u : State} {l : Lane}

theorem applyFaultClear {b : ClearBody} (passes : clearRefusal l b s = none) : Makes s (applyFaultClear l b s) := of fun up form => by
  unfold Machine.applyFaultClear
  refine withStall l s ?_
  have declared := declareAll l b.decls s
  obtain ⟨lanes, mags⟩ := declareAll_lanes l b.decls s
  obtain ⟨d, is⟩ : ∃ d, Machine.declareAll l b.decls s = d := ⟨_, rfl⟩
  rw [is] at declared lanes mags
  dsimp only
  rw [is]
  have realigned := applyRealign (s := d) l b.realign fun n same => by
    obtain ⟨idle, within⟩ := clearRefusal_realign passes same
    rw [lanes, mags]
    exact ⟨(form.lanes up l).credited.out_nil fun c => idle (.inr c), within⟩
  refine ite (fun go => (declared.trans realigned).trans (applyResume l _ ?_)) fun _ => declared.trans realigned
  have holding : s.lanes[l].state = .holding := by
    have state := (Bool.and_eq_true_iff.1 (Bool.and_eq_true_iff.1 go).1).2
    rw [decide_eq_true_eq, State.lane, lanes] at state
    exact state
  rw [applyRealign_state, lanes]
  exact holding

/-! ### STATUS READ (R49) -/

theorem writeSnapshot (dest : BitVec 64) (len : Nat) (s : State) : Makes s (writeSnapshot dest len s) := by
  unfold Machine.writeSnapshot
  refine ite (fun _ => refl s) fun _ => ?_
  have read : Makes s s.access.1 := stays (Stays.access s)
  exact ite (fun _ => read.trans (stays (Stays.onHost _ _))) fun _ => read.trans (stays (Stays.busFault _))

end Makes

/-- Every accepted order is a chain of elementary changes. -/
theorem Accepted.makes {i : SlotNo} {s : State} {change : State → State} {reply : Option (State → OrderOutcome × AnswerFields)}
    (h : Accepted i s change reply) : Makes s (change s) := by
  cases h with
  | officeOpen b rate => exact Makes.applyOfficeOpen b rate s
  | dayClose => exact Makes.applyDayClose s
  | discounts rs => exact Makes.stays (Stays.of_frame rfl rfl rfl rfl rfl)
  | fees ps => exact Makes.stays (Stays.of_frame rfl rfl rfl rfl rfl)
  | layout n fs =>
    refine Makes.stays (Stays.of_frame rfl rfl rfl rfl ?_)
    show (writeLayout n fs s.issue).table = s.issue.table
    unfold writeLayout
    split
    · rfl
    · split <;> rfl
  | receive k f c rs _ range apart _ merges => exact Makes.applyReceive (of_decide_eq_true range).1 apart merges
  | load l k f c r _ range lane empty _ holds _ => exact Makes.applyLoad (of_decide_eq_true range).1 lane empty holds
  | unload l m rs _ out _ loaded returns => exact Makes.applyUnload out loaded returns
  | start l _ still => exact Makes.toStarting .start (still.elim .inl fun parked => .inr (.inl parked))
  | setReason l _ parked => exact Makes.setParkReason parked
  | park l _ holds =>
    refine Makes.of fun up form => Makes.park _ _ fun printing => ((form.lanes up l).printing.1 printing) ?_
    unfold laneHolds at holds
    simp only [Bool.or_eq_false_iff, Bool.not_eq_false', List.isEmpty_iff] at holds
    exact holds.1.2
  | clear l b _ passes => exact Makes.applyFaultClear passes
  | shiftOpen w clerk float home alt => exact Makes.applyShiftOpen w clerk float home alt s
  | issue o tag w l f fig items b _ _ _ _ _ buffer => exact Makes.applyIssue o tag w f fig items buffer
  | void w k n e _ _ found issued => exact Makes.applyVoid w found issued
  | refund w k n reason amount e => exact Makes.applyRefund w e reason amount s
  | cashUp w p => exact Makes.applyCashUp w p s
  | withdraw w => exact Makes.applyWithdraw w s
  | status dest len => exact Makes.writeSnapshot dest len s

/-- The checks of an order look at nothing of the exchange and host memory. -/
theorem Accepted.outward {i : SlotNo} {s : State} {change : State → State} {reply : Option (State → OrderOutcome × AnswerFields)}
    (h : Accepted i s change reply) (x : ExchangeController) (m : HostMem) : Accepted i { s with exch := x, host := m } change reply := by
  cases h with
  | officeOpen b rate f closed => exact .officeOpen b rate f closed
  | dayClose f drawers jobs doubts => exact .dayClose f drawers jobs doubts
  | discounts rs f passes => exact .discounts rs f passes
  | fees ps f => exact .fees ps f
  | layout n fs f => exact .layout n fs f
  | receive k first count rs f range apart room merges => exact .receive k first count rs f range apart room merges
  | load l k first count r f range lane empty kinds holds room => exact .load l k first count r f range lane empty kinds holds room
  | unload l m rs f out sure loaded returns => exact .unload l m rs f out sure loaded returns
  | start l f still => exact .start l f still
  | setReason l f parked => exact .setReason l f parked
  | park l f holds => exact .park l f holds
  | clear l b f passes => exact .clear l b f passes
  | shiftOpen w clerk float home alt f free => exact .shiftOpen w clerk float home alt f free
  | issue o tag w l f fig items b slot opened lane stock room buffer =>
    exact .issue o tag w l f fig items b slot opened lane stock room buffer
  | void w k n e f opened found issued => exact .void w k n e f opened found issued
  | refund w k n reason amount e f opened found issued => exact .refund w k n reason amount e f opened found issued
  | cashUp w p slot opened => exact .cashUp w p slot opened
  | withdraw w f closing => exact .withdraw w f closing
  | status dest len => exact .status dest len

end Sys2Proof.Machine
end

section
/-! Sweeps, answers and takes: what the Exchange Controller does of itself, the credits and the stock do not look at; and what every
command does outside a start-up period. -/

namespace Sys2Proof.Machine

namespace Stays

variable {s : State}

/-! ### Answers (R46, R52) -/

theorem onSweep (s : State) (f : Sweep → Sweep) : Stays s (s.onSweep f) := onExch s _

theorem answer (i : SlotNo) (k : Byte) (tag : Tag) (oc : OrderOutcome) (f : AnswerFields) (s : State) : Stays s (answer i k tag oc f s) :=
  desk (Desk.answer i k tag oc f) s

theorem tryAnswer (i : SlotNo) (a : Answer) (s : State) : Stays s (tryAnswer i a s).1 := by
  simp only [Machine.tryAnswer]
  split
  · exact (access s).trans (of_frame rfl rfl rfl rfl rfl)
  · exact (access s).trans (busFault _)

theorem answerDirect (i : SlotNo) (h : Header) (c : Option OrderCopy) (oc : OrderOutcome) (s : State) : Stays s (answerDirect i h c oc s) :=
  Stays.trans (t := openContext i h c s) (onExch s _) (answer i _ _ _ _ _)

theorem answerPosted (i : SlotNo) (oc : OrderOutcome) (s : State) : Stays s (answerPosted i oc s) := by
  unfold Machine.answerPosted
  split
  · exact refl s
  · exact answerDirect i _ none oc s

theorem forSlots {f : SlotNo → State → State} (h : ∀ i s, Stays s (f i s)) (s : State) : Stays s (forSlots f s) :=
  foldl (f := fun s i => f i s) (fun s i => h i s) _ s

theorem answerStale (src : Source) (s : State) : Stays s (answerStale src s) :=
  forSlots (fun i s => ite (fun _ => answerPosted i _ s) fun _ => refl s) s

/-! ### The service of the sources (R40, R41) -/

theorem serve : ∀ (srcs : List Source) (s : State), Stays s (serve srcs s)
  | [], s => onExch s _
  | src :: srcs, s => by
    have stale := answerStale src s
    rw [Machine.serve]
    unfold offerNext
    refine ite (fun _ => stale) fun _ => ?_
    split
    · exact stale.trans (onSweep _ _)
    · exact stale.trans (serve srcs _)

theorem serveOn (s : State) : Stays s (serveOn s) := by
  unfold Machine.serveOn
  split
  · exact refl s
  · exact (onSweep s _).trans (serve _ _)

theorem servePast (s : State) : Stays s (servePast s) := by
  unfold Machine.servePast
  split
  · exact refl s
  · exact (onSweep s _).trans (serve _ _)

/-! ### The journal's drain (R167) -/

theorem writeEntry (e : Entry) (s : State) : Stays s (writeEntry e s).1 := by
  simp only [Machine.writeEntry]
  split
  · exact (access s).trans (of_frame rfl rfl rfl rfl rfl)
  · exact (access s).trans (busFault _)

theorem drainQueue : ∀ (es : List Entry) (s : State), Stays s (drainQueue es s)
  | [], s => onJournal s _
  | e :: es, s => by
    simp only [Machine.drainQueue]
    refine ite (fun _ => ite (fun _ => ?_) fun _ => ?_) fun _ => onJournal s _
    · exact (writeEntry e s).trans (drainQueue es _)
    · exact (writeEntry e s).trans (onJournal _ _)

theorem moveItem (x : OverflowItem) (s : State) : Stays s (moveItem x s) := by
  unfold Machine.moveItem
  split
  · exact onJournal s _
  · split
    · exact refl s
    · exact of_frame rfl rfl rfl rfl rfl

theorem refill : ∀ (xs : List OverflowItem) (s : State), Stays s (refill xs s)
  | [], s => onJournal s _
  | x :: xs, s => by
    unfold Machine.refill
    exact ite (fun _ => (moveItem x s).trans (refill xs _)) fun _ => onJournal s _

theorem settleGate (s : State) : Stays s (settleGate s) := by
  unfold Machine.settleGate
  split <;> exact of_frame rfl rfl rfl rfl rfl

theorem drain (s : State) : Stays s (drain s) := by
  simp only [Machine.drain]
  exact ite (fun _ => (((drainQueue _ s).trans (refill _ _)).trans (drainQueue _ _)).trans (settleGate _)) fun _ =>
    (drainQueue _ s).trans (settleGate _)

/-! ### The steps of a sweep (R40) -/

theorem sweepRead (release : Nat) (hs : Table 64 Header) (s : State) : Stays s (sweepRead release hs s) := by
  have handed := (access s).trans (onJournal _ fun j => j.handRelease release)
  simp only [Machine.sweepRead]
  refine ite (fun _ => (access s).trans (busFault _)) fun _ => ite (fun _ => handed.trans (drain _)) fun _ => ?_
  refine ite (fun _ => ?_) fun _ => ?_
  · exact ((handed.trans (drain _)).trans (access _)).trans (busFault _)
  · exact (((handed.trans (drain _)).trans (access _)).trans (onHost _ _)).trans (onExch _ _)

theorem writePending : ∀ (ps : List (SlotNo × Answer)) (s : State), Stays s (writePending ps s)
  | [], s => onExch s _
  | p :: ps, s => by
    simp only [Machine.writePending]
    exact ite (fun _ => (tryAnswer _ _ s).trans (writePending ps _)) fun _ => (tryAnswer _ _ s).trans (onExch _ _)

theorem answerAborted (i : SlotNo) (s : State) : Stays s (answerAborted i s) := by
  unfold Machine.answerAborted
  split
  · exact refl s
  · exact tryAnswer i _ s

theorem sweepAborted (s : State) : Stays s (sweepAborted s) := by
  have aborted := forSlots answerAborted s
  simp only [Machine.sweepAborted]
  exact ite (fun _ => ite (fun _ => aborted.trans (onExch _ _)) fun _ => aborted) fun _ => refl s

theorem answerBadSource (i : SlotNo) (s : State) : Stays s (answerBadSource i s) := by
  unfold Machine.answerBadSource
  split
  · exact refl s
  · exact ite (fun _ => answerDirect i _ none _ s) fun _ => refl s

theorem sweepStale (s : State) : Stays s (sweepStale s) :=
  (foldl (f := fun s src => Machine.answerStale src s) (fun s src => answerStale src s) _ s).trans (forSlots answerBadSource _)

theorem sweepServe (s : State) : Stays s (sweepServe s) := (onExch s _).trans (serve _ _)

theorem sweepStep (release : Nat) (hs : Table 64 Header) (s : State) : Stays s (sweepStep release hs s) := by
  unfold Machine.sweepStep
  split
  · exact refl s
  · dsimp only
    split
    · exact (onSweep s _).trans (sweepRead _ _ _)
    · exact (onSweep s _).trans (onExch _ _)
    · exact (onSweep s _).trans (writePending _ _)
    · exact (onSweep s _).trans (sweepAborted _)
    · exact (onSweep s _).trans (sweepStale _)
    · exact (onSweep s _).trans (sweepServe _)
    · exact (onSweep s _).trans (onSweep _ _)

theorem sweepSteps (release : Nat) (hs : Table 64 Header) : ∀ (n : Nat) (s : State), Stays s (sweepSteps n release hs s)
  | 0, s => refl s
  | n + 1, s => (sweepStep release hs s).trans (sweepSteps release hs n _)

/-! ### The start of the exchange, and the office's events (R36, R38, R94, R170, R173) -/

theorem startExchangeArea (n o r : Nat) (s : State) : Stays s (startExchangeArea n o r s) := by
  have first := access s
  have second := first.trans (access _)
  simp only [Machine.startExchangeArea]
  refine ite (fun _ => ite (fun _ => first.trans (busFault _)) fun _ => ite (fun _ => first.trans (busFault _)) fun _ => ?_) fun _ => refl s
  exact ite (fun _ => second.trans (busFault _)) fun _ => (second.trans (onJournal _ _)).trans (onExch _ _)

theorem sampleLane (l : Lane) (s : State) : Stays s (sampleLane l s) := onAct s l _

theorem forLanes {f : Lane → State → State} (h : ∀ l s, Stays s (f l s)) (s : State) : Stays s (forLanes f s) :=
  foldl (f := fun s l => f l s) (fun s l => h l s) _ s

/-- Office Control changes nothing of the start-up period and of the Flight List. -/
theorem onOffice (s : State) {f : OfficeControl → OfficeControl} (startUp : s.office.startUp = none → (f s.office).startUp = none)
    (flight : (f s.office).flight = s.office.flight) : Stays s (s.onOffice f) :=
  ⟨startUp, flight, fun _ => LaneStill.refl _, rfl, rfl, rfl⟩

end Stays

end Sys2Proof.Machine
end

section
/-! What every command does outside a start-up period: a chain of elementary changes, and possibly a reset after it. -/

namespace Sys2Proof.Machine

/-- A command outside a start-up period: a chain of elementary changes, which a reset may follow. -/
def Ends (s t : State) : Prop :=
  s.office.startUp = none → CreditsForm s → ∃ u, Chain s u ∧ (t = u ∨ ∃ k, t = doReset k u)

namespace Ends

variable {s t u : State}

theorem of_makes (h : Makes s t) : Ends s t := fun up form => ⟨t, h up form, .inl rfl⟩

theorem of_stays (h : Stays s t) : Ends s t := of_makes (Makes.stays h)

theorem reset (h : Makes s t) (k : ResetKind) : Ends s (doReset k t) := fun up form => ⟨t, h up form, .inr ⟨k, rfl⟩⟩

theorem after (h : Makes s t) (g : Ends t u) : Ends s u := fun up form =>
  let ⟨v, chain, ends⟩ := g ((h up form).credits up form).1 ((h up form).credits up form).2
  ⟨v, (h up form).trans chain, ends⟩

/-- The access errors to come are gone after a reset too. -/
theorem withBus (bus : Option Nat) {f : State → State} (s : State) (h : ∀ d, Ends d (f d)) : Ends s (withBus bus f s) := by
  refine after (t := s.setBus bus) (Makes.stays (Stays.onHost s fun x => { x with busIn := bus })) fun up form => ?_
  obtain ⟨u, chain, ends⟩ := h _ up form
  rcases ends with same | ⟨k, same⟩
  · refine ⟨u.setBus none, chain.trans (.step (.still (Stays.onHost u fun x => { x with busIn := none })) (.refl _)), .inl ?_⟩
    rw [Machine.withBus, same]
  · refine ⟨u, chain, .inr ⟨k, ?_⟩⟩
    rw [Machine.withBus, same]
    rfl

theorem cutBy (cut : Option ResetKind) (h : Makes s t) : Ends s (cutBy cut t) := by
  unfold Machine.cutBy
  split
  · exact of_makes h
  · exact reset h _

/-! ### Takes (R43) -/

theorem finishTake (i : SlotNo) (h : Header) (reply : Option (State → OrderOutcome × AnswerFields)) (s : State) :
    Makes s (finishTake i h reply s) := by
  refine Makes.stays ?_
  unfold Machine.finishTake
  split
  · exact Stays.serveOn s
  · exact (Stays.answer _ _ _ _ _ s).trans (Stays.serveOn _)

/-- The state in which an accepted order makes its changes. -/
theorem advanceTag_markTaken (i : SlotNo) (h : Header) (c : OrderCopy) (src : Source) (s : State) :
    advanceTag src (markTaken i h c s) =
      { s with exch := (advanceTag src (markTaken i h c s)).exch, host := (markTaken i h c s).host } := rfl

theorem access_host (s : State) : s.access.1 = { s with host := s.access.1.host } := by
  unfold State.access
  split <;> rfl

theorem markTaken (i : SlotNo) (h : Header) (c : OrderCopy) (s : State) : Stays s (markTaken i h c s) := by
  unfold Machine.markTaken openContext
  exact ((Stays.onHost s _).trans (Stays.onSweep _ _)).trans (Stays.onExch _ _)

theorem acceptOrder {i : SlotNo} {change : State → State} {reply : Option (State → OrderOutcome × AnswerFields)} (h : Header) (c : OrderCopy)
    (src : Source) (cut : Option Cut) (accepted : Accepted i s change reply) : Ends s (acceptOrder i h c src cut change reply s) := by
  have read := Stays.access s
  have taken := read.trans (markTaken i h c _)
  have advanced : Stays s (advanceTag src (Machine.markTaken i h c s.access.1)) := taken.trans (Stays.onExch _ _)
  have changed : Makes s (change (advanceTag src (Machine.markTaken i h c s.access.1))) := by
    rw [advanceTag_markTaken, access_host] at advanced ⊢
    exact (Makes.stays advanced).trans (accepted.outward _ _).makes
  simp only [Machine.acceptOrder]
  split
  · exact of_stays (read.trans (Stays.busFault _))
  · split
    · exact of_makes (changed.trans (finishTake i h reply _))
    · split
      · exact reset changed _
      · exact reset (Makes.stays taken) _

theorem settleVerdict {i : SlotNo} {v : Verdict} (h : Header) (c : OrderCopy) (src : Source) (cut : Option Cut) (decided : Decided i s v) :
    Ends s (settleVerdict i h c src cut v s) := by
  unfold Machine.settleVerdict
  split
  · exact of_stays (Stays.servePast s)
  · exact of_stays (((Stays.onExch s _).trans (Stays.answerDirect _ _ _ _ _)).trans (Stays.serveOn _))
  · exact acceptOrder h c src cut decided

theorem takeOrder {r : OrderRule} {o : OrderHdr} {b : OrderBody} {e : Env} {owner : Source → Tag → Option (List Byte) → State → Verdict}
    (decided : ∀ src tag att s, Decided o.slot s (owner src tag att s)) (s : State) : Ends s (takeOrder r o b e owner s) := by
  unfold Machine.takeOrder
  split
  · exact of_stays (Stays.refl s)
  · refine after (Makes.setLines e.lines s) (withBus e.bus _ fun d => ?_)
    exact settleVerdict _ _ _ _ (verdictOf_decided fun att => decided _ _ att d)

theorem takeUnknown (o : OrderHdr) (code : Byte) (e : Env) (s : State) : Ends s (takeUnknown o code e s) := by
  by_cases known : 1 ≤ code.toNat ∧ code.toNat ≤ 18
  · rw [Machine.takeUnknown, if_pos known]
    exact of_stays (Stays.refl s)
  · rw [takeUnknown_eq known]
    refine takeOrder (fun _ _ _ _ => ?_) s
    exact (by decide : 32 ≤ OrderOutcome.badForm.code.toNat)

/-- Every order command. -/
theorem order {c : Instr} {o : OrderHdr} {code : Byte} {e : Env} (parts : orderParts c = some (o, code, e)) (runs : exec c s = .next t) :
    Ends s t := by
  rcases takenBy_of_parts parts with rfl | ⟨same, -, r, b, taken⟩
  · cases runs
    exact takeUnknown o code e s
  · have is := taken.runs e s
    rw [same, runs] at is
    obtain rfl : t = Machine.takeOrder r o b e (ownerOf c) s := Host.Outcome.next.inj is
    exact takeOrder (fun src tag att d => Decided.owner parts src tag att d) s

/-! ### The other commands -/

theorem writeRegister (off : Nat) (v : BitVec 64) (s : State) : Ends s (writeRegister off v s) := by
  have exch : ∀ f, Ends s (s.onExch f) := fun f => of_stays (Stays.onExch s f)
  unfold Machine.writeRegister
  split
  · exact exch _
  · split
    · unfold writeRunControl
      split
      · exact reset (Makes.refl s) .soft
      · exact exch _
    · split
      · exact exch _
      · split
        · exact exch _
        · split
          · exact of_stays (Stays.onAlerts s _)
          · exact of_stays (Stays.refl s)

theorem pulse (l : Lane) (e : LineEvent) (s : State) :
    Makes s (Machine.withBus e.bus (fun s => Machine.stepPulse l (Machine.setPins l e.pins s)) s) :=
  Makes.withBus e.bus s fun d => (Makes.setPins l e.pins d).trans (Makes.stepPulse l _)

/-- Every command outside a start-up period. -/
theorem exec (c : Instr) (s t : State) (runs : exec c s = .next t) : Ends s t := by
  have done : ∀ {u : State}, Host.Outcome.next u = (Host.Outcome.next t : Host.Outcome State Fault Refusal) → Ends s u → Ends s t :=
    fun same ends => by cases same; exact ends
  have bus : ∀ (b : Option Nat) (f : State → State), (∀ d, Makes d (f d)) → Ends s (Machine.withBus b f s) := fun b f h =>
    of_makes (Makes.withBus b s h)
  have exch : ∀ f, Ends s (s.onExch f) := fun f => of_stays (Stays.onExch s f)
  exact match c with
  | .officeOpen .. | .dayClose .. | .setDiscounts .. | .setRefundFees .. | .setLayout .. | .stockReceive .. | .magazineLoad ..
  | .magazineUnload .. | .laneStart .. | .lanePark .. | .faultClear .. | .shiftOpen .. | .issue .. | .void .. | .refund .. | .cashUp ..
  | .cashUpWithdraw .. | .statusRead .. | .unknownOrderKind .. => order rfl runs
  | .sweepTimerExpiry => done runs (exch _)
  | .sweepRequest _ => done runs (exch _)
  | .sweep n r hs e => done runs (cutBy e.cut (Makes.withBus e.bus s fun d => Makes.stays (Stays.sweepSteps r.toNat hs n d)))
  | .areaBaseWrite _ => done runs (exch _)
  | .exchangeEnableSet => done runs (exch _)
  | .exchangeEnableClear => done runs (exch _)
  | .softReset => done runs (reset (Makes.refl s) .soft)
  | .noticeEnableWrite _ _ _ => done runs (exch _)
  | .alertClear _ => done runs (of_stays (Stays.onAlerts s _))
  | .registerWrite off v => done runs (writeRegister off v s)
  | .exchangeStart n o r b => done runs (bus b _ fun d => Makes.stays (Stays.startExchangeArea n.toNat o.toNat r.toNat d))
  | .powerOn => done runs (reset (Makes.refl s) .powerOn)
  | .resetLine => done runs (reset (Makes.refl s) .resetLine)
  | .linkReset => done runs (reset (Makes.refl s) .linkReset)
  | .backupGoodChange good => done runs (of_stays (Stays.onOffice s (f := fun o => o.backup good)
      (fun up => by rw [OfficeControl.backup, up]; rfl) rfl))
  | .startUpEnd => fun up form => done runs (of_stays (by rw [endStartUp, up]; exact Stays.refl s)) up form
  | .officeClockTick => fun up form => done runs (of_stays (Stays.onOffice s (f := OfficeControl.tick)
      (fun up => by rw [OfficeControl.tick, up]; rfl) (by rw [OfficeControl.tick, up]; rfl))) up form
  | .queueOccupancySample => done runs (of_stays (Stays.forLanes Stays.sampleLane s))
  | .pollTimerExpiry l p => done runs (of_makes (Makes.pollTimer l p s))
  | .lbyRelease l low => done runs (of_makes (Makes.busyReleased l low s))
  | .stretchLimit l b => done runs (bus b _ fun d => Makes.abandonAt l _ _ d)
  | .clearPulseLimit l b => done runs (bus b _ fun d => Makes.abandonAt l _ _ d)
  | .frameSent l => done runs (of_makes (Makes.frameEnds l s))
  | .responseTimeout l p b => done runs (bus b _ fun d => Makes.failsAt l _ p d)
  | .reportBad l p b => done runs (bus b _ fun d => Makes.failsAt l _ p d)
  | .malformedReport l p b => done runs (bus b _ fun d => Makes.malformedEnds l p d)
  | .capacity l _ _ _ _ p b => done runs (of_makes (Makes.reportEnds l _ p b s))
  | .nothing l p b => done runs (of_makes (Makes.reportEnds l _ p b s))
  | .accepted l _ _ p b => done runs (of_makes (Makes.reportEnds l _ p b s))
  | .printed l _ _ p b => done runs (of_makes (Makes.reportEnds l _ p b s))
  | .ejected l _ _ p b => done runs (of_makes (Makes.reportEnds l _ p b s))
  | .spoiled l _ _ _ p b => done runs (of_makes (Makes.reportEnds l _ p b s))
  | .flushed l _ _ p b => done runs (of_makes (Makes.reportEnds l _ p b s))
  | .jammed l _ p b => done runs (of_makes (Makes.reportEnds l _ p b s))
  | .outOfStock l _ p b => done runs (of_makes (Makes.reportEnds l _ p b s))
  | .step l e => done runs (of_makes (pulse l e s))
  | .missedMarkLimit l e => done runs (of_makes (Makes.ite (fun _ => pulse l e s) fun _ => Makes.refl s))
  | .mark l e => done runs (bus e.bus _ fun d => (Makes.setPins l e.pins d).trans (Makes.markEdge l _))
  | .patienceExpiry x => done runs (of_makes ((Makes.setLines x.lines s).trans (Makes.patienceEnds x.lane _)))
  | .reportStart l => done runs (of_makes (Makes.reportBegins l s))
  | .ldiIdleAfterPulse l n b => done runs (bus b _ fun d => Makes.idleAfter l n d)

end Ends

end Sys2Proof.Machine
end

section
/-! What every command does during a start-up period: nothing but the levels of the lines, the registers and the clock are touched
(R38, R95, R118, R173). -/

namespace Sys2Proof.Machine

/-- The part in a start-up period: no sweep, no exchange, no lane at work. -/
structure Asleep (s : State) : Prop where
  down  : s.office.startUp ≠ none
  sweep : s.exch.sweep = none
  state : s.exch.state ≠ .running
  lanes : ∀ l : Lane, s.lanes[l] = s.lanes[l].afterReset

theorem DownForm.asleep {s : State} (h : DownForm s) (down : s.office.startUp ≠ none) : Asleep s :=
  let ⟨sweep, state, lanes⟩ := h down
  ⟨down, sweep, state, lanes⟩

/-- The part sleeps on: the stock, the Flight List, the tickets and the images stand. -/
structure Sleeps (s t : State) : Prop where
  asleep : Asleep t
  flight : t.office.flight = s.office.flight
  images : t.images = s.images
  stock  : t.stock = s.stock
  table  : t.issue.table = s.issue.table

/-- A command during a start-up period. -/
def Rests (s t : State) : Prop := Asleep s → Sleeps s t

namespace Rests

variable {s t u : State}

theorem refl (s : State) : Rests s s := fun asleep => ⟨asleep, rfl, rfl, rfl, rfl⟩

theorem trans (h : Rests s t) (g : Rests t u) : Rests s u := fun asleep =>
  let first := h asleep
  let second := g first.asleep
  ⟨second.asleep, second.flight.trans first.flight, second.images.trans first.images, second.stock.trans first.stock,
    second.table.trans first.table⟩

/-- What is done holds of a part at work alone. -/
theorem of (h : Asleep s → Rests s t) : Rests s t := fun asleep => h asleep asleep

theorem same (h : Asleep s → t = s) : Rests s t := of fun asleep => by rw [h asleep]; exact refl s

theorem ite {p : Prop} [Decidable p] (h : p → Rests s t) (g : ¬ p → Rests s u) : Rests s (if p then t else u) := by
  split
  · exact h ‹_›
  · exact g ‹_›

theorem onHost (s : State) (f : HostMem → HostMem) : Rests s (s.onHost f) := fun ⟨down, sweep, state, lanes⟩ =>
  ⟨⟨down, sweep, state, lanes⟩, rfl, rfl, rfl, rfl⟩

theorem withBus (bus : Option Nat) {f : State → State} (s : State) (h : ∀ d, Rests d (f d)) : Rests s (withBus bus f s) :=
  ((onHost s fun x => { x with busIn := bus }).trans (h (s.setBus bus))).trans (onHost (f (s.setBus bus)) fun x => { x with busIn := none })

theorem onExch (s : State) {f : ExchangeController → ExchangeController}
    (h : ∀ x : ExchangeController, x.sweep = none → x.state ≠ .running → (f x).sweep = none ∧ (f x).state ≠ .running) : Rests s (s.onExch f) :=
  fun ⟨down, sweep, state, lanes⟩ => ⟨⟨down, (h s.exch sweep state).1, (h s.exch sweep state).2, lanes⟩, rfl, rfl, rfl, rfl⟩

/-- Office Control's own events leave the period and the Flight List. -/
theorem onOffice (s : State) {f : OfficeControl → OfficeControl} (startUp : s.office.startUp ≠ none → (f s.office).startUp ≠ none)
    (flight : (f s.office).flight = s.office.flight) : Rests s (s.onOffice f) := fun ⟨down, sweep, state, lanes⟩ =>
  ⟨⟨startUp down, sweep, state, lanes⟩, flight, rfl, rfl, rfl⟩

/-! ### The lanes (R95) -/

theorem onLane (s : State) (l : Lane) {f : LaneRec → LaneRec}
    (h : ∀ r : LaneRec, f r.afterReset = (f r.afterReset).afterReset) : Rests s (s.onLane l f) :=
  fun ⟨down, sweep, state, lanes⟩ => ⟨⟨down, sweep, state, fun m => by
    by_cases here : m = l
    · rw [here, State.onLane_same, lanes l]
      exact h _
    · rw [State.onLane_ne _ _ here]
      exact lanes m⟩, rfl, rfl, rfl, rfl⟩

theorem setPins (l : Lane) (p : Pins) (s : State) : Rests s (setPins l p s) := onLane s l fun _ => rfl

theorem setLines : ∀ (ls : Lines) (s : State), Rests s (setLines ls s)
  | [], s => refl s
  | p :: ls, s => (setPins p.1 p.2 s).trans (setLines ls _)

/-- Empty queues add nothing to the occupancy (R94). -/
theorem sampleLane (l : Lane) (s : State) : Rests s (sampleLane l s) := of fun asleep => by
  have queue : (s.lane l).queue = [] := congrArg LaneRec.queue (asleep.lanes l)
  unfold Machine.sampleLane
  rw [queue]
  refine onLane s l fun r => ?_
  obtain ⟨st, _, _, _, _, _, _, _, _, _, _, _⟩ := r
  cases st <;> rfl

theorem forLanes {f : Lane → State → State} (h : ∀ l s, Rests s (f l s)) (s : State) : Rests s (forLanes f s) := by
  have fold : ∀ (ls : List Lane) (s : State), Rests s (ls.foldl (fun s l => f l s) s) := fun ls => by
    induction ls with
    | nil => exact refl
    | cons l ls ih => exact fun s => (h l s).trans (ih _)
  exact fold _ s

theorem exchangeAt_none (asleep : Asleep s) (l : Lane) (x : XStep) : exchangeAt s l x = none := by
  unfold exchangeAt State.lane
  rw [asleep.lanes l]
  rfl

theorem feedOn_false (asleep : Asleep s) (l : Lane) : feedOn s l = false := by
  have down : s.up = false := by
    unfold State.up
    exact Option.isNone_eq_false_iff.2 (Option.isSome_iff_ne_none.2 asleep.down)
  unfold feedOn
  rw [down]
  rfl

/-! ### The commands -/

theorem takeOrder (r : OrderRule) (o : OrderHdr) (b : OrderBody) (e : Env) (owner : Source → Tag → Option (List Byte) → State → Verdict)
    (s : State) : Rests s (takeOrder r o b e owner s) := same fun asleep => by
  unfold Machine.takeOrder offeredHeader
  rw [asleep.sweep]

theorem takeUnknown (o : OrderHdr) (code : Byte) (e : Env) (s : State) : Rests s (takeUnknown o code e s) := by
  by_cases known : 1 ≤ code.toNat ∧ code.toNat ≤ 18
  · rw [Machine.takeUnknown, if_pos known]
    exact refl s
  · rw [takeUnknown_eq known]
    exact takeOrder _ _ _ _ _ s

theorem order {c : Instr} {o : OrderHdr} {code : Byte} {e : Env} (parts : orderParts c = some (o, code, e)) (runs : exec c s = .next t) :
    Rests s t := by
  rcases takenBy_of_parts parts with rfl | ⟨same, -, r, b, taken⟩
  · cases runs
    exact takeUnknown o code e s
  · have is := taken.runs e s
    rw [same, runs] at is
    obtain rfl : t = Machine.takeOrder r o b e (ownerOf c) s := Host.Outcome.next.inj is
    exact takeOrder _ _ _ _ _ s

theorem sweepSteps (n release : Nat) (hs : Table 64 Header) (s : State) : Rests s (sweepSteps n release hs s) :=
  same fun asleep => sweepSteps_idle (fun _ is => (nomatch asleep.sweep.symm.trans is)) release hs n

theorem startExchangeArea (n o r : Nat) (s : State) : Rests s (startExchangeArea n o r s) := same fun asleep => by
  have down : ¬ (s.exch.state = .starting ∧ s.up = true) := fun c =>
    asleep.down (Option.isNone_iff_eq_none.1 c.2)
  simp only [Machine.startExchangeArea]
  rw [if_neg down]

theorem timerSweep (s : State) : Rests s (s.onExch timerSweep) := onExch s fun _ sweep state => by
  unfold Machine.timerSweep
  rw [if_neg fun c => state c.1]
  exact ⟨sweep, state⟩

theorem requestSweep (s : State) : Rests s (s.onExch requestSweep) := onExch s fun _ sweep state => by
  unfold Machine.requestSweep
  rw [if_neg state]
  exact ⟨sweep, state⟩

theorem writeBase (v : BitVec 64) (s : State) : Rests s (s.onExch fun x => x.writeBase v) := onExch s fun _ sweep state => by
  unfold ExchangeController.writeBase
  split
  · exact ⟨sweep, state⟩
  · exact ⟨sweep, state⟩

/-- The enable bit moves the exchange to STARTING or STOPPED alone (R38). -/
theorem writeEnable_rests (on : Bool) {x : ExchangeController} (sweep : x.sweep = none) (state : x.state ≠ .running) :
    (x.writeEnable on).sweep = none ∧ (x.writeEnable on).state ≠ .running := by
  unfold ExchangeController.writeEnable
  split
  · exact ⟨sweep, state⟩
  · split
    · refine ⟨sweep, ?_⟩
      unfold ExchangeController.setEnable
      dsimp only
      split
      · exact fun c => (nomatch c)
      · exact state
    · unfold ExchangeController.clearEnable
      rw [if_neg (by rw [sweep]; exact Bool.false_ne_true)]
      exact ⟨sweep, fun c => (nomatch c)⟩

theorem writeNotices (a j n : Bool) (s : State) : Rests s (s.onExch fun x => x.writeNotices a j n) :=
  onExch s fun _ sweep state => ⟨sweep, state⟩

theorem onAlerts (s : State) (f : Alerts → Alerts) : Rests s (s.onAlerts f) := onExch s fun _ sweep state => ⟨sweep, state⟩

theorem pollTimer (l : Lane) (p : Pins) (s : State) : Rests s (pollTimer l p s) := same fun asleep => by
  have none' : (s.lane l).link.poll = none := congrArg (fun r => r.link.poll) (asleep.lanes l)
  unfold Machine.pollTimer
  rw [none']
  rfl

theorem busyReleased (l : Lane) (low : Bool) (s : State) : Rests s (busyReleased l low s) := of fun asleep => by
  have pins := setPins l ⟨false, low⟩ s
  simp only [Machine.busyReleased]
  rw [exchangeAt_none (pins asleep).asleep]
  exact pins

theorem abandonAt (l : Lane) (x : XStep) (k : FaultKind) (s : State) : Rests s (abandonAt l x k s) := same fun asleep => by
  unfold Machine.abandonAt
  rw [exchangeAt_none asleep]

theorem idleAfter (l : Lane) (n : Nat) (s : State) : Rests s (idleAfter l n s) := same fun asleep => by
  unfold Machine.idleAfter
  rw [exchangeAt_none asleep]

theorem frameEnds (l : Lane) (s : State) : Rests s (frameEnds l s) := same fun asleep => by
  unfold Machine.frameEnds
  rw [exchangeAt_none asleep]

theorem reportBegins (l : Lane) (s : State) : Rests s (reportBegins l s) := same fun asleep => by
  unfold Machine.reportBegins
  rw [exchangeAt_none asleep]

theorem failsAt (l : Lane) (x : XStep) (p : Pins) (s : State) : Rests s (failsAt l x p s) := same fun asleep => by
  unfold Machine.failsAt
  rw [exchangeAt_none asleep]

theorem malformedEnds (l : Lane) (p : Pins) (s : State) : Rests s (malformedEnds l p s) := same fun asleep => by
  unfold Machine.malformedEnds
  rw [exchangeAt_none asleep]

theorem reportEnds (l : Lane) (r : Report) (p : Pins) (bus : Option Nat) (s : State) : Rests s (reportEnds l r p bus s) := same fun asleep => by
  unfold Machine.reportEnds
  rw [exchangeAt_none asleep]

theorem stepPulse (l : Lane) (s : State) : Rests s (stepPulse l s) := same fun asleep => by
  unfold Machine.stepPulse
  rw [feedOn_false asleep]
  rfl

theorem markEdge (l : Lane) (s : State) : Rests s (markEdge l s) := same fun asleep => by
  unfold Machine.markEdge
  rw [feedOn_false asleep]
  rfl

theorem patienceEnds (l : Lane) (s : State) : Rests s (patienceEnds l s) := same fun asleep => by
  have none' : (s.lane l).patience = none := congrArg LaneRec.patience (asleep.lanes l)
  unfold Machine.patienceEnds
  rw [none']
  rfl

/-- A command during a start-up period: nothing is done, and a reset may follow; or the period ends (R173). -/
def Drowses (s t : State) : Prop := ∃ u, Rests s u ∧ (t = u ∨ (∃ k, t = doReset k u) ∨ t = endStartUp u)

theorem drowses (h : Rests s t) : Drowses s t := ⟨t, h, .inl rfl⟩

theorem reset (h : Rests s t) (k : ResetKind) : Drowses s (doReset k t) := ⟨t, h, .inr (.inl ⟨k, rfl⟩)⟩

theorem writeRegister (off : Nat) (v : BitVec 64) (s : State) : Drowses s (writeRegister off v s) := by
  unfold Machine.writeRegister
  split
  · exact drowses (writeBase v s)
  · split
    · unfold writeRunControl
      split
      · exact reset (refl s) .soft
      · exact drowses (onExch s fun _ sweep state => writeEnable_rests _ sweep state)
    · split
      · exact drowses (onExch s fun _ sweep state => ⟨sweep, state⟩)
      · split
        · exact drowses (requestSweep s)
        · split
          · exact drowses (onAlerts s _)
          · exact drowses (refl s)

theorem pulse (l : Lane) (e : LineEvent) (s : State) :
    Rests s (Machine.withBus e.bus (fun s => Machine.stepPulse l (Machine.setPins l e.pins s)) s) :=
  withBus e.bus s fun d => (setPins l e.pins d).trans (stepPulse l _)

/-- Every command during a start-up period. -/
theorem exec (c : Instr) (s t : State) (runs : exec c s = .next t) : Drowses s t := by
  have done : ∀ {u : State}, Host.Outcome.next u = (Host.Outcome.next t : Host.Outcome State Fault Refusal) → Rests s u → Drowses s t :=
    fun same h => by cases same; exact drowses h
  have drowse : ∀ {u : State}, Host.Outcome.next u = (Host.Outcome.next t : Host.Outcome State Fault Refusal) → Drowses s u → Drowses s t :=
    fun same h => by cases same; exact h
  have bus : ∀ (b : Option Nat) (f : State → State), (∀ d, Rests d (f d)) → Rests s (Machine.withBus b f s) := fun b f h => withBus b s h
  exact match c with
  | .officeOpen .. | .dayClose .. | .setDiscounts .. | .setRefundFees .. | .setLayout .. | .stockReceive .. | .magazineLoad ..
  | .magazineUnload .. | .laneStart .. | .lanePark .. | .faultClear .. | .shiftOpen .. | .issue .. | .void .. | .refund .. | .cashUp ..
  | .cashUpWithdraw .. | .statusRead .. | .unknownOrderKind .. => drowses (order rfl runs)
  | .sweepTimerExpiry => done runs (timerSweep s)
  | .sweepRequest _ => done runs (requestSweep s)
  | .sweep n r hs e => drowse runs (by
      have steps := withBus e.bus s fun d => sweepSteps n r.toNat hs d
      unfold cutBy
      split
      · exact drowses steps
      · exact reset steps _)
  | .areaBaseWrite v => done runs (writeBase v s)
  | .exchangeEnableSet => done runs (onExch s fun _ sweep state => writeEnable_rests true sweep state)
  | .exchangeEnableClear => done runs (onExch s fun _ sweep state => writeEnable_rests false sweep state)
  | .softReset => drowse runs (reset (refl s) .soft)
  | .noticeEnableWrite a j n => done runs (writeNotices a j n s)
  | .alertClear _ => done runs (onAlerts s _)
  | .registerWrite off v => drowse runs (writeRegister off v s)
  | .exchangeStart n o r b => done runs (bus b _ fun d => startExchangeArea n.toNat o.toNat r.toNat d)
  | .powerOn => drowse runs (reset (refl s) .powerOn)
  | .resetLine => drowse runs (reset (refl s) .resetLine)
  | .linkReset => drowse runs (reset (refl s) .linkReset)
  | .backupGoodChange good => done runs (onOffice s (f := fun o => o.backup good)
      (fun down none' => down (Option.map_eq_none_iff.1 none')) rfl)
  | .startUpEnd => drowse runs ⟨s, refl s, .inr (.inr rfl)⟩
  | .officeClockTick => done runs (onOffice s (f := OfficeControl.tick)
      (fun down => by unfold OfficeControl.tick; split <;> exact down) (by unfold OfficeControl.tick; split <;> rfl))
  | .queueOccupancySample => done runs (forLanes sampleLane s)
  | .pollTimerExpiry l p => done runs (pollTimer l p s)
  | .lbyRelease l low => done runs (busyReleased l low s)
  | .stretchLimit l b => done runs (bus b _ fun d => abandonAt l _ _ d)
  | .clearPulseLimit l b => done runs (bus b _ fun d => abandonAt l _ _ d)
  | .frameSent l => done runs (frameEnds l s)
  | .responseTimeout l p b => done runs (bus b _ fun d => failsAt l _ p d)
  | .reportBad l p b => done runs (bus b _ fun d => failsAt l _ p d)
  | .malformedReport l p b => done runs (bus b _ fun d => malformedEnds l p d)
  | .capacity l _ _ _ _ p b => done runs (reportEnds l _ p b s)
  | .nothing l p b => done runs (reportEnds l _ p b s)
  | .accepted l _ _ p b => done runs (reportEnds l _ p b s)
  | .printed l _ _ p b => done runs (reportEnds l _ p b s)
  | .ejected l _ _ p b => done runs (reportEnds l _ p b s)
  | .spoiled l _ _ _ p b => done runs (reportEnds l _ p b s)
  | .flushed l _ _ p b => done runs (reportEnds l _ p b s)
  | .jammed l _ p b => done runs (reportEnds l _ p b s)
  | .outOfStock l _ p b => done runs (reportEnds l _ p b s)
  | .step l e => done runs (pulse l e s)
  | .missedMarkLimit l e => done runs (ite (fun _ => pulse l e s) fun _ => refl s)
  | .mark l e => done runs (bus e.bus _ fun d => (setPins l e.pins d).trans (markEdge l _))
  | .patienceExpiry x => done runs ((setLines x.lines s).trans (patienceEnds x.lane _))
  | .reportStart l => done runs (reportBegins l s)
  | .ldiIdleAfterPulse l n b => done runs (bus b _ fun d => idleAfter l n d)

end Rests

end Sys2Proof.Machine
end

section
/-! Resets, the end of a start-up period, and the credits' form through every step (O19). -/

namespace Sys2Proof.Machine

/-! ### The lanes of a part that is asleep, and of one that has woken -/

theorem Asleep.out {s : State} (h : Asleep s) (l : Lane) : s.lanes[l].out = [] := congrArg LaneRec.out (h.lanes l)

theorem Asleep.jobs {s : State} (h : Asleep s) : allJobs s = [] :=
  allJobs_eq_nil fun l => ⟨congrArg LaneRec.queue (h.lanes l), h.out l⟩

theorem Asleep.credits {s : State} (h : Asleep s) : CreditsForm s where
  lanes := fun up => absurd up h.down
  down := fun _ => ⟨h.sweep, h.state, h.lanes⟩
  buffers := by rw [h.jobs]; exact List.nodup_nil
  images := fun j mem => by rw [h.jobs] at mem; exact absurd mem List.not_mem_nil

/-- Every reset puts the part asleep (R173). -/
theorem doReset_asleep (k : ResetKind) (s : State) : Asleep (doReset k s) where
  down := Option.some_ne_none _
  sweep := rfl
  state := fun c => (nomatch c)
  lanes := fun l => by rw [doReset_lane]; rfl

/-- A lane with nothing in it, OFF or PARKED. -/
def Empty (r : LaneRec) : Prop := r = r.afterReset ∧ (r.state = .off ∨ ∃ w, r.state = .parked w)

theorem Empty.credits {r : LaneRec} (h : Empty r) : CreditForm r := by
  obtain ⟨same, state⟩ := h
  rw [same]
  refine ⟨fun _ => rfl, fun c => ?_, ⟨fun c => ?_, fun c => absurd rfl c⟩, fun _ => rfl, fun K c => (nomatch c), fun j mem => (nomatch mem), fun c => ?_⟩
  · rcases state with is | ⟨w, is⟩ <;> rcases c with c | c <;> exact (nomatch is.symm.trans c)
  · rcases state with is | ⟨w, is⟩ <;> exact (nomatch is.symm.trans c)
  · rcases c with c | c <;> exact (nomatch c)

/-- What the end of a start-up period leaves: lanes with nothing in them; and the blanks in flight in doubt, or no stock at all. -/
structure Woken (s t : State) : Prop where
  up     : t.office.startUp = none
  lanes  : ∀ l : Lane, Empty t.lanes[l]
  flight : t.office.flight = []
  stock  : t.stock = { s.stock with doubts := s.stock.doubts ++ s.office.flight.map FlightEntry.doubt } ∧ t.issue.table = s.issue.table ∨
    t.stock = StockRegister.empty ∧ t.issue.table = []

theorem empty_afterRestart {r : LaneRec} (asleep : r = r.afterReset) : Empty r.afterRestart := by
  by_cases parked : ∃ p, r.state = .parked p
  · obtain ⟨p, is⟩ := parked
    rw [afterRestart_parked is]
    exact ⟨asleep, .inr ⟨p, is⟩⟩
  · rw [afterRestart_off fun p is => parked ⟨p, is⟩]
    refine ⟨?_, .inl rfl⟩
    rw [asleep]
    rfl

theorem endStartUp_woken {s : State} (asleep : Asleep s) : Woken s (endStartUp s) := by
  have kept : Woken s (restartKept s) := by
    rw [restartKept_eq, (Desk.giveAll _).rest]
    refine ⟨rfl, fun l => ?_, rfl, .inl ⟨rfl, rfl⟩⟩
    show Empty (s.lanes.map LaneRec.afterRestart)[l]
    have row : (s.lanes.map LaneRec.afterRestart)[l] = s.lanes[l].afterRestart := Vector.getElem_map ..
    rw [row]
    exact empty_afterRestart (asleep.lanes l)
  have lost : Woken s (restartLost s) := by
    rw [restartLost_eq]
    refine ⟨rfl, fun l => ?_, rfl, .inr ⟨rfl, rfl⟩⟩
    show Empty (s.lanes.map fun r => { r with state := .off })[l]
    have row : (s.lanes.map fun r => { r with state := .off })[l] = { s.lanes[l] with state := .off } := Vector.getElem_map ..
    rw [row]
    refine ⟨?_, .inl rfl⟩
    rw [asleep.lanes l]
    rfl
  unfold endStartUp
  split
  · exact absurd ‹_› asleep.down
  · split
    · exact lost
    · exact kept

theorem Woken.credits {s t : State} (h : Woken s t) : CreditsForm t := by
  have jobs : allJobs t = [] := allJobs_eq_nil fun l =>
    ⟨congrArg LaneRec.queue (h.lanes l).1, congrArg LaneRec.out (h.lanes l).1⟩
  refine ⟨fun _ l => (h.lanes l).credits, fun c => absurd h.up c, ?_, fun j mem => ?_⟩
  · rw [jobs]
    exact List.nodup_nil
  · rw [jobs] at mem
    exact absurd mem List.not_mem_nil

/-! ### A command -/

/-- What a command does: a chain of elementary changes, or nothing during a start-up period; a reset may follow; or the period ends. -/
inductive Course (s : State) : State → Prop
  | awake {t : State} (up : s.office.startUp = none) (chain : Chain s t) : Course s t
  | asleep {t : State} (asleep : Asleep s) (sleeps : Sleeps s t) : Course s t
  | reset {t : State} (course : Course s t) (k : ResetKind) : Course s (doReset k t)
  | ended {t : State} (asleep : Asleep s) (woken : Woken s t) : Course s t

theorem exec_course {c : Instr} {s t : State} (form : CreditsForm s) (runs : exec c s = .next t) : Course s t := by
  cases up : s.office.startUp with
  | none =>
    obtain ⟨u, chain, same | ⟨k, same⟩⟩ := Ends.exec c s t runs up form
    · rw [same]
      exact .awake up chain
    · rw [same]
      exact .reset (.awake up chain) k
  | some v =>
    have asleep := form.down.asleep (by rw [up]; exact Option.some_ne_none v)
    obtain ⟨u, rests, same | ⟨k, same⟩ | same⟩ := Rests.exec c s t runs
    · rw [same]
      exact .asleep asleep (rests asleep)
    · rw [same]
      exact .reset (.asleep asleep (rests asleep)) k
    · rw [same]
      have sleeps := rests asleep
      have woken := endStartUp_woken sleeps.asleep
      refine .ended asleep ⟨woken.up, woken.lanes, woken.flight, ?_⟩
      rw [← sleeps.stock, ← sleeps.flight, ← sleeps.table]
      exact woken.stock

theorem Course.credits {s t : State} (course : Course s t) (form : CreditsForm s) : CreditsForm t := by
  cases course with
  | awake up chain => exact (chain.credits up form).2
  | asleep _ sleeps => exact sleeps.asleep.credits
  | reset _ k => exact (doReset_asleep k _).credits
  | ended _ woken => exact woken.credits

theorem CreditsForm.queue {s : State} (h : CreditsForm s) (rest : List Instr) : CreditsForm { s with pending := rest } :=
  ⟨h.lanes, h.down, h.buffers, h.images⟩

/-- Settles O19: every command takes its course (`exec_course`), and each course keeps the form. -/
theorem stepKeepsCredits : Obligations.StepKeepsCredits := step_keeps (P := CreditsForm) (fun _ rest h => h.queue rest)
  fun _ _ _ form runs => (exec_course form runs).credits form

end Sys2Proof.Machine
end

section
/-! The blanks that the part holds, as one list: the stock form says that no blank stands in it twice, and that it makes up with the
outcome counters what was received (R6, R20, R21). -/

namespace Sys2Proof.Machine

/-- A blank by its kind and its serial; a job that holds none has no serial. -/
abbrev Blank := StockKind × Option Nat

/-- The blanks of a range of serials. -/
def blanksFrom (k : StockKind) (f c : Nat) : List Blank := (List.range' f c).map fun n => (k, some n)

/-- The blanks of the Office Runs (R2). -/
def runBlanks (rs : List Run) : List Blank := rs.flatMap fun r => blanksFrom r.kind r.first r.count

/-- The blanks of a magazine: its unconsumed range (R5). -/
def magBlanks : Option Loaded → List Blank
  | none => []
  | some m => blanksFrom m.kind m.next m.remaining

/-- The blanks of a list of jobs (R6). -/
def outBlanks (js : List Job) : List Blank := js.map fun j => (j.kind, j.serial)

/-- The blanks of the Flight List (R174). -/
def flightBlanks (es : List FlightEntry) : List Blank := es.map fun e => (e.kind, some e.serial)

/-- The blanks of the In-Doubt List (R7). -/
def doubtBlanks (ds : List DoubtEntry) : List Blank := ds.map fun d => (d.kind, some d.serial)

/-- The blanks of the Issue Table (R21). -/
def tickets (es : List IssueEntry) : List Blank := es.map fun e => (e.kind, some e.serial)

/-- The blanks of the eight magazines. -/
def magsBlanks (s : State) : List Blank := (List.finRange 8).flatMap fun l => magBlanks s.stock.mags[l]

/-- The blanks of the jobs out of the eight lanes. -/
def outsBlanks (s : State) : List Blank := (List.finRange 8).flatMap fun l => outBlanks s.lanes[l].out

/-- The blanks received whose outcome is still open (R20). -/
def blanksHeld (s : State) : List Blank :=
  runBlanks s.stock.runs ++ (magsBlanks s ++ (flightBlanks s.office.flight ++ doubtBlanks s.stock.doubts))

/-- How many of a list of blanks are of a kind. -/
def ofKind (k : StockKind) (bs : List Blank) : Nat := bs.countP fun b => decide (b.1 = k)

/-- The outcomes counted of a kind (R6). -/
def Counters.outcomes (c : Counters) : Nat := c.issued + c.voided + c.spoilt + c.lost

/-! ### How often a blank stands in each place -/

theorem nodup_blanksFrom (k : StockKind) (f c : Nat) : (blanksFrom k f c).Nodup :=
  List.Nodup.map (fun _ _ same => Option.some.inj (Prod.ext_iff.1 same).2) List.nodup_range'

theorem mem_blanksFrom {k q : StockKind} {f c : Nat} {o : Option Nat} :
    (q, o) ∈ blanksFrom k f c ↔ q = k ∧ ∃ n, o = some n ∧ f ≤ n ∧ n < f + c := by
  simp only [blanksFrom, List.mem_map, List.mem_range'_1, Prod.mk.injEq]
  constructor
  · rintro ⟨n, range, kind, serial⟩
    exact ⟨kind.symm, n, serial.symm, range⟩
  · rintro ⟨kind, n, serial, range⟩
    exact ⟨n, range, kind.symm, serial.symm⟩

theorem blanksFrom_append (k : StockKind) (f a b : Nat) : blanksFrom k f (a + b) = blanksFrom k f a ++ blanksFrom k (f + a) b := by
  rw [blanksFrom, blanksFrom, blanksFrom, ← List.map_append, List.range'_append_1]

/-- A list without repeats holds a blank as often as it is in it. -/
theorem count_of_nodup {bs : List Blank} (h : bs.Nodup) (b : Blank) : bs.count b = if b ∈ bs then 1 else 0 := by
  split
  next mem => exact List.count_eq_one_of_mem h mem
  next out => exact List.count_eq_zero_of_not_mem out

/-- Counting a blank in lists that each hold it at most once. -/
theorem count_flatMap_eq {α : Type} {f : α → List Blank} (nodup : ∀ a, (f a).Nodup) {p : α → Bool} {b : Blank} (h : ∀ a, p a = true ↔ b ∈ f a)
    (as : List α) : (as.flatMap f).count b = as.countP p := by
  induction as with
  | nil => rfl
  | cons a as ih =>
    rw [List.flatMap_cons, List.count_append, ih, List.countP_cons, count_of_nodup (nodup a), Nat.add_comm]
    congr 1
    by_cases mem : b ∈ f a
    · rw [if_pos mem, if_pos ((h a).2 mem)]
    · rw [if_neg mem, if_neg fun c => mem ((h a).1 c)]

theorem count_map_eq {α : Type} {f : α → Blank} {p : α → Bool} {b : Blank} (h : ∀ a, p a = true ↔ f a = b) (as : List α) :
    (as.map f).count b = as.countP p := by
  rw [List.count, List.countP_map]
  refine List.countP_congr fun a _ => ?_
  rw [Function.comp_apply, beq_iff_eq]
  exact (h a).symm

theorem nodup_magBlanks (m : Option Loaded) : (magBlanks m).Nodup := by
  cases m with
  | none => exact List.nodup_nil
  | some m => exact nodup_blanksFrom _ _ _

theorem mem_magBlanks {m : Option Loaded} {k : StockKind} {n : Nat} :
    (m.any fun m => decide (m.kind = k ∧ m.next ≤ n ∧ n ≤ m.last)) = true ↔ (k, some n) ∈ magBlanks m := by
  cases m with
  | none => exact ⟨fun c => (nomatch c), fun c => absurd c List.not_mem_nil⟩
  | some m =>
    rw [Option.any_some, decide_eq_true_eq, magBlanks, mem_blanksFrom]
    unfold Loaded.remaining
    constructor
    · rintro ⟨kind, low, high⟩
      exact ⟨kind.symm, n, rfl, low, by omega⟩
    · rintro ⟨kind, x, same, low, high⟩
      obtain rfl := Option.some.inj same
      exact ⟨kind.symm, low, by omega⟩

/-- The places that hold a serial are those of the list and the Issue Table. -/
theorem count_held (s : State) (k : StockKind) (n : Nat) :
    (blanksHeld s ++ tickets s.issue.table).count (k, some n) = holders s k n := by
  have runs : (runBlanks s.stock.runs).count (k, some n) =
      s.stock.runs.countP fun r => decide (r.kind = k ∧ r.first ≤ n ∧ n < r.first + r.count) :=
    count_flatMap_eq (fun r => nodup_blanksFrom _ _ _) (fun r => by
      rw [decide_eq_true_eq, mem_blanksFrom]
      constructor
      · rintro ⟨kind, low, high⟩
        exact ⟨kind.symm, n, rfl, low, high⟩
      · rintro ⟨kind, x, same, low, high⟩
        obtain rfl := Option.some.inj same
        exact ⟨kind.symm, low, high⟩) _
  have mags : (magsBlanks s).count (k, some n) =
      (List.finRange 8).countP fun l => s.stock.mags[l].any fun m => decide (m.kind = k ∧ m.next ≤ n ∧ n ≤ m.last) :=
    count_flatMap_eq (fun l => nodup_magBlanks _) (fun l => mem_magBlanks) _
  have pair : ∀ {q : StockKind} {x : Nat}, decide (q = k ∧ x = n) = true ↔ (q, some x) = (k, some n) := fun {q x} => by
    rw [decide_eq_true_eq, Prod.mk.injEq, Option.some.injEq]
  rw [blanksHeld, List.count_append, List.count_append, List.count_append, List.count_append, runs, mags]
  rw [show (flightBlanks s.office.flight).count (k, some n) = _ from count_map_eq (fun e => pair) _,
    show (doubtBlanks s.stock.doubts).count (k, some n) = _ from count_map_eq (fun e => pair) _,
    show (tickets s.issue.table).count (k, some n) = _ from count_map_eq (fun e => pair) _]
  unfold holders
  omega

/-- No blank of the list lacks a serial. -/
theorem count_held_none (s : State) (k : StockKind) : (blanksHeld s ++ tickets s.issue.table).count (k, none) = 0 := by
  refine List.count_eq_zero_of_not_mem fun mem => ?_
  have mapped : ∀ {α : Type} {as : List α} {f : α → StockKind} {g : α → Nat}, (k, none) ∉ as.map fun a => (f a, some (g a)) :=
    fun mem => by
      obtain ⟨a, -, same⟩ := List.mem_map.1 mem
      exact (nomatch (Prod.ext_iff.1 same).2)
  simp only [blanksHeld, List.mem_append] at mem
  rcases mem with (runs | mags | flight | doubts) | table
  · obtain ⟨r, -, range⟩ := List.mem_flatMap.1 runs
    exact mapped range
  · obtain ⟨l, -, mag⟩ := List.mem_flatMap.1 mags
    cases is : s.stock.mags[l] with
    | none =>
      rw [is] at mag
      exact absurd mag List.not_mem_nil
    | some m =>
      rw [is] at mag
      exact mapped mag
  · exact mapped flight
  · exact mapped doubts
  · exact mapped table

theorem single_iff (s : State) : (∀ (k : StockKind) (n : Nat), holders s k n ≤ 1) ↔ (blanksHeld s ++ tickets s.issue.table).Nodup := by
  rw [List.nodup_iff_count_le_one]
  constructor
  · rintro single ⟨k, _ | n⟩
    · rw [count_held_none]
      exact Nat.zero_le 1
    · rw [count_held]
      exact single k n
  · intro nodup k n
    rw [← count_held]
    exact nodup _

/-! ### How many blanks of a kind stand in each place -/

theorem ofKind_append (k : StockKind) (as bs : List Blank) : ofKind k (as ++ bs) = ofKind k as + ofKind k bs := List.countP_append

theorem ofKind_perm {k : StockKind} {as bs : List Blank} (h : as.Perm bs) : ofKind k as = ofKind k bs := h.countP_eq _

theorem ofKind_blanksFrom (k q : StockKind) (f c : Nat) : ofKind k (blanksFrom q f c) = if q = k then c else 0 := by
  unfold ofKind blanksFrom
  rw [List.countP_map]
  split
  next same =>
    refine Eq.trans (List.countP_eq_length.2 fun n _ => ?_) List.length_range'
    exact decide_eq_true same
  next other => exact List.countP_eq_zero.2 fun n _ c => other (of_decide_eq_true c)

theorem ofKind_flatMap {α : Type} (k : StockKind) (f : α → List Blank) (as : List α) :
    ofKind k (as.flatMap f) = (as.map fun a => ofKind k (f a)).sum := by
  induction as with
  | nil => rfl
  | cons a as ih => rw [List.flatMap_cons, ofKind_append, ih, List.map_cons, List.sum_cons]

theorem ofKind_runs (s : State) (k : StockKind) : ofKind k (runBlanks s.stock.runs) = inOffice s k := by
  unfold inOffice runBlanks
  rw [ofKind_flatMap]
  induction s.stock.runs with
  | nil => rfl
  | cons r rs ih =>
    rw [List.map_cons, List.sum_cons, ih, ofKind_blanksFrom, List.filter_cons]
    by_cases kind : r.kind = k
    · rw [if_pos kind, if_pos (decide_eq_true kind), List.map_cons, List.sum_cons]
    · rw [if_neg kind, if_neg (by simpa using kind), Nat.zero_add]

theorem ofKind_mags (s : State) (k : StockKind) : ofKind k (magsBlanks s) = inMagazines s k := by
  unfold inMagazines magsBlanks
  rw [ofKind_flatMap]
  refine congrArg List.sum (List.map_congr_left fun l _ => ?_)
  show ofKind k (magBlanks (s.mag l)) = _
  cases s.mag l with
  | none => rfl
  | some m => exact ofKind_blanksFrom k m.kind m.next m.remaining

theorem ofKind_flight (s : State) (k : StockKind) : ofKind k (flightBlanks s.office.flight) = s.office.flight.countP fun e => decide (e.kind = k) :=
  List.countP_map ..

theorem ofKind_doubts (s : State) (k : StockKind) : ofKind k (doubtBlanks s.stock.doubts) = inDoubt s k := List.countP_map ..

theorem ofKind_outs (s : State) (k : StockKind) : ofKind k (outsBlanks s) = inFlight s k := by
  unfold inFlight outsBlanks
  rw [ofKind_flatMap]
  exact congrArg List.sum (List.map_congr_left fun l _ => List.countP_map ..)

theorem ofKind_held (s : State) (k : StockKind) : ofKind k (blanksHeld s) =
    inOffice s k + inMagazines s k + (s.office.flight.countP fun e => decide (e.kind = k)) + inDoubt s k := by
  rw [blanksHeld, ofKind_append, ofKind_append, ofKind_append, ofKind_runs, ofKind_mags, ofKind_flight, ofKind_doubts]
  omega

/-- What was received is held, or has its outcome counted (R20). -/
def Conserved (s : State) : Prop := ∀ k : StockKind, s.stock.counters[k].received = ofKind k (blanksHeld s) + s.stock.counters[k].outcomes

theorem conserved_iff (s : State) : Conserved s ↔ ∀ k : StockKind, s.stock.counters[k].received =
    inOffice s k + inMagazines s k + (s.office.flight.countP fun e => decide (e.kind = k)) + inDoubt s k +
      s.stock.counters[k].issued + s.stock.counters[k].voided + s.stock.counters[k].spoilt + s.stock.counters[k].lost := by
  refine forall_congr' fun k => ?_
  rw [ofKind_held, Counters.outcomes]
  omega

end Sys2Proof.Machine
end

section
/-! The stock form through a change: the blanks held, those whose outcome is now counted, and the tickets (R6, R19 to R21). -/

namespace Sys2Proof.Machine

/-- The tickets of the Issue Table that are ISSUED are counted (R19). -/
def SoldCounted (s : State) : Prop :=
  ∀ k : StockKind, (s.issue.table.countP fun e => decide (e.kind = k ∧ e.state = .issued)) ≤ s.stock.counters[k].issued

/-- The outcomes of the blanks that are gone are counted, and no more is received. -/
def Counted (s t : State) (gone : List Blank) : Prop := ∀ k : StockKind,
  t.stock.counters[k].received = s.stock.counters[k].received ∧ t.stock.counters[k].outcomes = s.stock.counters[k].outcomes + ofKind k gone

/-- The next serial of a magazine lies between its first and the one after its last (R5). -/
def MagForm (m : Option Loaded) : Prop := ∀ g, m = some g → g.first ≤ g.next ∧ g.next ≤ g.last + 1

theorem Counted.same {s t : State} (h : t.stock.counters = s.stock.counters) : Counted s t [] := fun k => by
  rw [h]
  exact ⟨rfl, rfl⟩

theorem Counted.upd {s t : State} {q : StockKind} {f : Counters → Counters} {gone : List Blank} {n : Nat}
    (h : t.stock.counters = s.stock.counters.upd q f) (received : ∀ c, (f c).received = c.received)
    (outcomes : (f s.stock.counters[q]).outcomes = s.stock.counters[q].outcomes + n) (kinds : ∀ k, ofKind k gone = if q = k then n else 0) :
    Counted s t gone := fun k => by
  rw [h, Table.upd_get, kinds]
  by_cases same : k = q
  · subst same
    rw [if_pos rfl, if_pos rfl]
    exact ⟨received _, outcomes⟩
  · rw [if_neg same, if_neg fun c => same c.symm]
    exact ⟨rfl, rfl⟩

/-- The tickets stand, and what was issued is still counted. -/
theorem SoldCounted.same {s t : State} (h : SoldCounted s) (table : t.issue.table = s.issue.table)
    (issued : ∀ k : StockKind, s.stock.counters[k].issued ≤ t.stock.counters[k].issued) : SoldCounted t := fun k => by
  rw [table]
  exact (h k).trans (issued k)

theorem issued_upd {s t : State} {q : StockKind} {f : Counters → Counters} (h : t.stock.counters = s.stock.counters.upd q f)
    (issued : ∀ c, c.issued ≤ (f c).issued) (k : StockKind) : s.stock.counters[k].issued ≤ t.stock.counters[k].issued := by
  rw [h, Table.upd_get]
  split
  next same =>
    subst same
    exact issued _
  · exact Nat.le_refl _

theorem nodup_of_subperm {as bs : List Blank} (h : as.Subperm bs) (nodup : bs.Nodup) : as.Nodup :=
  List.nodup_iff_count_le_one.2 fun b => (h.count_le b).trans (List.nodup_iff_count_le_one.1 nodup b)

namespace StockForm

variable {s t : State}

theorem nodup (h : StockForm s) : (blanksHeld s ++ tickets s.issue.table).Nodup := (single_iff s).1 h.single

theorem counted (h : StockForm s) : Conserved s := (conserved_iff s).2 h.conserved

theorem mag (h : StockForm s) (l : Lane) : MagForm s.stock.mags[l] := h.mags l

theorem flying (h : StockForm s) (up : s.office.startUp = none) : (flightBlanks s.office.flight).Perm (outsBlanks s) := h.flight up

/-- The stock form after a change by which some blanks are held no more, their outcomes counted. -/
theorem settle (h : StockForm s) (runs : RunsForm t.stock.runs) (mags : ∀ l : Lane, MagForm t.stock.mags[l])
    (flight : t.office.startUp = none → (flightBlanks t.office.flight).Perm (outsBlanks t)) (sent : ∀ l : Lane, SentRun t.lanes[l] t.stock.mags[l])
    {gone : List Blank} (perm : (blanksHeld s).Perm (blanksHeld t ++ gone))
    (table : (tickets t.issue.table).Subperm (gone ++ tickets s.issue.table)) (counted : Counted s t gone) (sold : SoldCounted t) :
    StockForm t where
  runs := runs
  mags := mags
  single := (single_iff t).2 (nodup_of_subperm
    (((List.subperm_append_left _).2 table).trans (by
      rw [← List.append_assoc]
      exact (perm.symm.append_right _).subperm)) h.nodup)
  conserved := (conserved_iff t).1 fun k => by
    have before := h.counted k
    rw [ofKind_perm perm, ofKind_append] at before
    rw [(counted k).1, (counted k).2, before]
    omega
  sold := sold
  flight := flight
  sent := sent

end StockForm

/-! ### A change of one lane -/

/-- What two tables of lists that differ at one lane have in common. -/
theorem flatMap_split {α : Type} {f g : Lane → List α} {l : Lane} (others : ∀ m, m ≠ l → g m = f m) :
    ∃ rest, ((List.finRange 8).flatMap f).Perm (f l ++ rest) ∧ ((List.finRange 8).flatMap g).Perm (g l ++ rest) := by
  have lanes : (List.finRange 8).Perm (l :: (List.finRange 8).erase l) := List.perm_cons_erase (List.mem_finRange l)
  have same : ((List.finRange 8).erase l).flatMap g = ((List.finRange 8).erase l).flatMap f :=
    List.flatMap_congr fun m mem => others m ((List.nodup_finRange 8).mem_erase_iff.1 mem).1
  refine ⟨((List.finRange 8).erase l).flatMap f, lanes.flatMap_right _, ?_⟩
  rw [← same]
  exact lanes.flatMap_right _

/-- Two states whose lanes and magazines differ at one lane alone, with the same Office Runs. -/
structure OneLane (l : Lane) (s t : State) : Prop where
  lanes : OtherLanes l s t
  mags  : ∀ m : Lane, m ≠ l → t.stock.mags[m] = s.stock.mags[m]
  runs  : t.stock.runs = s.stock.runs

theorem OneLane.outs {l : Lane} {s t : State} (h : OneLane l s t) :
    ∃ rest, (outsBlanks s).Perm (outBlanks s.lanes[l].out ++ rest) ∧ (outsBlanks t).Perm (outBlanks t.lanes[l].out ++ rest) :=
  flatMap_split fun m other => by rw [h.lanes m other]

/-- The blanks held, after a change of one lane. -/
theorem OneLane.held {l : Lane} {s t : State} (h : OneLane l s t) (before : (flightBlanks s.office.flight).Perm (outsBlanks s))
    (after : (flightBlanks t.office.flight).Perm (outsBlanks t)) {doubted gone : List Blank}
    (doubts : doubtBlanks t.stock.doubts = doubtBlanks s.stock.doubts ++ doubted)
    (lane : (magBlanks s.stock.mags[l] ++ outBlanks s.lanes[l].out).Perm
      (magBlanks t.stock.mags[l] ++ outBlanks t.lanes[l].out ++ (doubted ++ gone))) : (blanksHeld s).Perm (blanksHeld t ++ gone) := by
  obtain ⟨outs, outsS, outsT⟩ := h.outs
  obtain ⟨mags, magsS, magsT⟩ : ∃ rest, (magsBlanks s).Perm (magBlanks s.stock.mags[l] ++ rest) ∧
      (magsBlanks t).Perm (magBlanks t.stock.mags[l] ++ rest) := flatMap_split fun m other => by rw [h.mags m other]
  rw [blanksHeld, blanksHeld, h.runs, doubts]
  rw [List.perm_iff_count]
  intro b
  have flightS := (before.trans outsS).count_eq b
  have flightT := (after.trans outsT).count_eq b
  have both := lane.count_eq b
  have magS := magsS.count_eq b
  have magT := magsT.count_eq b
  simp only [List.count_append] at flightS flightT both magS magT ⊢
  omega

/-! ### The Flight List follows the jobs out (R174) -/

/-- What is left when some members of a list without repeats are dropped. -/
theorem filter_gone {as bs gone : List Blank} (nodup : as.Nodup) (perm : as.Perm (bs ++ gone)) :
    (as.filter fun b => !decide (b ∈ gone)).Perm bs := by
  have apart := List.disjoint_of_nodup_append (perm.nodup_iff.1 nodup)
  refine (perm.filter _).trans (List.Perm.of_eq ?_)
  rw [List.filter_append, List.filter_eq_self.2 fun b mem => by simpa using fun c => apart mem c,
    List.filter_eq_nil_iff.2 fun b mem => by simpa using mem, List.append_nil]

theorem StockForm.flight_nodup {s : State} (h : StockForm s) : (flightBlanks s.office.flight).Nodup := by
  have all := h.nodup.of_append_left
  rw [blanksHeld] at all
  exact all.of_append_right.of_append_right.of_append_left

/-- The flight entries of the blanks that leave a lane's jobs out go. -/
theorem StockForm.dropped {s t : State} {l : Lane} (h : StockForm s) (up : s.office.startUp = none) (one : OneLane l s t) {gone : List Blank}
    (out : (outBlanks s.lanes[l].out).Perm (outBlanks t.lanes[l].out ++ gone))
    (flight : flightBlanks t.office.flight = (flightBlanks s.office.flight).filter fun b => !decide (b ∈ gone)) :
    (flightBlanks t.office.flight).Perm (outsBlanks t) := by
  obtain ⟨rest, before, after⟩ := one.outs
  rw [flight]
  refine (filter_gone (bs := outBlanks t.lanes[l].out ++ rest) h.flight_nodup ?_).trans after.symm
  refine ((h.flying up).trans before).trans ((out.append_right rest).trans ?_)
  rw [List.append_assoc, List.append_assoc]
  exact List.perm_append_comm.append_left _

/-- A blank that joins a lane's jobs out gets its flight entry. -/
theorem StockForm.flown {s t : State} {l : Lane} (h : StockForm s) (up : s.office.startUp = none) (one : OneLane l s t) {b : Blank}
    (out : outBlanks t.lanes[l].out = outBlanks s.lanes[l].out ++ [b])
    (flight : flightBlanks t.office.flight = flightBlanks s.office.flight ++ [b]) : (flightBlanks t.office.flight).Perm (outsBlanks t) := by
  obtain ⟨rest, before, after⟩ := one.outs
  rw [flight]
  refine (((h.flying up).trans before).append_right _).trans (List.Perm.trans ?_ after.symm)
  rw [out, List.append_assoc, List.append_assoc]
  exact List.perm_append_comm.append_left _

/-- The stock form after a change of one lane. -/
theorem StockForm.onLane {s t : State} {l : Lane} (h : StockForm s) (up : s.office.startUp = none) (one : OneLane l s t)
    (flight : (flightBlanks t.office.flight).Perm (outsBlanks t)) (mag : MagForm t.stock.mags[l]) (sent : SentRun t.lanes[l] t.stock.mags[l])
    {doubted gone : List Blank} (doubts : doubtBlanks t.stock.doubts = doubtBlanks s.stock.doubts ++ doubted)
    (lane : (magBlanks s.stock.mags[l] ++ outBlanks s.lanes[l].out).Perm
      (magBlanks t.stock.mags[l] ++ outBlanks t.lanes[l].out ++ (doubted ++ gone)))
    (table : (tickets t.issue.table).Subperm (gone ++ tickets s.issue.table)) (counted : Counted s t gone) (sold : SoldCounted t) :
    StockForm t := by
  refine h.settle (by rw [one.runs]; exact h.runs) (fun m => ?_) (fun _ => flight) (fun m => ?_)
    (one.held (h.flying up) flight doubts lane) table counted sold
  · by_cases same : m = l
    · rw [same]
      exact mag
    · rw [one.mags m same]
      exact h.mag m
  · by_cases same : m = l
    · rw [same]
      exact sent
    · rw [one.mags m same, one.lanes m same]
      exact h.sent m

end Sys2Proof.Machine
end

section
/-! The SENT jobs of a lane at the end of its jobs out, and the magazine's next serial (R122, R127, R133). -/

namespace Sys2Proof.Machine

/-- The jobs out that are not SENT. -/
def LaneRec.fedJobs (r : LaneRec) : List Job := r.out.filter fun j => decide (j.state ≠ .sent)

theorem fedJobs_append {fed sent : List Job} (hf : ∀ j ∈ fed, j.state ≠ .sent) (hs : ∀ j ∈ sent, j.state = .sent) :
    (fed ++ sent).filter (fun j => decide (j.state ≠ .sent)) = fed ∧ (fed ++ sent).filter (fun j => decide (j.state = .sent)) = sent := by
  constructor
  · rw [List.filter_append, List.filter_eq_self.2 fun j mem => decide_eq_true (hf j mem),
      List.filter_eq_nil_iff.2 fun j mem c => (of_decide_eq_true c : j.state ≠ .sent) (hs j mem), List.append_nil]
  · rw [List.filter_append, List.filter_eq_self.2 fun j mem => decide_eq_true (hs j mem),
      List.filter_eq_nil_iff.2 fun j mem c => hf j mem (of_decide_eq_true c), List.nil_append]

/-- The SENT jobs hold the serials up to the magazine's next one. -/
structure UpToNext (sent : List Job) (g : Loaded) : Prop where
  low     : g.first + sent.length ≤ g.next
  serials : outBlanks sent = blanksFrom g.kind (g.next - sent.length) sent.length

namespace SentRun

variable {r r' : LaneRec} {m m' : Option Loaded}

/-- The jobs out are those fed and then the SENT ones. -/
theorem split (h : SentRun r m) : r.out = r.fedJobs ++ r.sentJobs ∧
    (r.sentJobs ≠ [] → ∃ g, m = some g ∧ UpToNext r.sentJobs g) := by
  obtain ⟨fed, sent, out, hf, hs, run⟩ := h
  obtain ⟨isFed, isSent⟩ := fedJobs_append hf hs
  unfold LaneRec.fedJobs LaneRec.sentJobs
  rw [out, isFed, isSent]
  refine ⟨rfl, fun some' => ?_⟩
  obtain ⟨g, mag, low, serials⟩ := run some'
  exact ⟨g, mag, low, serials⟩

theorem of_parts {fed sent : List Job} (out : r.out = fed ++ sent) (hf : ∀ j ∈ fed, j.state ≠ .sent) (hs : ∀ j ∈ sent, j.state = .sent)
    (run : sent ≠ [] → ∃ g, m = some g ∧ UpToNext sent g) : SentRun r m :=
  ⟨fed, sent, out, hf, hs, fun some' => let ⟨g, mag, up⟩ := run some'; ⟨g, mag, up.low, up.serials⟩⟩

/-- No job is SENT. -/
theorem of_fed (hf : ∀ j ∈ r.out, j.state ≠ .sent) : SentRun r m :=
  of_parts (sent := []) (List.append_nil _).symm hf (fun _ mem => absurd mem List.not_mem_nil) fun c => absurd rfl c

/-- Delivery marks, and PRINTED after FED, are nothing to the SENT jobs. -/
theorem still (h : SentRun r m) (out : List.Forall₂ JobStill r.out r'.out) : SentRun r' m := by
  obtain ⟨fed, sent, is, hf, hs, run⟩ := h
  rw [is] at out
  have fedStill := (List.forall₂_take_append _ _ _ out.flip).flip
  have sentStill := (List.forall₂_drop_append _ _ _ out.flip).flip
  obtain ⟨fed', sent', is'⟩ : ∃ fed' sent', List.take fed.length r'.out = fed' ∧ List.drop fed.length r'.out = sent' := ⟨_, _, rfl, rfl⟩
  rw [is'.1] at fedStill
  rw [is'.2] at sentStill
  have whole : r'.out = fed' ++ sent' := by rw [← is'.1, ← is'.2, List.take_append_drop]
  refine ⟨fed', sent', whole, fun i mem => ?_, fun i mem => ?_, fun some' => ?_⟩
  · obtain ⟨j, old, same⟩ := exists_of_forall₂_mem fedStill mem
    exact fun c => hf j old (same.sent.1 c)
  · obtain ⟨j, old, same⟩ := exists_of_forall₂_mem sentStill mem
    exact same.sent.2 (hs j old)
  · have length := sentStill.length_eq
    obtain ⟨g, mag, low, serials⟩ := run fun none' => some' (by rw [← List.length_eq_zero_iff, ← length, none']; rfl)
    refine ⟨g, mag, by rw [← length]; exact low, ?_⟩
    rw [← length, ← serials]
    exact map_still (fun _ _ _ => rfl) sentStill

/-- The oldest job out leaves. -/
theorem tail {j : Job} {rest : List Job} (h : SentRun r m) (out : r.out = j :: rest) (out' : r'.out = rest) : SentRun r' m := by
  obtain ⟨fed, sent, is, hf, hs, run⟩ := h
  rw [out] at is
  cases fed with
  | cons i fed =>
    obtain ⟨-, rfl⟩ := List.cons.inj is
    exact ⟨fed, sent, out', fun q mem => hf q (List.mem_cons_of_mem i mem), hs, run⟩
  | nil =>
    obtain rfl : j :: rest = sent := is
    refine ⟨[], rest, out', fun q mem => absurd mem List.not_mem_nil, fun q mem => hs q (List.mem_cons_of_mem j mem), fun some' => ?_⟩
    obtain ⟨g, mag, low, serials⟩ := run (List.cons_ne_nil _ _)
    rw [List.length_cons] at low serials
    rw [List.range'_succ, List.map_cons, List.map_cons] at serials
    have after : g.next - (rest.length + 1) + 1 = g.next - rest.length := by omega
    rw [after] at serials
    exact ⟨g, mag, by omega, (List.cons.inj serials).2⟩

end SentRun

/-! ### The blanks of a recall (R17, R127) -/

/-- A blank by its kind and serial. -/
def blankOf (p : StockKind × Nat) : Blank := (p.1, some p.2)

/-- The serials that jobs hold, as blanks. -/
theorem serialsOf_blanks {js : List Job} (serials : ∀ j ∈ js, j.serial ≠ none) : outBlanks js = (serialsOf js).map blankOf := by
  induction js with
  | nil => rfl
  | cons j js ih =>
    have rest := ih fun i mem => serials i (List.mem_cons_of_mem j mem)
    cases serial : j.serial with
    | none => exact absurd serial (serials j List.mem_cons_self)
    | some n =>
      rw [outBlanks, List.map_cons, serial, serialsOf, List.filterMap_cons_some (b := (j.kind, n)) (by rw [serial]; rfl), List.map_cons]
      exact congrArg _ rest

/-- The lowest serial of a run of blanks. -/
theorem min?_serials {js : List Job} {k : StockKind} {a n : Nat} (serials : outBlanks js = blanksFrom k a (n + 1)) :
    ((serialsOf js).map Prod.snd).min? = some a := by
  have range : (serialsOf js).map Prod.snd = List.range' a (n + 1) := by
    have same : js.map Job.serial = (List.range' a (n + 1)).map some := by
      have second := congrArg (List.map Prod.snd) serials
      rw [outBlanks, blanksFrom, List.map_map, List.map_map] at second
      exact second
    have drops : js.filterMap Job.serial = (js.map Job.serial).filterMap id := by rw [List.filterMap_map]; rfl
    rw [serialsOf_snd, drops, same, List.filterMap_map]
    exact List.filterMap_some
  rw [range]
  refine List.min?_eq_some_iff.2 ⟨List.mem_range'_1.2 ⟨Nat.le_refl a, by omega⟩, fun b mem => (List.mem_range'_1.1 mem).1⟩

/-- A recall gives the magazine back what the SENT jobs held. -/
theorem recalled_mag {r : LaneRec} {m : Option Loaded} (h : SentRun r m) (form : MagForm m) :
    magBlanks (m.map (Loaded.lowered ((serialsOf r.sentJobs).map Prod.snd))) = outBlanks r.sentJobs ++ magBlanks m ∧
      MagForm (m.map (Loaded.lowered ((serialsOf r.sentJobs).map Prod.snd))) := by
  cases sent : r.sentJobs with
  | nil =>
    have same : m.map (Loaded.lowered ((serialsOf []).map Prod.snd)) = m := by cases m <;> rfl
    rw [same]
    exact ⟨rfl, form⟩
  | cons j js =>
    obtain ⟨g, mag, low, serials⟩ := h.split.2 (by rw [sent]; exact List.cons_ne_nil _ _)
    rw [sent, List.length_cons] at low serials
    obtain ⟨bottom, top⟩ := form g mag
    have min := min?_serials serials
    rw [mag]
    have lowered : Option.map (Loaded.lowered ((serialsOf (j :: js)).map Prod.snd)) (some g) =
        some { g with next := g.next - (js.length + 1) } := by
      rw [Option.map_some, Loaded.lowered, min]
      rfl
    rw [lowered]
    refine ⟨?_, fun g' is => ?_⟩
    · rw [magBlanks, magBlanks, serials]
      unfold Loaded.remaining
      dsimp only
      have count : g.last + 1 - (g.next - (js.length + 1)) = (js.length + 1) + (g.last + 1 - g.next) := by omega
      have start : g.next - (js.length + 1) + (js.length + 1) = g.next := by omega
      rw [count, blanksFrom_append, start]
    · obtain rfl := Option.some.inj is
      exact ⟨by dsimp only; omega, by dsimp only; omega⟩

end Sys2Proof.Machine
end

section
/-! Sends, recalls and holding faults keep the stock form (R15, R17, R127, R130, R133). -/

namespace Sys2Proof.Machine

/-! ### The Flight List without some serials -/

theorem flightBlanks_without (set : List (StockKind × Nat)) (es : List FlightEntry) :
    flightBlanks (withoutSerials set es) = (flightBlanks es).filter fun b => !decide (b ∈ set.map blankOf) := by
  rw [flightBlanks, flightBlanks, withoutSerials, List.filter_map]
  refine congrArg _ (List.filter_congr fun e _ => congrArg (fun b => !b) (decide_eq_decide.2 ?_))
  constructor
  · exact fun mem => List.mem_map.2 ⟨_, mem, rfl⟩
  · intro mem
    obtain ⟨p, old, same⟩ := List.mem_map.1 mem
    obtain ⟨kind, serial⟩ := Prod.mk.inj same
    have is : p = (e.kind, e.serial) := Prod.ext kind (Option.some.inj serial)
    rw [← is]
    exact old

/-! ### Sends (R15) -/

theorem magBlanks_next {m : Loaded} (stock : m.next ≤ m.last) :
    magBlanks (some m) = (m.kind, some m.next) :: magBlanks (some m.consume) := by
  have count : m.remaining = 1 + m.consume.remaining := by
    unfold Loaded.remaining Loaded.consume
    dsimp only
    omega
  rw [magBlanks, magBlanks, count, blanksFrom_append]
  rfl

/-- The SENT jobs of a lane whose magazine is LOADED, also where there is none. -/
theorem SentRun.upToNext {r : LaneRec} {g : Loaded} (h : SentRun r (some g)) (form : MagForm (some g)) : UpToNext r.sentJobs g := by
  cases sent : r.sentJobs with
  | nil => exact ⟨(form g rfl).1, rfl⟩
  | cons j js =>
    obtain ⟨g', mag, up⟩ := h.split.2 (by rw [sent]; exact List.cons_ne_nil _ _)
    obtain rfl := Option.some.inj mag
    rw [← sent]
    exact up

theorem UpToNext.send {sent : List Job} {g : Loaded} (h : UpToNext sent g) {j : Job} (kind : g.kind = j.kind) :
    UpToNext (sent ++ [j.send g.next]) g.consume := by
  have low := h.low
  have length : (sent ++ [j.send g.next]).length = sent.length + 1 := List.length_append
  have first : g.next + 1 - (sent.length + 1) = g.next - sent.length := by omega
  have last : g.next - sent.length + sent.length = g.next := by omega
  refine ⟨?_, ?_⟩
  · rw [length]
    show g.first + (sent.length + 1) ≤ g.next + 1
    omega
  · rw [length]
    show outBlanks (sent ++ [j.send g.next]) = blanksFrom g.kind (g.next + 1 - (sent.length + 1)) (sent.length + 1)
    rw [first, blanksFrom_append, last, outBlanks, List.map_append, ← h.serials, kind]
    rfl

theorem mags_upd {s t : State} {l : Lane} {f : Option Loaded → Option Loaded} (mags : t.stock.mags = s.stock.mags.upd l f) :
    t.stock.mags[l] = f s.stock.mags[l] ∧ ∀ m : Lane, m ≠ l → t.stock.mags[m] = s.stock.mags[m] := by
  rw [mags]
  exact ⟨Table.upd_same _ _ _, fun m other => Table.upd_ne _ _ _ _ other⟩

theorem lanes_upd {s t : State} {l : Lane} {f : LaneRec → LaneRec} (lanes : t.lanes = s.lanes.upd l f) :
    t.lanes[l] = f s.lanes[l] ∧ OtherLanes l s t := by
  unfold OtherLanes
  rw [lanes]
  exact ⟨Table.upd_same _ _ _, fun m other => Table.upd_ne _ _ _ _ other⟩

theorem StockForm.send {s : State} {l : Lane} (h : StockForm s) (up : s.office.startUp = none) (can : canSend s l = true) :
    StockForm (sendFront l s) := by
  obtain ⟨-, -, -, -, -, -, j, q, m, queue, mag, kind, stock⟩ := (canSend_iff s l).1 can
  rw [sendFront_eq queue mag]
  obtain ⟨f, isF⟩ : ∃ f, imageFrame j.buffer (sentImage s j m.next) = f := ⟨_, rfl⟩
  rw [isF]
  obtain ⟨t, isT⟩ : ∃ t, (sentStock l j m s).onLane l (LaneRec.sent j q m.next f) = t := ⟨_, rfl⟩
  have lanes : t.lanes = s.lanes.upd l (LaneRec.sent j q m.next f) := by rw [← isT]; rfl
  have mags : t.stock.mags = s.stock.mags.upd l fun _ => some m.consume := by rw [← isT]; rfl
  have flight : flightBlanks t.office.flight = flightBlanks s.office.flight ++ [(j.kind, some m.next)] := by
    rw [← isT]
    exact List.map_append
  have stocks : t.stock = { s.stock with mags := t.stock.mags } := by rw [← isT]; rfl
  have table : t.issue.table = s.issue.table := by rw [← isT]; rfl
  rw [isT]
  obtain ⟨row, others⟩ := lanes_upd lanes
  obtain ⟨magT, otherMags⟩ := mags_upd mags
  have one : OneLane l s t := ⟨others, otherMags, by rw [stocks]⟩
  have outs : t.lanes[l].out = s.lanes[l].out ++ [j.send m.next] := by rw [row]; rfl
  have out : outBlanks t.lanes[l].out = outBlanks s.lanes[l].out ++ [(j.kind, some m.next)] := by
    rw [outs]
    exact List.map_append
  have form := h.mag l
  have run := h.sent l
  rw [mag] at form run
  refine h.onLane up one (h.flown up one out flight) ?_ ?_ (doubted := []) (gone := []) ?_ ?_ ?_ (.same (by rw [stocks])) ?_
  · rw [magT]
    intro g is
    obtain rfl := Option.some.inj is
    obtain ⟨low, -⟩ := form m rfl
    exact ⟨Nat.le_succ_of_le low, Nat.succ_le_succ stock⟩
  · rw [magT]
    refine .of_parts (fed := s.lanes[l].fedJobs) (sent := s.lanes[l].sentJobs ++ [j.send m.next]) ?_ (fun i mem => ?_) (fun i mem => ?_)
      fun _ => ⟨m.consume, rfl, (run.upToNext form).send kind⟩
    · rw [outs, ← List.append_assoc, ← run.split.1]
    · exact of_decide_eq_true (List.mem_filter.1 mem).2
    · rcases List.mem_append.1 mem with old | new
      · exact of_decide_eq_true (List.mem_filter.1 old).2
      · rw [List.mem_singleton.1 new]
        rfl
  · rw [stocks, List.append_nil]
  · rw [mag, magT, out, magBlanks_next stock, kind, List.append_nil, List.append_nil, ← List.append_assoc]
    exact List.perm_append_comm (l₁ := [_])
  · rw [table]
    exact List.Subperm.refl _
  · exact SoldCounted.same h.sold table fun k => by rw [stocks]

/-! ### Recalls (R17, R127) -/

theorem serials_of_form {r : LaneRec} (form : CreditForm r) {js : List Job} (sub : ∀ j ∈ js, j ∈ r.out) : ∀ j ∈ js, j.serial ≠ none :=
  fun j mem => (form.out j (sub j mem)).1

theorem repaired_out (st : Settings) (also : List Buffer) (r : LaneRec) : (r.repaired st also).out = r.fedJobs := by
  unfold LaneRec.repaired LaneRec.rest
  rw [flushLane_link]
  split <;> rfl

theorem fedJobs_unsent {r : LaneRec} {j : Job} (mem : j ∈ r.fedJobs) : j.state ≠ .sent := of_decide_eq_true (List.mem_filter.1 mem).2

theorem StockForm.repaired {s : State} {l : Lane} (h : StockForm s) (form : CreditForm s.lanes[l]) (up : s.office.startUp = none)
    (also : List Buffer) : StockForm (sequenceRepair l also s) := by
  obtain ⟨t, isT⟩ : ∃ t, sequenceRepair l also s = t := ⟨_, rfl⟩
  have is := sequenceRepair_eq l also s
  rw [isT] at is ⊢
  obtain ⟨row, others⟩ := lanes_upd (s := s) (t := t) (l := l) (f := LaneRec.repaired s.office.settings also) (by rw [is])
  obtain ⟨magT, otherMags⟩ := mags_upd (s := s) (t := t) (l := l)
    (f := Option.map (Loaded.lowered ((serialsOf s.lanes[l].sentJobs).map Prod.snd))) (by rw [is])
  have one : OneLane l s t := ⟨others, otherMags, by rw [is]⟩
  obtain ⟨blanks, magForm⟩ := recalled_mag (h.sent l) (h.mag l)
  have split := (h.sent l).split.1
  have out : t.lanes[l].out = s.lanes[l].fedJobs := by rw [row, repaired_out]
  have outs : outBlanks s.lanes[l].out = outBlanks s.lanes[l].fedJobs ++ outBlanks s.lanes[l].sentJobs :=
    (congrArg outBlanks split).trans List.map_append
  have flight : flightBlanks t.office.flight =
      (flightBlanks s.office.flight).filter fun b => !decide (b ∈ outBlanks s.lanes[l].sentJobs) := by
    rw [serialsOf_blanks (serials_of_form form (js := s.lanes[l].sentJobs) fun j mem => (List.mem_filter.1 mem).1), is]
    exact flightBlanks_without _ _
  refine h.onLane up one (h.dropped up one (gone := outBlanks s.lanes[l].sentJobs) ?_ flight) ?_ (.of_fed fun j mem => ?_)
    (doubted := []) (gone := []) ?_ ?_ ?_ (.same (by rw [is])) ?_
  · rw [out, outs]
  · rw [magT]
    exact magForm
  · rw [out] at mem
    exact fedJobs_unsent mem
  · rw [is, List.append_nil]
  · rw [magT, blanks, out, outs, List.append_nil, List.append_nil]
    refine List.Perm.trans ?_ (List.perm_append_comm.append_right _)
    rw [List.append_assoc]
    exact List.perm_append_comm.append_left _
  · rw [is]
    exact List.Subperm.refl _
  · exact SoldCounted.same h.sold (by rw [is]) fun k => by rw [is]

/-! ### Holding faults (R130) -/

theorem doubtBlanks_eq (l : Lane) (k : FaultKind) {js : List Job} (serials : ∀ j ∈ js, j.serial ≠ none) :
    doubtBlanks (js.filterMap fun j => j.serial.map fun n => j.doubtEntry l k n) = outBlanks js := by
  induction js with
  | nil => rfl
  | cons j js ih =>
    have rest := ih fun i mem => serials i (List.mem_cons_of_mem j mem)
    cases serial : j.serial with
    | none => exact absurd serial (serials j List.mem_cons_self)
    | some n =>
      rw [List.filterMap_cons_some (b := j.doubtEntry l k n) (by rw [serial]; rfl), doubtBlanks, List.map_cons, outBlanks, List.map_cons,
        serial]
      exact congrArg _ rest

theorem StockForm.hold {s : State} {l : Lane} (h : StockForm s) (form : CreditForm s.lanes[l]) (up : s.office.startUp = none)
    (apart : (s.lanes[l].out.map Job.buffer).Nodup) (k : FaultKind) (moves : s.lanes[l].state = .starting ∨ Working s l) :
    StockForm (raiseHolding l k s) := by
  obtain ⟨t, isT⟩ : ∃ t, raiseHolding l k s = t := ⟨_, rfl⟩
  have is := raiseHolding_moved k moves (form.settling apart)
  rw [isT, deskHeld_rest] at is
  rw [isT]
  have doubtful : inDoubtOf s.lanes[l].out = s.lanes[l].fedJobs := inDoubtOf_eq form.out
  rw [doubtful] at is
  obtain ⟨row, others⟩ := lanes_upd (s := s) (t := t) (l := l) (f := fun r => r.faulted.held s.office.settings (stalled s l)) (by rw [is])
  obtain ⟨magT, otherMags⟩ := mags_upd (s := s) (t := t) (l := l)
    (f := Option.map (Loaded.lowered ((serialsOf s.lanes[l].sentJobs).map Prod.snd))) (by rw [is])
  have one : OneLane l s t := ⟨others, otherMags, by rw [is]⟩
  obtain ⟨blanks, magForm⟩ := recalled_mag (h.sent l) (h.mag l)
  have split := (h.sent l).split.1
  have out : t.lanes[l].out = [] := by rw [row, LaneRec.held_eq]; rfl
  have outs : outBlanks s.lanes[l].out = outBlanks s.lanes[l].fedJobs ++ outBlanks s.lanes[l].sentJobs :=
    (congrArg outBlanks split).trans List.map_append
  have sentSerials := serials_of_form form (js := s.lanes[l].sentJobs) fun j mem => (List.mem_filter.1 mem).1
  have fedSerials := serials_of_form form (js := s.lanes[l].fedJobs) fun j mem => (List.mem_filter.1 mem).1
  have flight : flightBlanks t.office.flight = (flightBlanks s.office.flight).filter fun b => !decide (b ∈ outBlanks s.lanes[l].out) := by
    have both : t.office.flight = withoutSerials (serialsOf s.lanes[l].sentJobs) (withoutSerials (serialsOf s.lanes[l].fedJobs) s.office.flight) := by
      rw [is]
    rw [both, flightBlanks_without, flightBlanks_without, ← serialsOf_blanks sentSerials, ← serialsOf_blanks fedSerials, List.filter_filter, outs]
    refine List.filter_congr fun b _ => ?_
    rw [Bool.eq_iff_iff]
    simp only [Bool.and_eq_true, Bool.not_eq_true', decide_eq_false_iff_not, List.mem_append, not_or]
    exact And.comm
  refine h.onLane up one (h.dropped up one (gone := outBlanks s.lanes[l].out) ?_ flight) ?_ (.of_fed fun j mem => ?_)
    (doubted := outBlanks s.lanes[l].fedJobs) (gone := []) ?_ ?_ ?_ (.same (by rw [is])) ?_
  · rw [out]
    exact List.Perm.refl _
  · rw [magT]
    exact magForm
  · rw [out] at mem
    exact absurd mem List.not_mem_nil
  · rw [is, ← doubtBlanks_eq l k fedSerials]
    exact List.map_append
  · rw [magT, blanks, out, outs]
    show List.Perm _ (_ ++ [] ++ (_ ++ []))
    rw [List.append_nil, List.append_nil]
    refine List.Perm.trans ?_ (List.perm_append_comm.append_right _)
    rw [List.append_assoc]
    exact List.perm_append_comm.append_left _
  · rw [is]
    exact List.Subperm.refl _
  · exact SoldCounted.same h.sold (by rw [is]) fun k => by rw [is]

end Sys2Proof.Machine
end

section
/-! Changes that leave the blanks where they are, and jobs that leave a lane's jobs out, keep the stock form (R16, R65, R122). -/

namespace Sys2Proof.Machine

/-! ### Changes that leave the blanks where they are -/

theorem outBlanks_still {js is : List Job} (still : List.Forall₂ JobStill js is) : outBlanks is = outBlanks js :=
  map_still (fun _ _ _ => rfl) still

theorem StockForm.unmoved {s t : State} (h : StockForm s) (up : t.office.startUp = none → s.office.startUp = none)
    (flight : t.office.flight = s.office.flight) (out : ∀ l : Lane, List.Forall₂ JobStill s.lanes[l].out t.lanes[l].out)
    (stock : t.stock = { s.stock with kinds := t.stock.kinds }) (table : t.issue.table = s.issue.table) : StockForm t := by
  have held : blanksHeld t = blanksHeld s := by
    rw [blanksHeld, blanksHeld, flight, magsBlanks, magsBlanks, stock]
  refine h.settle (by rw [stock]; exact h.runs) (fun l => by rw [stock]; exact h.mag l) (fun up' => ?_) (fun l => ?_) (gone := []) ?_ ?_
    (.same (by rw [stock])) (SoldCounted.same h.sold table fun k => by rw [stock])
  · have outs : outsBlanks t = outsBlanks s := List.flatMap_congr fun l _ => outBlanks_still (out l)
    rw [flight, outs]
    exact h.flying (up up')
  · rw [stock]
    exact (h.sent l).still (out l)
  · rw [held, List.append_nil]
  · rw [table]
    exact List.Subperm.refl _

theorem StockForm.stays {s t : State} (h : StockForm s) (up : s.office.startUp = none) (stays : Stays s t) : StockForm t :=
  h.unmoved (fun _ => up) stays.flight (fun l => (stays.lanes l).out) stays.stock stays.table

/-- Every lane's jobs out stand as they are. -/
theorem still_of_out {s t : State} (out : ∀ l : Lane, t.lanes[l].out = s.lanes[l].out) (l : Lane) :
    List.Forall₂ JobStill s.lanes[l].out t.lanes[l].out := by
  rw [out l]
  exact List.forall₂_same.2 fun _ _ => JobStill.refl _

/-! ### A job leaves the jobs out -/

theorem left_out {r : LaneRec} (apart : (r.out.map Job.buffer).Nodup) {j : Job} {rest : List Job} (out : r.out = j :: rest) :
    (r.left j.buffer).out = rest := by
  show r.out.filter _ = rest
  rw [out] at apart ⊢
  exact filter_other_buffer (fed := []) apart

theorem flightBlanks_one (k : StockKind) (n : Nat) (es : List FlightEntry) :
    flightBlanks (withoutSerial k n es) = (flightBlanks es).filter fun b => !decide (b ∈ [((k, some n) : Blank)]) := by
  rw [withoutSerial_one, flightBlanks_without]
  rfl

/-- The oldest job out leaves, its blank's outcome counted. -/
theorem StockForm.leaves {s t : State} {l : Lane} (h : StockForm s) (up : s.office.startUp = none) (one : OneLane l s t) {j : Job}
    {rest : List Job} {n : Nat} (out : s.lanes[l].out = j :: rest) (out' : t.lanes[l].out = rest) (serial : j.serial = some n)
    (mags : t.stock.mags[l] = s.stock.mags[l]) (doubts : t.stock.doubts = s.stock.doubts)
    (flight : t.office.flight = withoutSerial j.kind n s.office.flight)
    (table : (tickets t.issue.table).Subperm ([((j.kind, some n) : Blank)] ++ tickets s.issue.table))
    (counted : Counted s t [(j.kind, some n)]) (sold : SoldCounted t) : StockForm t := by
  have outs : outBlanks s.lanes[l].out = (j.kind, some n) :: outBlanks t.lanes[l].out := by
    rw [out, out', ← serial]
    rfl
  refine h.onLane up one (h.dropped up one (gone := [(j.kind, some n)]) ?_ ?_) ?_ ?_ (doubted := []) (gone := [(j.kind, some n)]) ?_ ?_
    table counted sold
  · rw [outs]
    exact List.perm_append_comm (l₁ := [_])
  · rw [flight]
    exact flightBlanks_one j.kind n _
  · rw [mags]
    exact h.mag l
  · rw [mags]
    exact (h.sent l).tail out out'
  · rw [doubts, List.append_nil]
  · rw [mags, outs, List.nil_append, List.append_assoc]
    exact (List.perm_append_comm (l₁ := [_])).append_left _

theorem ofKind_one (k q : StockKind) (n : Option Nat) : ofKind k [(q, n)] = if q = k then 1 else 0 := by
  unfold ofKind
  by_cases same : q = k
  · rw [if_pos same, List.countP_cons_of_pos (by simpa using same)]
    rfl
  · rw [if_neg same, List.countP_cons_of_neg (by simpa using same)]
    rfl

theorem out_of_head {js : List Job} {j : Job} (head : js.head? = some j) : ∃ rest, js = j :: rest := by
  cases js with
  | nil => exact (nomatch head)
  | cons i rest => exact ⟨rest, by rw [Option.some.inj head]⟩

theorem StockForm.issues {s : State} {l : Lane} (h : StockForm s) (up : s.office.startUp = none) (apart : (s.lanes[l].out.map Job.buffer).Nodup)
    {j : Job} {n : Nat} (head : s.lanes[l].out.head? = some j) (serial : j.serial = some n) :
    StockForm (issuedBench l j n (issuedDesk l j n s)) := by
  have desk := (issuedDesk_desk l j n).rest s
  obtain ⟨d, isD⟩ : ∃ d, issuedDesk l j n s = d := ⟨_, rfl⟩
  rw [isD] at desk ⊢
  obtain ⟨t, isT⟩ : ∃ t, issuedBench l j n d = t := ⟨_, rfl⟩
  have lanes : t.lanes = s.lanes.upd l (LaneRec.left j.buffer) := by
    rw [← isT, issuedBench_lanes, desk]
    rfl
  have stock : t.stock = { s.stock with counters := s.stock.counters.upd j.kind fun c => c.addIssued 1 } := by
    rw [← isT, issuedBench, leaveOut_eq, desk]
    rfl
  have flight : t.office.flight = withoutSerial j.kind n s.office.flight := by
    rw [← isT, issuedBench, leaveOut_eq, issuedRecords, dropFlight_eq, desk]
    rfl
  have table : t.issue.table = s.issue.table ++ [⟨j.kind, n, j.window, j.shift, j.tender, j.total, .issued⟩] := by
    rw [← isT, issuedBench, leaveOut_eq, desk]
    rfl
  rw [isT]
  obtain ⟨row, others⟩ := lanes_upd lanes
  obtain ⟨rest, out⟩ := out_of_head head
  have counters : t.stock.counters = s.stock.counters.upd j.kind fun c => c.addIssued 1 := by rw [stock]
  refine h.leaves up ⟨others, fun m _ => by rw [stock], by rw [stock]⟩ out (by rw [row]; exact left_out apart out) serial (by rw [stock])
    (by rw [stock]) flight ?_ (.upd (n := 1) counters (fun _ => rfl) ?_ fun k => ofKind_one k j.kind _) fun k => ?_
  · rw [table, tickets, List.map_append]
    exact List.perm_append_comm.subperm
  · unfold Counters.outcomes Counters.addIssued
    dsimp only
    omega
  · have before := h.sold k
    have last : ([⟨j.kind, n, j.window, j.shift, j.tender, j.total, .issued⟩] : List IssueEntry).countP
        (fun e => decide (e.kind = k ∧ e.state = .issued)) = if j.kind = k then 1 else 0 := by
      by_cases same : j.kind = k
      · rw [if_pos same, List.countP_cons_of_pos (by simpa using same)]
        rfl
      · rw [if_neg same, List.countP_cons_of_neg (by simpa using same)]
        rfl
    rw [table, List.countP_append, last, counters, Table.upd_get]
    by_cases same : k = j.kind
    · subst same
      rw [if_pos rfl, if_pos rfl]
      exact Nat.succ_le_succ before
    · rw [if_neg same, if_neg fun c => same c.symm]
      exact before

theorem StockForm.spoils {s : State} {l : Lane} (h : StockForm s) (up : s.office.startUp = none) (apart : (s.lanes[l].out.map Job.buffer).Nodup)
    {j : Job} {n : Nat} (c : SpoilCause) (head : s.lanes[l].out.head? = some j) (serial : j.serial = some n) :
    StockForm (spoiltBench l j [n] (spoilHeld l j.kind n (spoiltDesk l j c [n] s))) := by
  have desk := (spoiltDesk_desk l j c [n]).rest s
  obtain ⟨d, isD⟩ : ∃ d, spoiltDesk l j c [n] s = d := ⟨_, rfl⟩
  rw [isD] at desk ⊢
  obtain ⟨t, isT⟩ : ∃ t, spoiltBench l j [n] (spoilHeld l j.kind n d) = t := ⟨_, rfl⟩
  have lanes : t.lanes = s.lanes.upd l fun r => (r.spoiltOne.left j.buffer).retried j [n] := by
    rw [← isT, spoiltBench_eq, spoilHeld_eq, desk]
    exact upd_twice s.lanes l LaneRec.spoiltOne fun r => (r.left j.buffer).retried j [n]
  have stock : t.stock = { s.stock with counters := s.stock.counters.upd j.kind fun c => { c with spoilt := c.spoilt + 1 } } := by
    rw [← isT, spoiltBench_eq, spoilHeld_eq, desk]
    rfl
  have flight : t.office.flight = withoutSerial j.kind n s.office.flight := by
    rw [← isT, spoiltBench_eq, spoilHeld_eq, desk]
    rfl
  have table : t.issue.table = s.issue.table := by
    rw [← isT, spoiltBench_eq, spoilHeld_eq, desk]
    dsimp only
    split <;> rfl
  rw [isT]
  obtain ⟨row, others⟩ := lanes_upd lanes
  obtain ⟨rest, out⟩ := out_of_head head
  have same : s.lanes[l].spoiltOne.out = s.lanes[l].out := by rw [spoiltOne_same]
  have out' : t.lanes[l].out = rest := by
    rw [row]
    exact left_out (r := s.lanes[l].spoiltOne) (by rw [same]; exact apart) (same.trans out)
  have counters : t.stock.counters = s.stock.counters.upd j.kind fun c => { c with spoilt := c.spoilt + 1 } := by rw [stock]
  refine h.leaves up ⟨others, fun m _ => by rw [stock], by rw [stock]⟩ out out' serial (by rw [stock]) (by rw [stock]) flight ?_
    (.upd (n := 1) counters (fun _ => rfl) ?_ fun k => ofKind_one k j.kind _)
    (SoldCounted.same h.sold table (issued_upd counters fun _ => Nat.le_refl _))
  · rw [table]
    exact (List.sublist_append_right _ _).subperm
  · unfold Counters.outcomes
    dsimp only
    omega

/-! ### A blank spoilt at next, and a job that is fed -/

theorem awaitingMark_eq (s : State) (l : Lane) : awaitingMark s l = s.lanes[l].sentJobs.head? := List.head?_filter.symm

theorem StockForm.nextSpoilt {s : State} {l : Lane} (h : StockForm s) (up : s.office.startUp = none) (none' : awaitingMark s l = none) :
    StockForm (spoilNext l s) := by
  rw [awaitingMark_eq, List.head?_eq_none_iff] at none'
  have fed : ∀ j ∈ s.lanes[l].out, j.state ≠ .sent := fun j mem sent => by
    have : j ∈ s.lanes[l].sentJobs := List.mem_filter.2 ⟨mem, decide_eq_true sent⟩
    rw [none'] at this
    exact absurd this List.not_mem_nil
  unfold spoilNext
  split
  · exact h
  next m mag =>
    split
    next stocked =>
      obtain ⟨t, isT⟩ : ∃ t, countSpoilt l m.kind (s.setMag l (some m.consume)) = t := ⟨_, rfl⟩
      have counters : t.stock.counters = s.stock.counters.upd m.kind fun c => c.addSpoilt 1 := by rw [← isT]; rfl
      have mags : t.stock.mags = s.stock.mags.upd l fun _ => some m.consume := by rw [← isT]; rfl
      have rest : t.stock.runs = s.stock.runs ∧ t.stock.doubts = s.stock.doubts ∧ t.issue = s.issue ∧ t.office = s.office := by
        rw [← isT]
        exact ⟨rfl, rfl, rfl, rfl⟩
      have row : t.lanes[l] = s.lanes[l].spoiltOne := by
        rw [← isT]
        exact countSpoilt_lane l m.kind (s.setMag l (some m.consume))
      have others : OtherLanes l s t := by
        rw [← isT]
        exact fun m other => State.onLane_ne _ _ other
      have out : t.lanes[l].out = s.lanes[l].out := by rw [row, spoiltOne_same]
      rw [isT]
      obtain ⟨runs, doubts, issue, office⟩ := rest
      obtain ⟨magT, otherMags⟩ := mags_upd mags
      have one : OneLane l s t := ⟨others, otherMags, runs⟩
      have held : s.stock.mags[l] = some m := mag
      refine h.onLane up one (h.dropped up one (gone := []) ?_ ?_) ?_ (.of_fed ?_) (doubted := []) (gone := [(m.kind, some m.next)]) ?_ ?_ ?_
        (.upd (n := 1) counters (fun _ => rfl) ?_ fun k => ofKind_one k m.kind _) ?_
      · rw [out, List.append_nil]
      · rw [office]
        exact (List.filter_eq_self.2 fun _ _ => by simp).symm
      · rw [magT]
        intro g is
        obtain rfl := Option.some.inj is
        obtain ⟨low, -⟩ := h.mag l m held
        exact ⟨Nat.le_succ_of_le low, Nat.succ_le_succ stocked⟩
      · rw [out]
        exact fed
      · rw [doubts, List.append_nil]
      · rw [held, magT, out, magBlanks_next stocked, List.nil_append]
        exact List.perm_append_comm (l₁ := [_])
      · rw [issue]
        exact (List.sublist_append_right _ _).subperm
      · unfold Counters.outcomes Counters.addSpoilt
        dsimp only
        omega
      · exact SoldCounted.same h.sold (by rw [issue]) (issued_upd counters fun _ => Nat.le_refl _)
    · exact h

theorem StockForm.feeds {s : State} {l : Lane} (h : StockForm s) (up : s.office.startUp = none) (apart : (s.lanes[l].out.map Job.buffer).Nodup)
    {j : Job} (awaits : awaitingMark s l = some j) : StockForm (feedJob l j s) := by
  rw [awaitingMark_eq] at awaits
  obtain ⟨rest, sent⟩ := out_of_head awaits
  obtain ⟨split, run⟩ := (h.sent l).split
  obtain ⟨g, mag, upTo⟩ := run (by rw [sent]; exact List.cons_ne_nil _ _)
  rw [sent] at split upTo
  obtain ⟨f, isF⟩ : ∃ f : Job → Job, (fun i => if i.buffer = j.buffer then { i with state := .fed } else i) = f := ⟨_, rfl⟩
  have blank : ∀ i, ((f i).kind, (f i).serial) = (i.kind, i.serial) := fun i => by
    rw [← isF]
    dsimp only
    split <;> rfl
  have unsent : ∀ i, i.state ≠ .sent → (f i).state ≠ .sent := fun i other => by
    rw [← isF]
    dsimp only
    split
    · exact fun c => (nomatch c)
    · exact other
  have fed : (f j).state = .fed := by
    rw [← isF]
    exact congrArg Job.state (if_pos rfl)
  have keep : ∀ i ∈ rest, f i = i := fun i mem => by
    rw [split, List.map_append, List.map_cons] at apart
    have first := (List.nodup_cons.1 apart.of_append_right).1
    rw [← isF]
    exact if_neg fun same => first (by rw [← same]; exact List.mem_map_of_mem mem)
  have row : (feedJob l j s).lanes[l].out = s.lanes[l].out.map f := by
    rw [← isF]
    exact congrArg LaneRec.out (State.onLane_same _ _ _)
  have one : OneLane l s (feedJob l j s) := ⟨(LaneOnly.onOut l _ _ s).others, fun _ _ => rfl, rfl⟩
  obtain ⟨t, isT⟩ : ∃ t, feedJob l j s = t := ⟨_, rfl⟩
  have facts : t.stock = s.stock ∧ t.issue = s.issue ∧ t.office = s.office := by
    rw [← isT]
    exact ⟨rfl, rfl, rfl⟩
  rw [isT] at row one ⊢
  obtain ⟨stock, issue, office⟩ := facts
  have out : outBlanks t.lanes[l].out = outBlanks s.lanes[l].out := by
    rw [row, outBlanks, List.map_map]
    exact List.map_congr_left fun i _ => blank i
  refine h.onLane up one (h.dropped up one (gone := []) ?_ ?_) ?_ ?_ (doubted := []) (gone := []) ?_ ?_ ?_ (.same (by rw [stock])) ?_
  · rw [out, List.append_nil]
  · rw [office]
    exact (List.filter_eq_self.2 fun _ _ => by simp).symm
  · rw [stock]
    exact h.mag l
  · rw [stock, mag]
    refine .of_parts (fed := (s.lanes[l].fedJobs ++ [j]).map f) (sent := rest) ?_ (fun i mem => ?_) (fun i mem => ?_) fun some' => ⟨g, rfl, ?_⟩
    · rw [row, split]
      have kept : rest.map f = rest := (List.map_congr_left keep).trans (List.map_id _)
      rw [List.map_append, List.map_append, List.map_cons, kept, List.append_assoc]
      rfl
    · obtain ⟨q, old, rfl⟩ := List.mem_map.1 mem
      rcases List.mem_append.1 old with before | last
      · exact unsent q (fedJobs_unsent before)
      · rw [List.mem_singleton.1 last, fed]
        exact fun c => (nomatch c)
    · have : i ∈ s.lanes[l].sentJobs := by
        rw [sent]
        exact List.mem_cons_of_mem j mem
      exact of_decide_eq_true (List.mem_filter.1 this).2
    · have low := upTo.low
      have serials := upTo.serials
      rw [List.length_cons] at low serials
      have after : g.next - (rest.length + 1) + 1 = g.next - rest.length := by omega
      refine ⟨by omega, ?_⟩
      rw [blanksFrom, List.range'_succ, List.map_cons, after] at serials
      exact (List.cons.inj serials).2
  · rw [stock, List.append_nil]
  · rw [stock, out, List.append_nil, List.append_nil]
  · rw [issue]
    exact List.Subperm.refl _
  · exact SoldCounted.same h.sold (by rw [issue]) fun k => by rw [stock]

end Sys2Proof.Machine
end

section
/-! A double feed keeps the stock form (R124, R127). -/

namespace Sys2Proof.Machine

/-- The situation at a double feed, as the forms give it. -/
theorem StockForm.doubling {s : State} {l : Lane} (h : StockForm s) (apart : (s.lanes[l].out.map Job.buffer).Nodup) {j : Job} {n : Nat}
    (working : Working s l) (awaits : awaitingMark s l = some j) (serial : j.serial = some n) :
    ∃ m rest, UpToNext (j :: rest) m ∧ Doubling s l m s.lanes[l].fedJobs rest j n := by
  rw [awaitingMark_eq] at awaits
  obtain ⟨rest, sent⟩ := out_of_head awaits
  obtain ⟨split, run⟩ := (h.sent l).split
  obtain ⟨m, mag, upTo⟩ := run (by rw [sent]; exact List.cons_ne_nil _ _)
  rw [sent] at split upTo
  have low := upTo.low
  have serials := upTo.serials
  rw [List.length_cons] at low serials
  have first : (j.kind, j.serial) = (m.kind, some (m.next - (rest.length + 1))) := (List.cons.inj serials).1
  have start : n = m.next - (rest.length + 1) := Option.some.inj (serial.symm.trans (Prod.mk.inj first).2)
  refine ⟨m, rest, upTo, working, mag, split, fun i mem => fedJobs_unsent mem, fun i mem => ⟨?_, ?_⟩, ?_, by omega, apart⟩
  · rw [← sent] at mem
    exact of_decide_eq_true (List.mem_filter.1 mem).2
  · have blank : ((i.kind, i.serial) : Blank) ∈ outBlanks (j :: rest) := List.mem_map_of_mem mem
    rw [serials] at blank
    exact (mem_blanksFrom.1 blank).1
  · have second := congrArg (List.map Prod.snd) serials
    rw [outBlanks, blanksFrom, List.map_map, List.map_map, ← start] at second
    exact second

theorem lostAt_length {rest : List Job} {m : Loaded} {n : Nat} (next : m.next = n + rest.length + 1) (top : m.next ≤ m.last + 1) :
    (lostAt rest m n).length ≤ 2 ∧ n + (lostAt rest m n).length ≤ m.last + 1 := by
  unfold lostAt
  split
  next h =>
    obtain ⟨rfl, spent⟩ := h
    exact ⟨Nat.le_succ 1, by rw [List.length_nil] at next; show n + 1 ≤ _; omega⟩
  next h =>
    refine ⟨Nat.le_refl 2, ?_⟩
    show n + 2 ≤ _
    cases rest with
    | nil =>
      have stock : ¬ m.last < m.next := fun c => h ⟨rfl, c⟩
      rw [List.length_nil] at next
      omega
    | cons i rest =>
      rw [List.length_cons] at next
      omega

theorem doubled_out (st : Settings) (fed rest : List Job) (j : Job) (lost : List Nat) (r : LaneRec) : (r.doubled st fed rest j lost).out = fed := by
  rw [LaneRec.doubled, flushLane_link]

theorem StockForm.afterDoubling {s d : State} {l : Lane} (h : StockForm s) (up : s.office.startUp = none) {m : Loaded} {rest : List Job} {j : Job}
    {n : Nat} (upTo : UpToNext (j :: rest) m) (doubling : Doubling s l m s.lanes[l].fedJobs rest j n)
    (lanes : d.lanes = s.lanes) (stock : d.stock = s.stock) (office : d.office = s.office) (table : d.issue = s.issue) :
    StockForm (doubledBench l j n (lostAt rest m n) d) := by
  have is := doubledBench_eq (doubling.of_same (t := d) (by rw [lanes]) (by rw [lanes]) (by rw [stock]))
  obtain ⟨t, isT⟩ : ∃ t, doubledBench l j n (lostAt rest m n) d = t := ⟨_, rfl⟩
  have mag := doubling.mag
  obtain ⟨low, top⟩ := h.mag l m mag
  have next := doubling.next
  obtain ⟨-, high⟩ := lostAt_length next top
  obtain ⟨c, isC⟩ : ∃ c, (lostAt rest m n).length = c := ⟨_, rfl⟩
  rw [isT, isC, stock, office, lanes] at is
  rw [isC] at high
  rw [isT]
  obtain ⟨row, others⟩ := lanes_upd (s := s) (t := t) (l := l)
    (f := LaneRec.doubled s.office.settings s.lanes[l].fedJobs rest j (lostAt rest m n)) (by rw [is])
  obtain ⟨magT, otherMags⟩ := mags_upd (s := s) (t := t) (l := l) (f := fun _ => some { m with next := n + c }) (by rw [is])
  have one : OneLane l s t := ⟨others, otherMags, by rw [is]⟩
  have out : t.lanes[l].out = s.lanes[l].fedJobs := by rw [row, doubled_out]
  have bottom := upTo.low
  rw [List.length_cons] at bottom
  have sent : outBlanks (j :: rest) = blanksFrom m.kind n (rest.length + 1) := by
    have serials := upTo.serials
    have start : m.next - (j :: rest).length = n := by rw [List.length_cons]; omega
    rw [start] at serials
    exact serials
  have split : s.lanes[l].out = s.lanes[l].fedJobs ++ j :: rest := doubling.out
  have outs : outBlanks s.lanes[l].out = outBlanks s.lanes[l].fedJobs ++ outBlanks (j :: rest) := (congrArg outBlanks split).trans List.map_append
  have flight : flightBlanks t.office.flight = (flightBlanks s.office.flight).filter fun b => !decide (b ∈ outBlanks (j :: rest)) := by
    rw [is, sent, flightBlanks, flightBlanks, List.filter_map]
    refine congrArg _ (List.filter_congr fun e _ => congrArg (fun b => !b) (decide_eq_decide.2 ?_))
    rw [mem_blanksFrom]
    constructor
    · rintro ⟨kind, from', below⟩
      exact ⟨kind, e.serial, rfl, from', by omega⟩
    · rintro ⟨kind, x, same, from', below⟩
      obtain rfl := Option.some.inj same
      exact ⟨kind, from', by omega⟩
  have counters : t.stock.counters = s.stock.counters.upd m.kind fun x => { x with spoilt := x.spoilt + c } := by rw [is]
  have tableT : t.issue.table = s.issue.table := by
    rw [is, table]
    dsimp only
    split <;> rfl
  refine h.onLane up one (h.dropped up one (gone := outBlanks (j :: rest)) ?_ flight) ?_ (.of_fed fun i mem => ?_)
    (doubted := []) (gone := blanksFrom m.kind n c) ?_ ?_ ?_ (.upd counters (fun _ => rfl) ?_ fun k => ofKind_blanksFrom k m.kind n c) ?_
  · rw [out, outs]
  · rw [magT]
    intro g same
    obtain rfl := Option.some.inj same
    exact ⟨by dsimp only; omega, high⟩
  · rw [out] at mem
    exact fedJobs_unsent mem
  · rw [is, List.append_nil]
  · have before : outBlanks (j :: rest) ++ magBlanks (some m) = blanksFrom m.kind n (m.last + 1 - n) := by
      have count : m.last + 1 - n = (rest.length + 1) + (m.last + 1 - m.next) := by omega
      have start : n + (rest.length + 1) = m.next := by omega
      rw [count, blanksFrom_append, start, sent]
      rfl
    have after : blanksFrom m.kind n c ++ magBlanks (some { m with next := n + c }) = blanksFrom m.kind n (m.last + 1 - n) := by
      have count : m.last + 1 - n = c + (m.last + 1 - (n + c)) := by omega
      rw [count, blanksFrom_append]
      rfl
    rw [mag, magT, out, outs, List.nil_append, List.perm_iff_count]
    intro b
    have both := congrArg (List.count b) (before.trans after.symm)
    simp only [List.count_append] at both ⊢
    omega
  · rw [tableT]
    exact (List.sublist_append_right _ _).subperm
  · unfold Counters.outcomes
    dsimp only
    omega
  · exact SoldCounted.same h.sold tableT (issued_upd counters fun _ => Nat.le_refl _)

theorem countFault_out (l x : Lane) (s : State) : (countFault l s).lanes[x].out = s.lanes[x].out := by
  unfold countFault State.onAct
  by_cases same : x = l
  · rw [same, State.onLane_same]
    split <;> rfl
  · rw [State.onLane_ne _ _ same]

theorem StockForm.doubles {s : State} {l : Lane} (h : StockForm s) (up : s.office.startUp = none) (apart : (s.lanes[l].out.map Job.buffer).Nodup)
    {j : Job} {n : Nat} {lost : List Nat} (working : Working s l) (awaits : awaitingMark s l = some j) (serial : j.serial = some n)
    (both : lost = n :: (secondBlank l j n (firstBlank l j n s)).2) : StockForm (doubledState l j n lost (countFed l 2 s)) := by
  obtain ⟨m, rest, upTo, doubling⟩ := h.doubling apart working awaits serial
  obtain ⟨-, -, -, -, isLost, -⟩ := doubling.blanks
  rw [← both] at isLost
  rw [isLost]
  obtain ⟨d, isD⟩ : ∃ d, spoiltDesk l j .doubleFeed (lostAt rest m n) s = d := ⟨_, rfl⟩
  have desk := spoiltDesk_desk l j .doubleFeed (lostAt rest m n)
  have apart' := desk.rest s
  have bench : spoiltDesk l j .doubleFeed (lostAt rest m n) (countFed l 2 s) = countFed l 2 (spoiltDesk l j .doubleFeed (lostAt rest m n) s) :=
    desk.commutes (Bench.onAct l _) s
  rw [isD] at apart' bench
  have benched := h.afterDoubling (d := d) up upTo doubling (by rw [apart']; rfl) (by rw [apart']; rfl) (by rw [apart']; rfl)
    (by rw [apart']; rfl)
  obtain ⟨t, isT⟩ : ∃ t, doubledState l j n (lostAt rest m n) (countFed l 2 s) = t := ⟨_, rfl⟩
  have same : doubledBench l j n (lostAt rest m n) d = countFault l t := by
    rw [← isT, doubledState, bench]
    rfl
  rw [same] at benched
  rw [isT]
  exact benched.unmoved (t := t) id rfl (still_of_out fun x => (countFault_out l x t).symm) rfl rfl

end Sys2Proof.Machine
end

section
/-! Changes of the Stock Register and the Issue Table keep the stock form (R9 to R13, R18, R60, R72, R73, R143). -/

namespace Sys2Proof.Machine

/-! ### The blanks of the Office Runs -/

theorem mem_runBlanks {rs : List Run} {k : StockKind} {o : Option Nat} : (k, o) ∈ runBlanks rs ↔ ∃ n, o = some n ∧ Holds rs k n := by
  rw [runBlanks, List.mem_flatMap]
  constructor
  · rintro ⟨r, mem, blank⟩
    obtain ⟨kind, n, same, low, high⟩ := mem_blanksFrom.1 blank
    exact ⟨n, same, r, mem, kind.symm, low, high⟩
  · rintro ⟨n, same, r, mem, kind, low, high⟩
    exact ⟨r, mem, mem_blanksFrom.2 ⟨kind.symm, n, same, low, high⟩⟩

theorem nodup_runBlanks {rs : List Run} (h : RunsForm rs) : (runBlanks rs).Nodup := by
  refine List.nodup_flatMap.2 ⟨fun r _ => nodup_blanksFrom _ _ _, h.2.imp fun {a b} gap => ?_⟩
  rintro ⟨k, o⟩ inA inB
  obtain ⟨kindA, n, same, lowA, highA⟩ := mem_blanksFrom.1 inA
  obtain ⟨kindB, m, same', lowB, highB⟩ := mem_blanksFrom.1 inB
  obtain rfl : n = m := Option.some.inj (same.symm.trans same')
  have apart := Run.Gap.of_kind gap (kindA.symm.trans kindB)
  omega

/-- A merge adds the range (R3). -/
theorem Merged.blanks_perm {k : StockKind} {f c : Nat} {rs rs' : List Run} (h : Merged k f c rs rs') (form : RunsForm rs)
    (free : FreeOf rs k f c) : (runBlanks rs').Perm (blanksFrom k f c ++ runBlanks rs) := by
  refine (List.perm_ext_iff_of_nodup (nodup_runBlanks h.form) ?_).2 ?_
  · refine List.nodup_append.2 ⟨nodup_blanksFrom _ _ _, nodup_runBlanks form, ?_⟩
    rintro ⟨q, o⟩ inRange _ inRuns rfl
    obtain ⟨rfl, n, rfl, low, high⟩ := mem_blanksFrom.1 inRange
    obtain ⟨m, same, held⟩ := mem_runBlanks.1 inRuns
    obtain rfl := Option.some.inj same
    exact free n low high held
  · rintro ⟨q, o⟩
    rw [List.mem_append, mem_blanksFrom, mem_runBlanks, mem_runBlanks]
    constructor
    · rintro ⟨n, same, held⟩
      rcases (h.holds q n).1 held with old | ⟨kind, low, high⟩
      · exact .inr ⟨n, same, old⟩
      · exact .inl ⟨kind, n, same, low, high⟩
    · rintro (⟨kind, n, same, low, high⟩ | ⟨n, same, old⟩)
      · exact ⟨n, same, (h.holds q n).2 (.inr ⟨kind, low, high⟩)⟩
      · exact ⟨n, same, (h.holds q n).2 (.inl old)⟩

/-- A split takes the range out (R4). -/
theorem Taken.blanks_perm {k : StockKind} {f c : Nat} {rs rs' : List Run} (h : Taken k f c rs rs') (form : RunsForm rs)
    (inside : ∀ n, f ≤ n → n < f + c → Holds rs k n) : (runBlanks rs).Perm (blanksFrom k f c ++ runBlanks rs') := by
  refine (List.perm_ext_iff_of_nodup (nodup_runBlanks form) ?_).2 ?_
  · refine List.nodup_append.2 ⟨nodup_blanksFrom _ _ _, nodup_runBlanks h.form, ?_⟩
    rintro ⟨q, o⟩ inRange _ inRuns rfl
    obtain ⟨rfl, n, rfl, low, high⟩ := mem_blanksFrom.1 inRange
    obtain ⟨m, same, held⟩ := mem_runBlanks.1 inRuns
    obtain rfl := Option.some.inj same
    exact ((h.holds q n).1 held).2 ⟨rfl, low, high⟩
  · rintro ⟨q, o⟩
    rw [List.mem_append, mem_blanksFrom, mem_runBlanks, mem_runBlanks]
    constructor
    · rintro ⟨n, same, held⟩
      by_cases range : q = k ∧ f ≤ n ∧ n < f + c
      · exact .inl ⟨range.1, n, same, range.2.1, range.2.2⟩
      · exact .inr ⟨n, same, (h.holds q n).2 ⟨held, range⟩⟩
    · rintro (⟨rfl, n, same, low, high⟩ | ⟨n, same, old⟩)
      · exact ⟨n, same, inside n low high⟩
      · exact ⟨n, same, ((h.holds q n).1 old).1⟩

/-! ### A change at the desk of the stock -/

namespace StockForm

variable {s t : State}

/-- The stock form after a change of the runs, of one magazine and of the blanks in doubt. -/
theorem restocked (h : StockForm s) (l : Lane) (shelved : Shelved s t) (mags : ∀ m : Lane, m ≠ l → t.stock.mags[m] = s.stock.mags[m])
    (runs : RunsForm t.stock.runs) (mag : MagForm t.stock.mags[l]) (sent : SentRun s.lanes[l] t.stock.mags[l]) {gone : List Blank}
    (perm : (runBlanks s.stock.runs ++ magBlanks s.stock.mags[l] ++ doubtBlanks s.stock.doubts).Perm
      (runBlanks t.stock.runs ++ magBlanks t.stock.mags[l] ++ doubtBlanks t.stock.doubts ++ gone))
    (table : (tickets t.issue.table).Subperm (gone ++ tickets s.issue.table)) (counted : Counted s t gone) (sold : SoldCounted t) :
    StockForm t := by
  have office := shelved.office
  have outs : outsBlanks t = outsBlanks s := by rw [outsBlanks, outsBlanks, shelved.lanes]
  obtain ⟨rest, magsS, magsT⟩ : ∃ rest, (magsBlanks s).Perm (magBlanks s.stock.mags[l] ++ rest) ∧
      (magsBlanks t).Perm (magBlanks t.stock.mags[l] ++ rest) := flatMap_split fun m other => by rw [mags m other]
  refine h.settle runs (fun m => ?_) (fun up => ?_) (fun m => ?_) ?_ table counted sold
  · by_cases same : m = l
    · rw [same]
      exact mag
    · rw [mags m same]
      exact h.mag m
  · rw [office, outs]
    rw [office] at up
    exact h.flying up
  · rw [shelved.lanes]
    by_cases same : m = l
    · rw [same]
      exact sent
    · rw [mags m same]
      exact h.sent m
  · rw [blanksHeld, blanksHeld, office, List.perm_iff_count]
    intro b
    have before := magsS.count_eq b
    have after := magsT.count_eq b
    have both := perm.count_eq b
    simp only [List.count_append] at before after both ⊢
    omega

/-- The stock form after a change of the Issue Table and the counters. -/
theorem retabled (h : StockForm s) (shelved : Shelved s t) (runs : t.stock.runs = s.stock.runs) (mags : t.stock.mags = s.stock.mags)
    {gone : List Blank} (doubts : (doubtBlanks s.stock.doubts).Perm (doubtBlanks t.stock.doubts ++ gone))
    (table : (tickets t.issue.table).Subperm (gone ++ tickets s.issue.table)) (counted : Counted s t gone) (sold : SoldCounted t) :
    StockForm t := by
  refine h.restocked 0 shelved (fun m _ => by rw [mags]) (by rw [runs]; exact h.runs) (by rw [mags]; exact h.mag 0)
    (by rw [mags]; exact h.sent 0) ?_ table counted sold
  rw [runs, mags, List.append_assoc _ _ gone]
  exact doubts.append_left _

/-! ### Receipts, magazines and realigns (R9 to R13, R18) -/

theorem meets_one {f c n : Nat} (low : f ≤ n) (high : n < f + c) : meets f c n 1 = true := by
  unfold meets
  exact decide_eq_true ⟨by omega, by omega, by omega, by omega⟩

theorem meets_range {f c g d n : Nat} (low : f ≤ n) (high : n < f + c) (low' : g ≤ n) (high' : n < g + d) : meets f c g d = true := by
  unfold meets
  exact decide_eq_true ⟨by omega, by omega, by omega, by omega⟩

/-- A range that overlaps nothing has no blank that the part holds or has sold. -/
theorem apart_of_overlaps (h : StockForm s) (up : s.office.startUp = none) {k : StockKind} {f c : Nat} (apart : overlaps s k f c = false)
    {n : Nat} (low : f ≤ n) (high : n < f + c) : (k, some n) ∉ blanksHeld s ++ tickets s.issue.table := by
  unfold overlaps at apart
  simp only [Bool.or_eq_false_iff, List.any_eq_false, Bool.and_eq_true, decide_eq_true_eq, not_and, Bool.not_eq_true] at apart
  obtain ⟨⟨⟨⟨runs, mags⟩, outs⟩, doubts⟩, table⟩ := apart
  have one := meets_one low high
  intro mem
  rw [blanksHeld, List.mem_append, List.mem_append, List.mem_append, List.mem_append, (h.flying up).mem_iff] at mem
  rcases mem with (inRuns | inMags | inOuts | inDoubts) | inTable
  · obtain ⟨r, old, blank⟩ := List.mem_flatMap.1 inRuns
    obtain ⟨kind, x, same, low', high'⟩ := mem_blanksFrom.1 blank
    obtain rfl := Option.some.inj same
    exact absurd (meets_range low high low' high') (by rw [runs r old kind.symm]; exact Bool.false_ne_true)
  · obtain ⟨l, -, blank⟩ := List.mem_flatMap.1 inMags
    have none' := mags l (List.mem_finRange l)
    cases mag : s.stock.mags[l] with
    | none =>
      rw [mag] at blank
      exact absurd blank List.not_mem_nil
    | some m =>
      rw [mag] at blank
      rw [State.mag, mag] at none'
      obtain ⟨kind, x, same, low', high'⟩ := mem_blanksFrom.1 blank
      obtain rfl := Option.some.inj same
      simp only [Option.any_some, Bool.and_eq_false_iff, decide_eq_false_iff_not] at none'
      rcases none' with other | free
      · exact other kind.symm
      · exact absurd (meets_range low high low' high') (by rw [free]; exact Bool.false_ne_true)
  · obtain ⟨l, -, blank⟩ := List.mem_flatMap.1 inOuts
    obtain ⟨j, old, same⟩ := List.mem_map.1 blank
    obtain ⟨kind, serial⟩ := Prod.mk.inj same
    have free := outs l (List.mem_finRange l) j old kind
    rw [serial, Option.any_some, one] at free
    exact (nomatch free)
  · obtain ⟨d, old, same⟩ := List.mem_map.1 inDoubts
    obtain ⟨kind, serial⟩ := Prod.mk.inj same
    have free := doubts d old kind
    rw [Option.some.inj serial, one] at free
    exact (nomatch free)
  · obtain ⟨e, old, same⟩ := List.mem_map.1 inTable
    obtain ⟨kind, serial⟩ := Prod.mk.inj same
    have free := table e old kind
    rw [Option.some.inj serial, one] at free
    exact (nomatch free)

theorem received (h : StockForm s) (up : s.office.startUp = none) {k : StockKind} {f c : Nat} {rs : List Run} (some' : 1 ≤ c)
    (apart : overlaps s k f c = false) (merges : mergeRun k f c s.stock.runs = some rs) :
    StockForm ((s.onStock fun r => { r with runs := rs }).onCounters k fun n => n.addReceived c) := by
  have none' : ∀ n, f ≤ n → n < f + c → (k, some n) ∉ blanksHeld s ++ tickets s.issue.table := fun n low high =>
    h.apart_of_overlaps up apart low high
  have free : FreeOf s.stock.runs k f c := fun n low high held => none' n low high
    (List.mem_append_left _ (List.mem_append_left _ (mem_runBlanks.2 ⟨n, rfl, held⟩)))
  have merged := mergeRun_merged some' h.runs free merges
  have blanks := merged.blanks_perm h.runs free
  obtain ⟨t, isT⟩ : ∃ t, ((s.onStock fun r => { r with runs := rs }).onCounters k fun n => n.addReceived c) = t := ⟨_, rfl⟩
  have stock : t.stock = { s.stock with runs := rs, counters := s.stock.counters.upd k fun n => n.addReceived c } := by rw [← isT]; rfl
  have rest : t.lanes = s.lanes ∧ t.office = s.office ∧ t.issue = s.issue := by rw [← isT]; exact ⟨rfl, rfl, rfl⟩
  rw [isT]
  obtain ⟨lanes, office, issue⟩ := rest
  have counters : t.stock.counters = s.stock.counters.upd k fun n => n.addReceived c := by rw [stock]
  have held : (blanksHeld t).Perm (blanksFrom k f c ++ blanksHeld s) := by
    have mags : magsBlanks t = magsBlanks s := by rw [magsBlanks, magsBlanks, stock]
    rw [blanksHeld, blanksHeld, mags, office, stock, ← List.append_assoc (blanksFrom k f c)]
    exact blanks.append_right _
  refine ⟨by rw [stock]; exact merged.form, fun l => by rw [stock]; exact h.mag l, (single_iff t).2 ?_, (conserved_iff t).1 fun q => ?_,
    SoldCounted.same h.sold (by rw [issue]) (issued_upd counters fun _ => Nat.le_refl _), fun _ => ?_, fun l => ?_⟩
  · rw [issue, (held.append_right _).nodup_iff, List.append_assoc]
    refine List.nodup_append.2 ⟨nodup_blanksFrom _ _ _, h.nodup, ?_⟩
    rintro ⟨q, o⟩ inRange _ old rfl
    obtain ⟨rfl, n, rfl, low, high⟩ := mem_blanksFrom.1 inRange
    exact none' n low high old
  · have before := h.counted q
    rw [ofKind_perm held, ofKind_append, ofKind_blanksFrom, counters, Table.upd_get]
    by_cases same : q = k
    · subst same
      rw [if_pos rfl, if_pos rfl]
      show s.stock.counters[q].received + c = c + _ + s.stock.counters[q].outcomes
      omega
    · rw [if_neg same, if_neg fun e => same e.symm, before]
      omega
  · have outs : outsBlanks t = outsBlanks s := by rw [outsBlanks, outsBlanks, lanes]
    have flying := h.flying up
    rw [← outs, ← office] at flying
    exact flying
  · rw [lanes, stock]
    exact h.sent l

end StockForm

end Sys2Proof.Machine
end

section
/-! Magazines loaded, unloaded and realigned, blanks declared, and tickets voided, refunded and evicted keep the stock form (R12, R13,
R18, R60, R72, R73, R143). -/

namespace Sys2Proof.Machine

namespace StockForm

variable {s t : State}

theorem loaded (h : StockForm s) {l : Lane} {k : StockKind} {f c : Nat} {r : Run} (some' : 1 ≤ c) (out : s.lanes[l].out = [])
    (empty : s.stock.mags[l] = none) (run : runHolding k f c s.stock.runs = some r) :
    StockForm ((s.onStock fun r => { r with runs := takeRange k f c r.runs }).setMag l (some (loadedWith k f c))) := by
  have inside := List.find?_some (p := fun r : Run => r.holds k f c) run
  have mem : r ∈ s.stock.runs := List.mem_of_find?_eq_some run
  obtain ⟨kind, low, high⟩ : r.kind = k ∧ r.first ≤ f ∧ f + c ≤ r.first + r.count := of_decide_eq_true inside
  obtain ⟨taken, -⟩ := takeRange_taken some' h.runs mem kind low high
  have blanks := taken.blanks_perm h.runs fun n from' below => ⟨r, mem, kind, by omega, by omega⟩
  obtain ⟨t, isT⟩ : ∃ t, (s.onStock fun r => { r with runs := takeRange k f c r.runs }).setMag l (some (loadedWith k f c)) = t := ⟨_, rfl⟩
  have stock : t.stock = { s.stock with
      runs := takeRange k f c s.stock.runs, mags := s.stock.mags.upd l fun _ => some (loadedWith k f c) } := by rw [← isT]; rfl
  have shelved : Shelved s t := by rw [← isT]; exact ⟨rfl, rfl, rfl⟩
  have issue : t.issue = s.issue := by rw [← isT]; rfl
  rw [isT]
  obtain ⟨magT, otherMags⟩ := mags_upd (s := s) (t := t) (l := l) (f := fun _ => some (loadedWith k f c)) (by rw [stock])
  have magBlank : magBlanks (some (loadedWith k f c)) = blanksFrom k f c := by
    have count : (loadedWith k f c).remaining = c := by
      unfold loadedWith Loaded.remaining
      dsimp only
      omega
    rw [magBlanks, count]
    rfl
  refine h.restocked l shelved otherMags (by rw [stock]; exact taken.form) ?_ (sentRun_empty out) (gone := []) ?_ ?_ (.same (by rw [stock]))
    (SoldCounted.same h.sold (by rw [issue]) fun q => by rw [stock])
  · rw [magT]
    intro g is
    obtain rfl := Option.some.inj is
    exact ⟨Nat.le_refl f, by show f ≤ f + c - 1 + 1; omega⟩
  · rw [magT, magBlank, empty, List.append_nil, stock]
    refine List.Perm.append_right _ ?_
    exact (List.Perm.of_eq (List.append_nil _)).trans (blanks.trans List.perm_append_comm)
  · rw [issue]
    exact List.Subperm.refl _

theorem unloaded (h : StockForm s) {l : Lane} {m : Loaded} {rs : List Run} (out : s.lanes[l].out = []) (mag : s.stock.mags[l] = some m)
    (merges : returnedRuns m s.stock.runs = some rs) : StockForm ((s.onStock fun r => { r with runs := rs }).setMag l none) := by
  obtain ⟨form, blanks⟩ : RunsForm rs ∧ (runBlanks rs).Perm (magBlanks (some m) ++ runBlanks s.stock.runs) := by
    unfold returnedRuns at merges
    split at merges
    next spent =>
      obtain rfl := Option.some.inj merges
      refine ⟨h.runs, ?_⟩
      rw [magBlanks, spent]
      exact List.Perm.refl _
    next some' =>
      have free : FreeOf s.stock.runs m.kind m.next m.remaining := fun n low high held => by
        have inRuns : ((m.kind, some n) : Blank) ∈ runBlanks s.stock.runs := mem_runBlanks.2 ⟨n, rfl, held⟩
        have inMag : ((m.kind, some n) : Blank) ∈ magsBlanks s := by
          refine List.mem_flatMap.2 ⟨l, List.mem_finRange l, ?_⟩
          rw [mag]
          exact mem_blanksFrom.2 ⟨rfl, n, rfl, low, high⟩
        have nodup := h.nodup.of_append_left
        rw [blanksHeld] at nodup
        exact List.disjoint_of_nodup_append nodup inRuns (List.mem_append_left _ inMag)
      have merged := mergeRun_merged (Nat.one_le_iff_ne_zero.2 some') h.runs free merges
      exact ⟨merged.form, merged.blanks_perm h.runs free⟩
  obtain ⟨t, isT⟩ : ∃ t, (s.onStock fun r => { r with runs := rs }).setMag l none = t := ⟨_, rfl⟩
  have stock : t.stock = { s.stock with runs := rs, mags := s.stock.mags.upd l fun _ => none } := by rw [← isT]; rfl
  have shelved : Shelved s t := by rw [← isT]; exact ⟨rfl, rfl, rfl⟩
  have issue : t.issue = s.issue := by rw [← isT]; rfl
  rw [isT]
  obtain ⟨magT, otherMags⟩ := mags_upd (s := s) (t := t) (l := l) (f := fun _ => none) (by rw [stock])
  refine h.restocked l shelved otherMags (by rw [stock]; exact form) ?_ (sentRun_empty out) (gone := []) ?_ ?_ (.same (by rw [stock]))
    (SoldCounted.same h.sold (by rw [issue]) fun q => by rw [stock])
  · rw [magT]
    exact fun g is => (nomatch is)
  · rw [magT, mag, List.append_nil, stock]
    refine List.Perm.append_right _ ?_
    exact (List.perm_append_comm.trans blanks.symm).trans (List.Perm.of_eq (List.append_nil _).symm)
  · rw [issue]
    exact List.Subperm.refl _

theorem passed (h : StockForm s) {l : Lane} {m : Loaded} {r : Nat} (out : s.lanes[l].out = []) (mag : s.stock.mags[l] = some m)
    (low : m.next ≤ r) (high : r ≤ m.last + 1) : StockForm (s.onStock (passOver l m r)) := by
  obtain ⟨t, isT⟩ : ∃ t, s.onStock (passOver l m r) = t := ⟨_, rfl⟩
  have counters : t.stock.counters = s.stock.counters.upd m.kind fun c => c.addLost (r - m.next) := by rw [← isT]; rfl
  have mags : t.stock.mags = s.stock.mags.upd l fun _ => some { m with next := r } := by rw [← isT]; rfl
  have rest : t.stock.runs = s.stock.runs ∧ t.stock.doubts = s.stock.doubts ∧ t.issue = s.issue := by rw [← isT]; exact ⟨rfl, rfl, rfl⟩
  have shelved : Shelved s t := by rw [← isT]; exact ⟨rfl, rfl, rfl⟩
  rw [isT]
  obtain ⟨runs, doubts, issue⟩ := rest
  obtain ⟨magT, otherMags⟩ := mags_upd mags
  obtain ⟨bottom, -⟩ := h.mag l m mag
  refine h.restocked l shelved otherMags (by rw [runs]; exact h.runs) ?_ (sentRun_empty out) (gone := blanksFrom m.kind m.next (r - m.next)) ?_ ?_
    (.upd counters (fun _ => rfl) ?_ fun k => ofKind_blanksFrom k m.kind _ _)
    (SoldCounted.same h.sold (by rw [issue]) (issued_upd counters fun _ => Nat.le_refl _))
  · rw [magT]
    intro g is
    obtain rfl := Option.some.inj is
    exact ⟨by dsimp only; omega, high⟩
  · have split : magBlanks (some m) = blanksFrom m.kind m.next (r - m.next) ++ magBlanks (some { m with next := r }) := by
      have count : m.remaining = (r - m.next) + (m.last + 1 - r) := by
        unfold Loaded.remaining
        omega
      have start : m.next + (r - m.next) = r := by omega
      rw [magBlanks, count, blanksFrom_append, start]
      rfl
    rw [magT, mag, split, runs, doubts, List.perm_iff_count]
    intro b
    simp only [List.count_append]
    omega
  · rw [issue]
    exact (List.sublist_append_right _ _).subperm
  · unfold Counters.outcomes Counters.addLost
    dsimp only
    omega

/-! ### Blanks in doubt (R143) -/

/-- A declaration takes one blank from the In-Doubt List. -/
theorem doubts_dropped (h : StockForm s) {d : DoubtEntry} (mem : d ∈ s.stock.doubts) :
    (doubtBlanks s.stock.doubts).Perm (doubtBlanks (s.stock.doubts.filter fun x => decide (x ≠ d)) ++ [(d.kind, some d.serial)]) := by
  have nodup := h.nodup.of_append_left
  rw [blanksHeld] at nodup
  have apart : s.stock.doubts.Nodup := nodup.of_append_right.of_append_right.of_append_right.of_map
  have erased : (s.stock.doubts.filter fun x => decide (x ≠ d)) = s.stock.doubts.erase d := by
    rw [apart.erase_eq_filter]
    exact List.filter_congr fun x _ => by rw [Bool.eq_iff_iff]; simp
  rw [erased]
  exact ((List.perm_cons_erase mem).map _).trans (List.perm_append_comm (l₁ := [_]))

theorem sold_insert {q : StockKind} {e : IssueEntry} (h : SoldCounted s) (kind : e.kind = q) (table : t.issue.table = s.issue.table ++ [e])
    (counters : t.stock.counters = s.stock.counters.upd q fun c => c.addIssued 1) : SoldCounted t := fun k => by
  have before := h k
  have last : [e].countP (fun e => decide (e.kind = k ∧ e.state = .issued)) ≤ if q = k then 1 else 0 := by
    by_cases same : q = k
    · rw [if_pos same]
      exact List.countP_le_length
    · rw [if_neg same, List.countP_cons_of_neg (by simp [kind, same])]
      exact Nat.le_refl 0
  rw [table, List.countP_append, counters, Table.upd_get]
  by_cases same : k = q
  · subst same
    rw [if_pos rfl] at last ⊢
    exact Nat.add_le_add before last
  · rw [if_neg same]
    rw [if_neg fun c => same c.symm] at last
    omega

theorem declared (h : StockForm s) {d : DoubtEntry} (oc : DeclOutcome) (mem : d ∈ s.stock.doubts) :
    StockForm (declareEffect d oc (dropDoubt d s)) := by
  have shelved := (StockChange.declared s oc mem).shelved
  have dropped := h.doubts_dropped mem
  obtain ⟨t, isT⟩ : ∃ t, declareEffect d oc (dropDoubt d s) = t := ⟨_, rfl⟩
  obtain ⟨f, stock, received, outcomes⟩ : ∃ f : Counters → Counters, t.stock = { s.stock with
      doubts := s.stock.doubts.filter fun x => decide (x ≠ d), counters := s.stock.counters.upd d.kind f } ∧
      (∀ c, (f c).received = c.received) ∧ ∀ c, (f c).outcomes = c.outcomes + 1 := by
    rw [← isT]
    cases oc with
    | issued => exact ⟨fun c => c.addIssued 1, rfl, fun _ => rfl, fun c => by unfold Counters.outcomes Counters.addIssued; dsimp only; omega⟩
    | spoilt => exact ⟨fun c => c.addSpoilt 1, rfl, fun _ => rfl, fun c => by unfold Counters.outcomes Counters.addSpoilt; dsimp only; omega⟩
    | lost => exact ⟨fun c => c.addLost 1, rfl, fun _ => rfl, fun c => by unfold Counters.outcomes Counters.addLost; dsimp only; omega⟩
  obtain ⟨table, sold⟩ : (tickets t.issue.table).Subperm ([((d.kind, some d.serial) : Blank)] ++ tickets s.issue.table) ∧ SoldCounted t := by
    have unsold : t.issue.table = s.issue.table → (∀ k : StockKind, s.stock.counters[k].issued ≤ t.stock.counters[k].issued) →
        (tickets t.issue.table).Subperm ([((d.kind, some d.serial) : Blank)] ++ tickets s.issue.table) ∧ SoldCounted t := fun table issued => by
      refine ⟨?_, SoldCounted.same h.sold table issued⟩
      rw [table]
      exact (List.sublist_append_right _ _).subperm
    cases oc with
    | issued =>
      have table : t.issue.table = s.issue.table ++ [d.issued] := by rw [← isT]; rfl
      refine ⟨?_, sold_insert (s := s) h.sold rfl table (by rw [← isT]; rfl)⟩
      rw [table, tickets, List.map_append]
      exact List.perm_append_comm.subperm
    | spoilt =>
      exact unsold (by rw [← isT]; rfl) (issued_upd (q := d.kind) (f := fun c => c.addSpoilt 1) (by rw [← isT]; rfl) fun _ => Nat.le_refl _)
    | lost => exact unsold (by rw [← isT]; rfl) (issued_upd (q := d.kind) (f := fun c => c.addLost 1) (by rw [← isT]; rfl) fun _ => Nat.le_refl _)
  rw [isT] at shelved ⊢
  refine h.retabled shelved (by rw [stock]) (by rw [stock]) (gone := [(d.kind, some d.serial)]) ?_ table
    (.upd (n := 1) (q := d.kind) (f := f) (by rw [stock]) received (outcomes _) fun k => ofKind_one k d.kind _) sold
  rw [stock]
  exact dropped

/-! ### Tickets (R60, R69, R72, R73) -/

/-- The Issue Table with the state of one ticket changed. -/
theorem tickets_set (k : StockKind) (n : Nat) (st : EntryState) (es : List IssueEntry) :
    tickets (es.map fun e => if e.kind = k ∧ e.serial = n then { e with state := st } else e) = tickets es := by
  rw [tickets, tickets, List.map_map]
  refine List.map_congr_left fun e _ => ?_
  rw [Function.comp_apply]
  split <;> rfl

theorem countP_set_le (p : IssueEntry → Bool) {k : StockKind} {n : Nat} {st : EntryState} (falls : ∀ e : IssueEntry, p { e with state := st } = false)
    (es : List IssueEntry) : (es.map fun e => if e.kind = k ∧ e.serial = n then { e with state := st } else e).countP p ≤ es.countP p := by
  induction es with
  | nil => exact Nat.le_refl 0
  | cons e es ih =>
    rw [List.map_cons, List.countP_cons, List.countP_cons]
    refine Nat.add_le_add ih ?_
    split
    next named => rw [falls e]; exact Nat.zero_le _
    · exact Nat.le_refl _

theorem refunded (h : StockForm s) (k : StockKind) (n : Nat) (w : Window) (amount : Nat) :
    StockForm (setEntry k n (.refunded w amount) s) := by
  refine h.retabled ⟨rfl, rfl, rfl⟩ rfl rfl (gone := []) ?_ ?_ (.same rfl) fun q => ?_
  · rw [List.append_nil]
    exact List.Perm.refl _
  · rw [List.nil_append]
    exact (List.Perm.of_eq (tickets_set k n _ s.issue.table)).subperm
  · exact (countP_set_le _ (fun e => by simp) s.issue.table).trans (h.sold q)

theorem evicted (h : StockForm s) {table : List IssueEntry} {reserved : Nat} (fewer : table.Sublist s.issue.table) :
    StockForm (s.onIssue fun i => { i with table := table, reserved := reserved }) := by
  refine h.retabled ⟨rfl, rfl, rfl⟩ rfl rfl (gone := []) ?_ ?_ (.same rfl) fun q => ?_
  · rw [List.append_nil]
    exact List.Perm.refl _
  · rw [List.nil_append]
    exact (fewer.map _).subperm
  · exact fewer.countP_le.trans (h.sold q)

/-- VOID takes an ISSUED ticket off the count of those issued. -/
theorem voided (h : StockForm s) {k : StockKind} {n : Nat} {e : IssueEntry} (found : entryOf s k n = some e) (sold : e.state = .issued) :
    StockForm ((setEntry e.kind e.serial .voided s).onCounters e.kind Counters.void) := by
  have mem : e ∈ s.issue.table := List.mem_of_find?_eq_some found
  obtain ⟨t, isT⟩ : ∃ t, (setEntry e.kind e.serial .voided s).onCounters e.kind Counters.void = t := ⟨_, rfl⟩
  have counters : t.stock.counters = s.stock.counters.upd e.kind Counters.void := by rw [← isT]; rfl
  have table : t.issue.table = s.issue.table.map fun x => if x.kind = e.kind ∧ x.serial = e.serial then { x with state := .voided } else x := by
    rw [← isT]
    rfl
  have rest : t.stock.runs = s.stock.runs ∧ t.stock.mags = s.stock.mags ∧ t.stock.doubts = s.stock.doubts := by
    rw [← isT]
    exact ⟨rfl, rfl, rfl⟩
  have shelved : Shelved s t := by rw [← isT]; exact ⟨rfl, rfl, rfl⟩
  rw [isT]
  obtain ⟨runs, mags, doubts⟩ := rest
  have one : 1 ≤ s.stock.counters[e.kind].issued := by
    refine Nat.le_trans ?_ (h.sold e.kind)
    exact List.countP_pos_iff.2 ⟨e, mem, decide_eq_true ⟨rfl, sold⟩⟩
  refine h.retabled shelved runs mags (gone := []) ?_ ?_ (.upd (n := 0) counters (fun _ => rfl) ?_ fun k => by split <;> rfl) fun q => ?_
  · rw [doubts, List.append_nil]
  · rw [table, tickets_set]
    exact List.Subperm.refl _
  · unfold Counters.outcomes Counters.void
    dsimp only
    omega
  · rw [table, counters, Table.upd_get]
    have before := h.sold q
    by_cases same : q = e.kind
    · rw [if_pos same]
      subst same
      show _ ≤ s.stock.counters[e.kind].issued - 1
      obtain ⟨as, bs, split⟩ := List.append_of_mem mem
      rw [split] at before ⊢
      rw [List.map_append, List.map_cons, List.countP_append, List.countP_cons,
        if_pos (c := e.kind = e.kind ∧ e.serial = e.serial) ⟨rfl, rfl⟩]
      rw [List.countP_append, List.countP_cons, if_pos (decide_eq_true ⟨rfl, sold⟩)] at before
      have fewer := fun xs => countP_set_le (fun x : IssueEntry => decide (x.kind = e.kind ∧ x.state = .issued)) (k := e.kind) (n := e.serial)
        (st := .voided) (fun x => by simp) xs
      have left := fewer as
      have right := fewer bs
      have fallen : decide (({ e with state := .voided } : IssueEntry).kind = e.kind ∧ ({ e with state := .voided } : IssueEntry).state = .issued) =
          false := by simp
      rw [fallen]
      simp only [Bool.false_eq_true, if_false]
      omega
    · rw [if_neg same]
      exact (countP_set_le _ (fun x => by simp) s.issue.table).trans before

end StockForm

theorem StockChange.keeps {s t : State} (change : StockChange s t) (h : StockForm s) (up : s.office.startUp = none) : StockForm t := by
  cases change with
  | received some' apart merges => exact h.received up some' apart merges
  | loaded some' out empty run => exact h.loaded some' out empty run
  | unloaded out mag merges => exact h.unloaded out mag merges
  | passed out mag low high => exact h.passed out mag low high
  | declared oc mem => exact h.declared oc mem
  | voided found sold => exact h.voided found sold
  | refunded k n w amount => exact h.refunded k n w amount
  | evicted fewer => exact h.evicted fewer

end Sys2Proof.Machine
end

section
/-! The stock form through every elementary change, every course of a command, and so every step (O21). -/

namespace Sys2Proof.Machine

/-! ### The elementary changes -/

theorem StockForm.turned {s : State} (h : StockForm s) (up : s.office.startUp = none) (l : Lane) {f : LaneRec → LaneRec}
    (out : (f s.lanes[l]).out = s.lanes[l].out) : StockForm (s.onLane l f) := by
  refine h.unmoved (t := s.onLane l f) (fun _ => up) rfl (still_of_out fun m => ?_) rfl rfl
  by_cases same : m = l
  · rw [same, State.onLane_same]
    exact out
  · rw [State.onLane_ne _ _ same]

theorem movedState_out (l a m : Lane) (j : Job) (b : Buffer) (s : State) : (movedState l a j b s).lanes[m].out = s.lanes[m].out := by
  have left : ((rehome j b s).onLane l (LaneRec.without j.buffer)).lanes[m].out = s.lanes[m].out := by
    rw [rehome_images]
    by_cases same : m = l
    · rw [same, State.onLane_same]
      rfl
    · rw [State.onLane_ne _ _ same]
  by_cases same : m = a
  · subst same
    rw [movedState, State.onLane_same]
    exact left
  · rw [movedState, State.onLane_ne _ _ same]
    exact left

theorem StockForm.movedTo {s : State} (h : StockForm s) (up : s.office.startUp = none) (l a : Lane) (j : Job) (b : Buffer) :
    StockForm (movedState l a j b s) := by
  refine h.unmoved (t := movedState l a j b s) (fun _ => up) (congrArg OfficeControl.flight (moved_office l a j b s))
    (still_of_out fun m => movedState_out l a m j b s) ?_ ?_
  · rw [movedState, rehome_images]
    rfl
  · rw [movedState, rehome_images]
    rfl

theorem Move.stocked {s t : State} (move : Move s t) (up : s.office.startUp = none) (form : CreditsForm s) (h : StockForm s) :
    StockForm t := by
  cases move with
  | still stays => exact h.stays up stays
  | @turned l f queue out _ => exact h.turned up l out
  | @sent l can => exact h.send up can
  | @held l k moves _ => exact h.hold (form.lanes up l) up (form.out_apart l) k moves
  | @issued l j n _ head serial => exact h.issues up (form.out_apart l) head serial
  | @spoilt l j n c _ head serial => exact h.spoils up (form.out_apart l) c head serial
  | @doubled l j n lost working awaits serial both => exact h.doubles up (form.out_apart l) working awaits serial both
  | @repaired l also _ => exact h.repaired (form.lanes up l) up also
  | nextSpoilt none' => exact h.nextSpoilt up none'
  | @fed l j awaits => exact h.feeds up (form.out_apart l) awaits
  | @joined l j im _ _ =>
    have imaged : StockForm (s.setImage j.buffer (some im)) :=
      h.unmoved (t := s.setImage j.buffer (some im)) (fun _ => up) rfl (still_of_out fun _ => rfl) rfl rfl
    exact imaged.turned up l rfl
  | @moved l a j b _ _ => exact h.movedTo up l a j b
  | stock change => exact change.keeps h up

theorem Chain.stocked {s t : State} (chain : Chain s t) (up : s.office.startUp = none) (form : CreditsForm s) (h : StockForm s) :
    StockForm t := by
  induction chain with
  | refl s => exact h
  | step first _ ih => exact ih (first.up up) (first.credits up form) (first.stocked up form h)

/-! ### Resets and the end of a start-up period -/

theorem StockForm.sleeps {s t : State} (h : StockForm s) (asleep : Asleep s) (sleeps : Sleeps s t) : StockForm t :=
  h.unmoved (fun up => absurd up sleeps.asleep.down) sleeps.flight
    (still_of_out fun l => (sleeps.asleep.out l).trans (asleep.out l).symm) (by rw [sleeps.stock]) sleeps.table

/-- A reset takes the jobs out, and leaves the blanks in flight in the Flight List (R173, R174). -/
theorem StockForm.reset {s : State} (h : StockForm s) (k : ResetKind) : StockForm (doReset k s) := by
  have asleep := doReset_asleep k s
  refine h.settle (t := doReset k s) h.runs h.mags (fun up => absurd up asleep.down) (fun l => sentRun_empty (asleep.out l)) (gone := []) ?_
    (List.Subperm.refl _) (.same rfl) h.sold
  rw [List.append_nil]
  exact List.Perm.refl _

/-- The blanks in flight are in doubt after the restart with retention (R175). -/
theorem StockForm.doubtsFlight {s t : State} (h : StockForm s) (woken : Woken s t)
    (stock : t.stock = { s.stock with doubts := s.stock.doubts ++ s.office.flight.map FlightEntry.doubt })
    (table : t.issue.table = s.issue.table) : StockForm t := by
  have out : ∀ l : Lane, t.lanes[l].out = [] := fun l => congrArg LaneRec.out (woken.lanes l).1
  have doubts : doubtBlanks t.stock.doubts = doubtBlanks s.stock.doubts ++ flightBlanks s.office.flight := by
    rw [stock]
    show doubtBlanks (_ ++ _) = _
    rw [doubtBlanks, List.map_append, List.map_map]
    rfl
  have mags : magsBlanks t = magsBlanks s := by rw [magsBlanks, magsBlanks, stock]
  have runs : t.stock.runs = s.stock.runs := by rw [stock]
  refine h.settle (by rw [runs]; exact h.runs) (fun l => by rw [stock]; exact h.mag l) (fun _ => ?_) (fun l => sentRun_empty (out l))
    (gone := []) ?_ (by rw [table]; exact List.Subperm.refl _) (.same (by rw [stock])) (SoldCounted.same h.sold table fun k => by rw [stock])
  · rw [woken.flight]
    exact List.Perm.of_eq (List.flatMap_eq_nil_iff.2 fun l _ => congrArg outBlanks (out l)).symm
  · rw [List.append_nil, blanksHeld, blanksHeld, runs, mags, doubts, woken.flight, List.perm_iff_count]
    intro b
    simp only [List.count_append, flightBlanks, List.map_nil, List.count_nil]
    omega

/-- After the restart without retention there is no stock, as after `State.reset` (R176). -/
theorem StockForm.ofNothing {s t : State} (woken : Woken s t) (stock : t.stock = StockRegister.empty) (table : t.issue.table = []) :
    StockForm t := by
  refine reset_stockForm.unmoved (t := t) (fun _ => rfl) woken.flight (still_of_out fun l => ?_) ?_ table
  · have out : t.lanes[l].out = [] := congrArg LaneRec.out (woken.lanes l).1
    rw [out, reset_lane]
    rfl
  · rw [stock]
    rfl

/-! ### Every command -/

theorem Course.stocked {s t : State} (course : Course s t) (form : CreditsForm s) (h : StockForm s) : StockForm t := by
  induction course with
  | awake up chain => exact chain.stocked up form h
  | asleep asleep sleeps => exact h.sleeps asleep sleeps
  | reset _ k ih => exact ih.reset k
  | ended _ woken =>
    rcases woken.stock with ⟨stock, table⟩ | ⟨stock, table⟩
    · exact h.doubtsFlight woken stock table
    · exact .ofNothing woken stock table

theorem StockForm.queue {s : State} (h : StockForm s) (rest : List Instr) : StockForm { s with pending := rest } :=
  ⟨h.runs, h.mags, h.single, h.conserved, h.sold, h.flight, h.sent⟩

/-- The law of conservation with the blanks in flight counted by the jobs out (R6, R20). -/
theorem StockForm.conserved_inFlight {s : State} (h : StockForm s) (up : s.office.startUp = none) (k : StockKind) :
    s.stock.counters[k].received = inOffice s k + inMagazines s k + inFlight s k + inDoubt s k + s.stock.counters[k].issued +
      s.stock.counters[k].voided + s.stock.counters[k].spoilt + s.stock.counters[k].lost := by
  have law := h.conserved k
  rw [← ofKind_flight, ofKind_perm (h.flying up), ofKind_outs] at law
  exact law

/-- Settles O21: every command takes its course (`exec_course`), and each course keeps the form beside the credits'. -/
theorem stepKeepsStock : Obligations.StepKeepsStock := by
  intro s t form h stepped
  obtain ⟨-, after⟩ := step_keeps (P := fun s => CreditsForm s ∧ StockForm s) (fun _ rest h => ⟨h.1.queue rest, h.2.queue rest⟩)
    (fun _ _ _ h runs =>
      have course := exec_course h.1 runs
      ⟨course.credits h.1, course.stocked h.1 h.2⟩) s t ⟨form, h⟩ stepped
  exact ⟨after, after.conserved_inFlight⟩

end Sys2Proof.Machine
end
